-- ==== Sys2Proof/Word.lean ====
section
/-! DEFINITION. The word types of the module (R11, R12, R404): bytes, 16-, 32- and 64-bit words, and the
index types of its numbered units (R26, R325, R250, R240, R409, R428). -/

namespace Sys2Proof

abbrev Byte := BitVec 8
abbrev Half := BitVec 16
abbrev Word := BitVec 32
abbrev DWord := BitVec 64

/-- Cells 0 to 127 (R26). -/
abbrev CellId := Fin 128
/-- Cores within a cell, 0 to 31 (R26). -/
abbrev CoreId := Fin 32
/-- Flags of a cell, 0 to 255 (R159). -/
abbrev FlagId := Fin 256
/-- Hyhel ports, 0 to 31 (R325). -/
abbrev PortId := Fin 32
/-- Physical lanes of one direction of a port, 0 to 8 (R326). -/
abbrev LaneId := Fin 9
/-- Logical lanes, 0 to 7 (R326). -/
abbrev LogicalId := Fin 8
/-- Collective group slots, 0 to 15 (R250). -/
abbrev GroupId := Fin 16
/-- Far stacks, 0 to 15 (R206). -/
abbrev FarId := Fin 16
/-- Mailboxes, 0 to 137 (R428). -/
abbrev MboxId := Fin 138
/-- DMA channels, 0 to 3 (R414). -/
abbrev DmaId := Fin 4
/-- Thermal sensors, 0 to 319 (R388). -/
abbrev SensorId := Fin 320

end Sys2Proof
end

