-- ==== Sys2Proof/Syntax.lean ====
section
/-! DEFINITION. The commands of the block: one constructor of `Instr` for each row of spec/opcode_table.json,
with the operands that reach the module from outside at that moment (a register write, a word on a link, a reading of a
sensor, the end of a transfer). The spec keeps the binary encoding of engine commands private (R181): an engine
command carries the fields whose meanings bind (R112, R130, R131, R254, R288). -/

namespace Sys2Proof

/-- The two paths to the register pages (R404). -/
inductive Path where
  | host | callboard
  deriving DecidableEq, Repr, Inhabited

/-- Receive or transmit direction of a port (R464). -/
inductive Dir where
  | rx | tx
  deriving DecidableEq, Repr, Inhabited

/-- A flag: cell and number (R159). -/
structure FlagRef where
  cell : CellId
  flag : FlagId
  deriving DecidableEq, Repr, Inhabited

/-- How an engine command stands in its queue (R155, R171): core, tag, OFFSET in act cycles, GATE. -/
structure Issue where
  cell   : CellId
  core   : CoreId
  tag    : Word
  offset : Nat
  gate   : Bool
  deriving DecidableEq, Repr, Inhabited

/-- The fields of an MMA (R112). `ftq` set: the target is the finished-tile queue (R123). -/
structure MmaFields where
  tile    : Nat
  ftq     : Bool
  init    : Bool
  k       : Nat
  aAddr   : Nat
  aStride : Nat
  bAddr   : Nat
  bStride : Nat
  aFmt    : Byte
  bFmt    : Byte
  aScl    : Nat
  bScl    : Nat
  f21     : Bool
  deriving DecidableEq, Repr, Inhabited

/-- A vector source (R130). -/
inductive Src where
  | none
  | ls (addr : Nat) (fmt : Byte) (scl : Nat)
  | acc (tile elem : Nat)
  | queue (pop : Bool)
  | bcast (addr : Nat) (fmt : Byte) (scl : Nat) (p r : Nat)
  | imm (v : Word)
  deriving DecidableEq, Repr, Inhabited

/-- A source with its NEG and ABS modifiers (R134). -/
structure Operand where
  src : Src
  neg : Bool
  abs : Bool
  deriving DecidableEq, Repr, Inhabited

/-- A vector destination (R131). -/
inductive Dst where
  | ls (addr : Nat) (fmt : Byte) (scl : Nat)
  | acc (tile elem : Nat)
  deriving DecidableEq, Repr, Inhabited

/-- The fields of a vector instruction (R129 to R131, R146, R187, R89): the arithmetic format, the count, sources,
destination, segment length, scale slot, pass, seed index and FIRST. -/
structure VecFields where
  n     : Nat
  fmt   : Byte
  a     : Operand
  b     : Operand
  c     : Operand
  dst   : Dst
  seg   : Nat
  slot  : Nat
  pass  : Nat
  seed  : Nat
  first : Nat
  deriving DecidableEq, Repr, Inhabited

/-- What a RELEASE names (R145). -/
inductive ReleaseTo where
  | group (g : GroupId) (slot : Nat)
  | remote (chip : Nat) (off : Nat) (flag : FlagRef)
  deriving DecidableEq, Repr, Inhabited

/-- The conversion of a core-mover command (R118, R187, R89). -/
structure Conv where
  srcFmt : Byte
  dstFmt : Byte
  count  : Nat
  srcScl : Nat
  dstScl : Nat
  slot   : Nat
  seed   : Nat
  first  : Nat
  pass   : Nat
  deriving DecidableEq, Repr, Inhabited

/-- Local store to local store (R118): `elem` is the element width in bits for a transpose. -/
structure CopyFields where
  src       : Nat
  dst       : Nat
  bytes     : Nat
  transpose : Bool
  elem      : Nat
  conv      : Option Conv
  deriving DecidableEq, Repr, Inhabited

/-- Local store to or from the cell store (R118). -/
structure CsFields where
  toCell : Bool
  ls     : Nat
  cs     : Nat
  bytes  : Nat
  conv   : Option Conv
  deriving DecidableEq, Repr, Inhabited

/-- Accumulator tile to local store (R118). -/
structure TileStoreFields where
  tile   : Nat
  dst    : Nat
  dstFmt : Byte
  dstScl : Nat
  slot   : Nat
  seed   : Nat
  first  : Nat
  pass   : Nat
  deriving DecidableEq, Repr, Inhabited

/-- The transfers of the cell mover (R119). -/
inductive CmKind where
  | tierRead (off dst len : Nat)
  | tierWrite (off src len : Nat)
  | cellCopy (src : Nat) (cell : CellId) (dst len : Nat)
  deriving DecidableEq, Repr, Inhabited

/-- Symbol errors met by the logic dies in the lines a command reads (R219): line offset and erroneous symbols. -/
abbrev EccErrs := List (Nat × Nat)

structure CmFields where
  kind : CmKind
  flag : FlagRef
  ecc  : EccErrs
  deriving DecidableEq, Repr, Inhabited

/-- REMOTE WRITE and REMOTE READ (R246): `cs` is the cell-store address; `ecc` what a read that runs here meets. -/
structure RemoteFields where
  chip : Nat
  off  : Nat
  cs   : Nat
  len  : Nat
  flag : FlagRef
  ecc  : EccErrs
  deriving DecidableEq, Repr, Inhabited

/-- A remote access as its target receives it (R246, R335); `poison` lists the poisoned lines of a write. -/
structure RemoteReq where
  write   : Bool
  srcChip : Nat
  reqId   : Nat
  off     : Nat
  len     : Nat
  data    : List Byte
  poison  : List Nat
  ecc     : EccErrs
  deriving DecidableEq, Repr, Inhabited

/-- What comes back for a remote access (R246): data with its poisoned lines, an acceptance, or a refusal. -/
inductive RemoteAnswer where
  | data (bytes : List Byte) (poison : List Nat)
  | accepted
  | refusedAtTarget
  | noPath
  deriving DecidableEq, Repr, Inhabited

/-- What a host-initiated flit is (R426): the data of a write, the request of a read with the symbols in error that it meets, or an
answer to this module's own descriptor. -/
inductive HostFlit where
  | write
  | request (ecc : EccErrs)
  | answer
  deriving DecidableEq, Repr, Inhabited

/-- PAGE WRITE and PAGE READ (R227). -/
structure PageFields where
  region : Nat
  page   : Nat
  count  : Nat
  cs     : Nat
  flag   : FlagRef
  ecc    : EccErrs
  deriving DecidableEq, Repr, Inhabited

/-- UPDATE READ and UPDATE WRITE (R288). -/
structure UpdFields where
  group : Nat
  part  : Nat
  first : Nat
  count : Nat
  cs    : Nat
  flag  : FlagRef
  ecc   : EccErrs
  deriving DecidableEq, Repr, Inhabited

/-- A WAIT of a sync engine (R162, R163). -/
structure WaitFields where
  flag    : FlagId
  target  : Half
  timeout : Nat
  gMat    : Bool
  gVec    : Bool
  gMov    : Bool
  deriving DecidableEq, Repr, Inhabited

/-- Who waits: a core's sync engine or a communication queue (R164, R253). -/
inductive Waiter where
  | core (cell : CellId) (core : CoreId)
  | comm (g : GroupId)
  deriving DecidableEq, Repr, Inhabited

/-- A cell-store place or a tier offset (R255). -/
inductive CommMem where
  | cell (c : CellId) (addr : Nat)
  | tier (off : Nat)
  deriving DecidableEq, Repr, Inhabited

/-- The source of a collective (R255): released chunk slots, or a store: a list of cell-store ranges (cell, address,
bytes) or a tier offset. -/
inductive CommSrc where
  | queue
  | ranges (l : List (CellId × Nat × Nat))
  | tier (off : Nat)
  deriving DecidableEq, Repr, Inhabited

/-- REDUCE-SCATTER and ALL-REDUCE (R254, R286). Of a communication command `ecc` names each line by its place in the 43-bit map. -/
structure ReduceFields where
  count        : Nat
  src          : CommSrc
  dst          : Option CommMem
  layout       : Nat
  flagDone     : FlagRef
  flagProgress : Option FlagRef
  update       : Option (Nat × Nat)
  ecc          : EccErrs
  deriving DecidableEq, Repr, Inhabited

/-- ALL-GATHER (R254, R262). -/
structure GatherFields where
  count      : Nat
  inFmt      : Byte
  outFmt     : Byte
  src        : CommSrc
  dst        : CommMem
  layout     : Nat
  flagDone   : FlagRef
  flagArrive : Option FlagRef
  ecc        : EccErrs
  deriving DecidableEq, Repr, Inhabited

/-- ALL-TO-ALL (R263). -/
structure A2aFields where
  rowBytes   : Nat
  src        : CommSrc
  srcCounts  : CommMem
  dst        : CommMem
  dstCounts  : CommMem
  dropCounts : CommMem
  layout     : Nat
  flagDone   : FlagRef
  flagArrive : Option FlagRef
  ecc        : EccErrs
  deriving DecidableEq, Repr, Inhabited

/-- PERMUTE (R267): offsets of the move list and of the IN_BYTES table. -/
structure PermuteFields where
  moveList  : Nat
  moves     : Nat
  inBytes   : Nat
  rounds    : Nat
  newLayout : Nat
  layout    : Nat
  flagDone  : FlagRef
  ecc       : EccErrs
  deriving DecidableEq, Repr, Inhabited

/-- A WAIT of a communication queue (R253). -/
structure CommWaitFields where
  flag    : FlagRef
  target  : Half
  timeout : Nat
  deriving DecidableEq, Repr, Inhabited

/-- A control word as it stands in a control flit (R337): eight 32-bit words. -/
structure CtlWord where
  w0 : Word
  w1 : Word
  w2 : Word
  w3 : Word
  w4 : Word
  w5 : Word
  w6 : Word
  w7 : Word
  deriving DecidableEq, Repr, Inhabited

/-- A flit: its 32-byte header as eight words (R335) and its valid payload bytes. -/
structure Flit where
  hdr     : CtlWord
  payload : List Byte
  deriving DecidableEq, Repr, Inhabited

/-- A port frame at the receiver (R328, R331, R334): the 80-bit header, the symbols found in error in each of the nine codewords by
physical lane, the lanes whose marker fails its CRC, a lane that has lost signal or lock, and its flits. -/
structure Frame where
  hdr        : BitVec 80
  errs       : List (List Nat)
  badMarkers : List LaneId
  laneLost   : Option LaneId
  flits      : List Flit
  deriving DecidableEq, Repr, Inhabited

/-- A ledger flit (R344): the frame it came in, its counts per pool, G, and its CRC over them. -/
structure Ledger where
  frame  : Nat
  sent   : List Nat
  credIn : List Nat
  g      : Nat
  crcOk  : Bool
  deriving DecidableEq, Repr, Inhabited

/-- A delay probe as it arrives (R40, R338): the word, and the local count at its frame boundary. -/
structure Probe where
  word    : CtlWord
  arrived : DWord
  deriving DecidableEq, Repr, Inhabited

/-- A cue marker as it arrives (R45, R338): the word, the local count at its frame boundary, and, when it comes from the
parent, the residual measured against it in units of 1/16 ns (R68 ALIGN_OFFSET). -/
structure MarkerIn where
  word     : CtlWord
  arrived  : DWord
  residual : Int
  deriving DecidableEq, Repr, Inhabited

/-- A pulse on the cue seed pair (R487): own count at its rising edge, its width in ns, and the ns to the next rising
edge. -/
structure SeedPulse where
  edge  : DWord
  width : Nat
  gap   : Nat
  deriving DecidableEq, Repr, Inhabited

/-- What the link complex and the power controller measured over an act (R272, R386): the act cycle of completion, the
three waits in ns, and the largest 10 µs mean power in W. -/
structure ActMeasure where
  actCycle    : Nat
  localWait   : Nat
  creditWait  : Nat
  arrivalWait : Nat
  peakW       : Nat
  deriving DecidableEq, Repr, Inhabited

/-- The three transmit readings of one lane (R358): bias, back-facet power, modulator-tap OMA. -/
structure TxReading where
  bias      : Nat
  backFacet : Int
  modOma    : Int
  deriving DecidableEq, Repr, Inhabited

/-- The receive readings of one lane (R358, R360): received OMA and the corrected bits of the last second. -/
structure RxReading where
  rxOma    : Int
  corrBits : Nat
  deriving DecidableEq, Repr, Inhabited

/-- What phase 4 measures of one lane (R354): corrected bits over its 100 ms, OMA margin, laser bias, back-facet power. -/
structure LaneQual where
  bits      : Nat
  margin    : Int
  bias      : Nat
  backFacet : Int
  deriving DecidableEq, Repr, Inhabited

/-- What a training phase found (R353 to R355, R358): the measurements of the lanes of each direction, the peer's information word, the
path loss of each lane, the peer's readings and beginning-of-life bias, and the last frame that the peer has taken. -/
structure TrainResult where
  rx       : List LaneQual
  tx       : List LaneQual
  peer     : CtlWord
  pathLoss : List Nat
  peerTx   : List TxReading
  peerBol  : List Nat
  lastGood : Nat
  deriving DecidableEq, Repr, Inhabited

/-- A DMA descriptor as fetched from host memory (R414). -/
structure DmaDesc where
  words : List Word
  deriving DecidableEq, Repr, Inhabited

/-- A Callboard frame as bytes on the line (R418). -/
structure CbFrame where
  dest    : Nat
  bcast   : Bool
  up      : Bool
  src     : Nat
  type    : Byte
  seq     : Byte
  payload : List Byte
  hcrc    : Byte
  crc     : Word
  deriving DecidableEq, Repr, Inhabited

/-- What a far link meets as one of its lanes fails (R223): whether four lanes still run, the transfers that were replayed. -/
structure FarLoss where
  fourRun : Bool
  replays : Nat
  deriving DecidableEq, Repr, Inhabited

/-- What 1 ms of qualification gives (R361): the logical lane that the understudy is for, whether it has locked, and what was measured
of it. -/
structure Qualified where
  lane   : LogicalId
  locked : Bool
  meas   : LaneQual
  deriving DecidableEq, Repr, Inhabited

/-- What 1 ms of the memory gives (R223, R240): the occupancies of the channels, and the transfers that each far link replayed. -/
structure ChannelWindow where
  occ     : List Nat
  replays : List Nat
  deriving DecidableEq, Repr, Inhabited

/-- An access that no block answers in time (R406): a read, a write, or one of the accesses of a Callboard request (R419). -/
inductive LateAccess where
  | read
  | write
  | request (f : CbFrame)
  deriving DecidableEq, Repr, Inhabited

/-- What is read in a pluggable (R353, R365): the code of its type, and the bias of each lane at its beginning of life. -/
structure CalPage where
  code    : Nat
  biasBol : List Nat
  deriving DecidableEq, Repr, Inhabited

/-- What a DMA descriptor moves (R414, R415): the bytes that came from the host or the remote chip, the offsets of their poisoned
lines, and the symbols in error that a read of this module's tiers meets. -/
structure DmaData where
  bytes  : List Byte
  poison : List Nat
  ecc    : EccErrs
  deriving DecidableEq, Repr, Inhabited

/-- A host CXL.mem access (R401): device physical address, the line written and whether it comes with the CXL poison indication
(R395), whether the host keeps the line cached. -/
structure CxlMemAccess where
  addr   : Nat
  write  : Option (List Byte)
  poison : Bool
  cache  : Bool
  ecc    : EccErrs
  deriving DecidableEq, Repr, Inhabited

/-- What a start-up step's work found (R442): whether the near stacks trained, the far stacks that trained, the inventory code of each
cage (R370) and the calibration page of its pluggable (R353), what each voltage domain's monitors need, in units of 0.5 mV, and the
ceiling at which the margin is met. -/
structure StepReport where
  nearOk   : Bool
  farOk    : BitVec 16
  cages    : List Nat
  biasBol  : List (List Nat)
  offsets  : List Nat
  ceiling  : Nat
  deriving DecidableEq, Repr, Inhabited

/-- The instructions of the IEEE 1149.1 test port (R438). -/
inductive JtagInstr where
  | bypass | idcode | samplePreload | extest | other
  deriving DecidableEq, Repr, Inhabited

/-- The commands: one constructor for each row of the table, in the table's order. -/
inductive Instr where
  -- cue, alignment, call sheet
  | cueBoundary
  | cueMarkerReceived (p : PortId) (m : MarkerIn)
  | alignStart (path : Path)
  | delayProbeReceived (p : PortId) (m : Probe)
  | alignMeasureDone (p : PortId) (floodNs : Nat)
  | cueSeedPulse (m : SeedPulse)
  | alignSeedWindowEnd
  | alignLocked
  | alignLost
  | markerLate (p : PortId)
  | cueIsolated
  | timeLoRead (path : Path)
  | csArm (path : Path) (machine : Bool)
  | csDisarm (path : Path) (machine : Bool)
  | stagingWrite (path : Path) (off : Nat) (v : Word)
  | actComplete (second : Bool) (m : ActMeasure)
  | queueRefill (cell : CellId) (cycle : Nat)
  -- engines
  | mma (i : Issue) (f : MmaFields)
  | ftqPush (cell : CellId) (core : CoreId) (cycle : Nat)
  | add (i : Issue) (f : VecFields)
  | mul (i : Issue) (f : VecFields)
  | fma (i : Issue) (f : VecFields)
  | min (i : Issue) (f : VecFields)
  | max (i : Issue) (f : VecFields)
  | cmpLt (i : Issue) (f : VecFields)
  | cmpLe (i : Issue) (f : VecFields)
  | cmpEq (i : Issue) (f : VecFields)
  | cmpGe (i : Issue) (f : VecFields)
  | cmpGt (i : Issue) (f : VecFields)
  | cmpNe (i : Issue) (f : VecFields)
  | sel (i : Issue) (f : VecFields)
  | cvt (i : Issue) (f : VecFields)
  | mant (i : Issue) (f : VecFields)
  | expo (i : Issue) (f : VecFields)
  | scale2 (i : Issue) (f : VecFields)
  | redSum (i : Issue) (f : VecFields)
  | redMax (i : Issue) (f : VecFields)
  | redMin (i : Issue) (f : VecFields)
  | redAmax (i : Issue) (f : VecFields)
  | release (i : Issue) (dest : ReleaseTo)
  | ftqDrainDone (cell : CellId) (core : CoreId)
  | localCopy (i : Issue) (f : CopyFields)
  | cellStoreTransfer (i : Issue) (f : CsFields)
  | tileLoad (i : Issue) (tile src : Nat)
  | tileStore (i : Issue) (f : TileStoreFields)
  | cellMoverTransfer (i : Issue) (f : CmFields)
  | remoteWrite (i : Issue) (f : RemoteFields)
  | remoteRead (i : Issue) (f : RemoteFields)
  | remoteAccessReceived (r : RemoteReq)
  | remoteReplyReceived (reqId : Nat) (a : RemoteAnswer)
  | pageWrite (i : Issue) (f : PageFields)
  | pageRead (i : Issue) (f : PageFields)
  | regionReset (i : Issue) (region : Nat) (flag : FlagRef)
  | updateRead (i : Issue) (f : UpdFields)
  | updateWrite (i : Issue) (f : UpdFields)
  | cellMoverComplete (cell : CellId) (core : CoreId) (tag : Word)
  | wait (i : Issue) (f : WaitFields)
  | waitComplete (w : Waiter) (cycle : Nat)
  | waitExpired (w : Waiter)
  | flagInc (i : Issue) (flag : FlagRef) (k : Nat)
  | flagWrite (i : Issue) (flag : FlagId) (v : Half)
  | mark (i : Issue) (v : Word)
  | traceRecordDrop
  -- collectives and point-to-point
  | reduceScatter (g : GroupId) (tag : Word) (f : ReduceFields)
  | allGather (g : GroupId) (tag : Word) (f : GatherFields)
  | allReduce (g : GroupId) (tag : Word) (f : ReduceFields)
  | allToAll (g : GroupId) (tag : Word) (f : A2aFields)
  | permute (g : GroupId) (tag : Word) (f : PermuteFields)
  | permuteRoundDone (g : GroupId)
  | commWait (g : GroupId) (tag : Word) (f : CommWaitFields)
  | collectiveFlitReceived (p : PortId) (f : Flit)
  | collFlagDone (g : GroupId)
  | collFlagProgress (g : GroupId)
  | collFlagArrive (g : GroupId) (rank : Nat)
  | groupAbandonReceived (p : PortId) (w : CtlWord)
  | p2pFlitReceived (p : PortId) (f : Flit)
  | mgmtMirrorReceived (p : PortId) (destChip srcChip : Nat) (frame : CbFrame)
  | hostInitiatedFlitReceived (p : PortId) (f : Flit) (role : HostFlit)
  | p2pSkewWindow (flits : List Nat) (capacity : Nat)
  -- scales, Curtain
  | scalePreparationDone
  | scaleWritebackDone
  | curtainContribute
  | curtainWordReceived (p : PortId) (w : CtlWord)
  | curtainMissingCheck (dir : Fin 6)
  | curtainDecide
  | confirmWordReceived (p : PortId) (w : CtlWord)
  | curtainFinalDecision
  -- memory
  | resyncPageDone (page : Nat)
  | rekeyFillDone (tier2 : Bool)
  | patrolScrub (line : Nat) (symErrs : Nat) (newerWrite : Bool) (lastOfPass : Bool)
  | channelOccupancyWindow (occ : ChannelWindow)
  | farLinkLaneFail (stack : FarId) (loss : FarLoss)
  | snapArm (path : Path)
  | snapAbort (path : Path)
  | snapshotStart (ecc : EccErrs)
  | snapshotDone
  | ilLock1 (path : Path)
  | ilLock2 (path : Path)
  | uncClear (path : Path)
  -- links
  | frameReceived (p : PortId) (f : Frame)
  | ledgerFlitReceived (p : PortId) (l : Ledger)
  | creditReinitTimeout (p : PortId)
  | laneCmdRequest (p : PortId) (lane : LogicalId)
  | laneCmdUnderstudyLocked (p : PortId) (lane : LogicalId)
  | laneCmdMirrorVerified (p : PortId) (lane : LogicalId) (frame : Nat)
  | laneCmdNarrowRequest (p : PortId) (lane : LogicalId) (frame : Nat)
  | laneCmdCreditReinit (p : PortId) (free : List Nat) (lastGood : Nat)
  | laneCmdUnderstudyFailed (p : PortId)
  | understudyQualifyDone (p : PortId) (q : Qualified)
  | mirrorCompareDone (p : PortId) (equal : Bool)
  | understudyTimeout (p : PortId)
  | laneSwitch (p : PortId) (d : Dir) (frame : Nat) (lane : LogicalId) (narrow : Bool)
  | understudyTrigger (p : PortId) (d : Dir) (lanes : List LaneId)
  | monitorSend (p : PortId) (r : List TxReading)
  | monitorWordReceived (p : PortId) (w : CtlWord)
  | monitorStale (p : PortId)
  | laneClassify (p : PortId) (r : List RxReading)
  | laneLost (p : PortId) (d : Dir) (lane : LaneId)
  | portTrain (path : Path) (p : PortId)
  | portRetrain (path : Path) (p : PortId)
  | portDark (path : Path) (p : PortId)
  | linkTrain (path : Path)
  | linkDarkAll (path : Path)
  | darkQuiesceDone (p : PortId)
  | trainingPhaseDone (p : PortId) (r : TrainResult)
  | trainingFailed (p : PortId)
  | peerInfoReceived (p : PortId) (w : CtlWord)
  | pluggableInserted (p : PortId) (page : CalPage)
  | pluggableRemoved (p : PortId)
  -- power and thermal
  | powerEstimateTick (raw : Nat) (current10us : Nat)
  | calibrationTick (measured : Nat) (vin : Nat) (iin : Nat) (rawMean : Nat)
  | calibrationLost
  | capWrite (path : Path) (v : Word)
  | clockStep
  | rampLeadStart
  | thermalSample (t : List Nat) (inlet outlet : Nat)
  | thermalTrip
  | sensorExclude (x : SensorId)
  | throttleStepDown
  | throttleStepUp
  | droopDetect
  | droopStretchEnd (cycles : Nat)
  | coolingClear (path : Path)
  | ageCtrlNow (path : Path)
  | ageingReplan (need : List Nat) (ceiling : Nat) (testW : Nat)
  | ageingDeferred
  | inletHigh (inlet : Nat)
  -- CXL, registers, host
  | cxlLinkDown
  | cxlLinkUp (rate : Nat) (width : Nat) (cxl : Bool)
  | tier3RequestDone (id : Nat) (data : List Byte) (poisoned : List Nat)
  | tier3Timeout (id : Nat)
  | cxlMemAccess (a : CxlMemAccess)
  | biResponse (line : Nat) (dirty : Option (List Byte))
  | biTimeout (line : Nat)
  | hostSnoop (addr : Nat)
  | registerWrite (path : Path) (off : Nat) (size : Nat) (v : DWord)
  | registerTimeout (path : Path) (off : Nat) (acc : LateAccess)
  | eventForce (path : Path) (page : Nat) (bits : Word)
  | evqRdWrite (path : Path) (v : Word)
  | irqHoldoffExpire (vec : Fin 16)
  | dmaTailWrite (ch : DmaId) (tail : Nat) (descs : List DmaDesc)
  | dmaDescriptorDone (ch : DmaId) (data : DmaData) (linkError : Bool) (remoteRefused : Bool)
  | dmaReset (ch : DmaId)
  | loadGo (path : Path)
  | loadCheckDone
  | loadUnload (path : Path) (prog : Byte)
  | mgmtChipWrite (path : Path) (v : Word)
  | captureClearHaz (path : Path)
  | captureClearWx (path : Path)
  | traceEnable (path : Path) (v : Word)
  | slackEnable (path : Path) (v : Word)
  | cellCountClear (path : Path) (cell : CellId)
  | collCountClear (path : Path)
  | faultLogClear (path : Path)
  -- Callboard and mailboxes
  | enumerate (f : CbFrame)
  | enumDone (f : CbFrame)
  | callboardTailDetect
  | regRead (f : CbFrame)
  | regWrite (f : CbFrame)
  | reset (f : CbFrame)
  | mboxReq (f : CbFrame)
  | recoveryBlock (f : CbFrame) (status : Byte)
  | callboardForward (f : CbFrame)
  | telemetry
  | version (path : Path) (m : MboxId) (seq : Byte)
  | identity (path : Path) (m : MboxId) (seq : Byte)
  | attest (path : Path) (m : MboxId) (seq : Byte)
  | fwStage (path : Path) (m : MboxId) (seq : Byte)
  | fwSelect (path : Path) (m : MboxId) (seq : Byte)
  | svnAdvance (path : Path) (m : MboxId) (seq : Byte)
  | keyRevoke (path : Path) (m : MboxId) (seq : Byte)
  | remoteMgmt (path : Path) (m : MboxId) (seq : Byte)
  | mboxDiagnostic (path : Path) (m : MboxId) (opcode : Byte) (seq : Byte)
  | mailboxDone (m : MboxId)
  | mailboxExpired (m : MboxId)
  | mctrlAck (path : Path) (m : MboxId)
  | mctrlAbort (path : Path) (m : MboxId)
  -- start-up, reset, input
  | powerInputRise
  | startupStepComplete (r : StepReport)
  | startupStepTimeout (cause : Nat)
  | resetLevelWrite (path : Path) (level : Nat)
  | perstAssert
  | watchdogExpire
  | uvloFall
  | overvoltageDisconnect
  | presBreak
  | inputRangeLeave
  | testPortInstruction (j : JtagInstr)
  | eventRingEnable (path : Path) (v : Word)
  | dmaChannelEnable (ch : DmaId) (v : Word) (descs : List DmaDesc)
  | pageSettlementDone (page : Nat)
  | inletHighRearm
  deriving DecidableEq, Repr, Inhabited

end Sys2Proof
end

