-- ==== Sys2Proof/Decode.lean ====
section
/-! DEFINITION. Words that spell commands. The spec keeps the encoding of commands private (R181) and the table of commands
gives no row any bits, so no word spells a command. -/

namespace Sys2Proof

/-- The command a word of `nbits` bits spells. -/
def decodeTableWord (_nbits _w : Nat) : Option Instr := none

end Sys2Proof
end

