-- ==== Sys2Proof/Machine/Bits.lean ====
section
/-! DEFINITION. Bit fields, little-endian bytes (R12, R178), and the CRCs of R330 and R63. -/

namespace Sys2Proof.Machine

open Sys2Proof

/-- Bits [lo+w-1:lo] of a number. -/
def bitsOf (v lo w : Nat) : Nat := v / 2 ^ lo % 2 ^ w

/-- A number with bits [lo+w-1:lo] replaced. -/
def withBits (v lo w x : Nat) : Nat := v - bitsOf v lo w * 2 ^ lo + x % 2 ^ w * 2 ^ lo

def bitAt (v n : Nat) : Bool := v / 2 ^ n % 2 == 1

def boolNat (b : Bool) : Nat := if b then 1 else 0

/-- Two's complement of `w` bits read as a signed number. -/
def signedOf (w v : Nat) : Int := if bitAt v (w - 1) then (v : Int) - 2 ^ w else v

/-- A signed number in `w` bits. -/
def unsignedOf (w : Nat) (x : Int) : Nat := (x % 2 ^ w).toNat

def popcount (w v : Nat) : Nat := ((List.range w).filter (bitAt v)).length

def setBitsOf (w v : Nat) : List Nat := (List.range w).filter (bitAt v)

def ceilDiv (a b : Nat) : Nat := (a + b - 1) / b

/-- Little-endian value of bytes. -/
def leNat : List Byte → Nat
  | [] => 0
  | b :: l => b.toNat + 256 * leNat l

/-- The low `n` bytes of a value, least significant first. -/
def natLe : Nat → Nat → List Byte
  | 0, _ => []
  | n + 1, v => BitVec.ofNat 8 v :: natLe n (v / 256)

def slice (l : List Byte) (off len : Nat) : List Byte := (l.drop off).take len

def byteOf (l : List Byte) (off : Nat) : Nat := (l.getD off 0).toNat
def u16Of (l : List Byte) (off : Nat) : Nat := leNat (slice l off 2)
def u32Of (l : List Byte) (off : Nat) : Nat := leNat (slice l off 4)
def u64Of (l : List Byte) (off : Nat) : Nat := leNat (slice l off 8)

def wordsLe (l : List Nat) : List Byte := l.flatMap (natLe 4)

/-- `l` cut or filled with zeros to `n` bytes. -/
def fitBytes (n : Nat) (l : List Byte) : List Byte := l.take n ++ List.replicate (n - l.length) 0

/-- One bit into a CRC register that is not reflected. -/
def crcBit (width poly c : Nat) (b : Bool) : Nat :=
  let top := bitAt c (width - 1) ^^ b
  (c * 2 % 2 ^ width) ^^^ (if top then poly else 0)

/-- A byte, bit 7 first. -/
def crcByte (width poly c : Nat) (x : Byte) : Nat :=
  [7, 6, 5, 4, 3, 2, 1, 0].foldl (fun c i => crcBit width poly c (bitAt x.toNat i)) c

/-- CRC-8 of the frame header and the Callboard header (R330). -/
def crc8 (l : List Byte) : Nat := l.foldl (crcByte 8 0x07) 0xFF

/-- CRC-16 of the call-sheet digest (R63). -/
def crc16 (l : List Byte) : Nat := l.foldl (crcByte 16 0x1021) 0xFFFF

/-- CRC-4 of the lane marker, over bits [35:0], most significant first (R330, R332). -/
def crc4 (v : Nat) : Nat :=
  (List.range 36).foldl (fun c i => crcBit 4 0x3 c (bitAt v (35 - i))) 0xF

/-- One bit of the reflected Castagnoli CRC. -/
def crcRefBit (c : Nat) : Nat := c / 2 ^^^ (if c % 2 = 1 then 0x82F63B78 else 0)

def crcRefByte (c : Nat) (x : Byte) : Nat :=
  [0, 1, 2, 3, 4, 5, 6, 7].foldl (fun c _ => crcRefBit c) (c ^^^ x.toNat)

/-- CRC-32C (R330). -/
def crc32c (l : List Byte) : Nat := l.foldl crcRefByte 0xFFFFFFFF ^^^ 0xFFFFFFFF

/-- The words of a control word or flit header. -/
def cwWords (w : CtlWord) : List Nat :=
  [w.w0, w.w1, w.w2, w.w3, w.w4, w.w5, w.w6, w.w7].map BitVec.toNat

def cwOfWords (l : List Nat) : CtlWord :=
  let g := fun i => BitVec.ofNat 32 (l.getD i 0)
  ⟨g 0, g 1, g 2, g 3, g 4, g 5, g 6, g 7⟩

/-- The CRC of words 0 to 6 in word 7 (R335, R337). -/
def cwCrcOk (w : CtlWord) : Bool := crc32c (wordsLe ((cwWords w).take 7)) == w.w7.toNat

/-- Words 0 to 6 with their CRC. -/
def cwSeal (l : List Nat) : CtlWord :=
  let l7 := (l ++ List.replicate 7 0).take 7
  cwOfWords (l7 ++ [crc32c (wordsLe l7)])

/-- `mix` of 64-bit values modulo 2^64. -/
def mul64 (a b : Nat) : Nat := a * b % 2 ^ 64

end Sys2Proof.Machine
end

