-- ==== Sys2Proof/Machine/Map.lean ====
section
/-! DEFINITION. Sparse tables: a list of (key, value) pairs with strictly rising keys. What an unlisted key reads as is the
caller's. -/

namespace Sys2Proof.Machine

abbrev AMap (α : Type) := List (Nat × α)

/-- The value listed at a key. -/
def AMap.find {α : Type} : AMap α → Nat → Option α
  | [], _ => none
  | (k, v) :: m, x => if x = k then some v else AMap.find m x

/-- The value at a key, `d` where none is listed. -/
def AMap.get {α : Type} (m : AMap α) (x : Nat) (d : α) : α := (AMap.find m x).getD d

/-- List a value at a key. -/
def AMap.put {α : Type} : AMap α → Nat → α → AMap α
  | [], x, v => [(x, v)]
  | (k, w) :: m, x, v =>
    if x < k then (x, v) :: (k, w) :: m
    else if x = k then (x, v) :: m
    else (k, w) :: AMap.put m x v

/-- Unlist a key. -/
def AMap.del {α : Type} : AMap α → Nat → AMap α
  | [], _ => []
  | (k, w) :: m, x => if x = k then m else (k, w) :: AMap.del m x

/-- Strictly rising keys, all above `lo` where one is given. -/
def AMap.sortedAbove {α : Type} : Option Nat → AMap α → Bool
  | _, [] => true
  | none, (k, _) :: m => AMap.sortedAbove (some k) m
  | some l, (k, _) :: m => decide (l < k) && AMap.sortedAbove (some k) m

def AMap.sorted {α : Type} (m : AMap α) : Bool := AMap.sortedAbove none m

end Sys2Proof.Machine
end

