-- ==== Sys2Proof/Machine/Regs.lean ====
section
/-! DEFINITION. The register fields of every page, from the register tables of the chapters (R68, R127, R150, R182, R183,
R204, R239, R240, R274, R302, R324, R370, R371, R394, R407, R428, R439, R440, R457, R474), and their access codes (R14) and
reset values. The name of a field is its page and field in the spec's spelling. `Fld.at_` gives entry `i` of an array. -/

namespace Sys2Proof.Machine

/-- A field: page index, byte offset in the page, lowest bit, width, and the array stride and count (0 and 1 for a
single register). -/
structure Fld where
  page   : Nat
  off    : Nat
  lo     : Nat
  w      : Nat
  stride : Nat
  count  : Nat
  deriving DecidableEq, Repr

/-- Entry `i` of an array of registers. -/
def Fld.at_ (f : Fld) (i : Nat) : Fld := { f with off := f.off + f.stride * i, stride := 0, count := 1 }

/-- BAR0 byte offset of the word that holds the field (R409). -/
def Fld.addr (f : Fld) : Nat := f.page * 0x1000 + f.off

/-- Access codes (R14). -/
inductive Acc where
  | rw | ro | wo | w1c | st | sat
  deriving DecidableEq, Repr

/-- One row of a register table. -/
structure RegRow where
  fld   : Fld
  acc   : Acc
  reset : Nat
  deriving DecidableEq, Repr

namespace R


/-! Page CUE (R68). -/

def cueTimeLo : Fld := ⟨2, 0x40, 0, 32, 0x0, 1⟩
def cueTimeHi : Fld := ⟨2, 0x44, 0, 32, 0x0, 1⟩
def cuePeriodUs : Fld := ⟨2, 0x48, 0, 16, 0x0, 1⟩
def cueCurCueLo : Fld := ⟨2, 0x4c, 0, 32, 0x0, 1⟩
def cueCurCueHi : Fld := ⟨2, 0x50, 0, 32, 0x0, 1⟩
def cueShift : Fld := ⟨2, 0x54, 0, 32, 0x0, 1⟩
def cueHoldLimit : Fld := ⟨2, 0x58, 0, 16, 0x0, 1⟩
def cueAlignCtrlRoot : Fld := ⟨2, 0x5c, 0, 1, 0x0, 1⟩
def cueAlignCtrlUseSeed : Fld := ⟨2, 0x5c, 1, 1, 0x0, 1⟩
def cueAlignCtrlStart : Fld := ⟨2, 0x5c, 2, 1, 0x0, 1⟩
def cueAlignStatusState : Fld := ⟨2, 0x60, 0, 2, 0x0, 1⟩
def cueAlignStatusParent : Fld := ⟨2, 0x60, 2, 5, 0x0, 1⟩
def cueAlignStatusHops : Fld := ⟨2, 0x60, 8, 8, 0x0, 1⟩
def cueAlignOffset : Fld := ⟨2, 0x64, 0, 16, 0x0, 1⟩
def cueFloodNs : Fld := ⟨2, 0x68, 0, 24, 0x0, 1⟩
def cueMinPeriodUs : Fld := ⟨2, 0x6c, 0, 16, 0x0, 1⟩
def cueCsCtrlArm : Fld := ⟨2, 0x70, 0, 1, 0x0, 1⟩
def cueCsCtrlDisarm : Fld := ⟨2, 0x70, 1, 1, 0x0, 1⟩
def cueCsCtrlMachine : Fld := ⟨2, 0x70, 2, 1, 0x0, 1⟩
def cueCsTargetLo : Fld := ⟨2, 0x74, 0, 32, 0x0, 1⟩
def cueCsTargetHi : Fld := ⟨2, 0x78, 0, 32, 0x0, 1⟩
def cueCsStatusState : Fld := ⟨2, 0x7c, 0, 3, 0x0, 1⟩
def cueCsStatusLateWrites : Fld := ⟨2, 0x7c, 16, 16, 0x0, 1⟩
def cueCsRejectPage : Fld := ⟨2, 0x80, 0, 14, 0x0, 1⟩
def cueCsRejectReg : Fld := ⟨2, 0x80, 14, 9, 0x0, 1⟩
def cueCsRejectCause : Fld := ⟨2, 0x80, 24, 4, 0x0, 1⟩
def cueSeedTimeLo : Fld := ⟨2, 0x84, 0, 32, 0x0, 1⟩
def cueSeedTimeHi : Fld := ⟨2, 0x88, 0, 32, 0x0, 1⟩
def cueActCurA : Fld := ⟨2, 0x8c, 0, 16, 0x0, 1⟩
def cueActCurB : Fld := ⟨2, 0x8c, 16, 16, 0x0, 1⟩
def cueOverrunCount : Fld := ⟨2, 0x90, 0, 32, 0x0, 1⟩
def cueHoldCues : Fld := ⟨2, 0x94, 0, 32, 0x0, 1⟩
def cueLastSlack : Fld := ⟨2, 0x98, 0, 32, 0x0, 1⟩

/-! Page CELL (R127). -/

def cellInfoCell (c : Nat) : Fld := ⟨0x100 + c, 0x40, 0, 7, 0x0, 1⟩
def cellInfoWing (c : Nat) : Fld := ⟨0x100 + c, 0x40, 7, 1, 0x0, 1⟩
def cellActCycle (c : Nat) : Fld := ⟨0x100 + c, 0x44, 0, 32, 0x0, 1⟩
def cellMatrixBusy (c : Nat) : Fld := ⟨0x100 + c, 0x48, 0, 32, 0x0, 1⟩
def cellStarved (c : Nat) : Fld := ⟨0x100 + c, 0x4c, 0, 32, 0x0, 1⟩
def cellStoreRange (c : Nat) : Fld := ⟨0x100 + c, 0x50, 0, 32, 0x0, 1⟩
def cellFtqConv (c : Nat) : Fld := ⟨0x100 + c, 0x54, 0, 1, 0x0, 1⟩
def cellFtqDepth (c : Nat) : Fld := ⟨0x100 + c, 0x58, 0, 4, 0x0, 1⟩
def cellFtqPushWait (c : Nat) : Fld := ⟨0x100 + c, 0x5c, 0, 32, 0x0, 1⟩
def cellFtqLost (c : Nat) : Fld := ⟨0x100 + c, 0x60, 0, 32, 0x0, 1⟩
def cellFtqOcc0 (c : Nat) : Fld := ⟨0x100 + c, 0x64, 0, 32, 0x0, 1⟩
def cellFtqOcc1 (c : Nat) : Fld := ⟨0x100 + c, 0x68, 0, 32, 0x0, 1⟩
def cellFtqOcc2 (c : Nat) : Fld := ⟨0x100 + c, 0x6c, 0, 32, 0x0, 1⟩
def cellFtqOcc3 (c : Nat) : Fld := ⟨0x100 + c, 0x70, 0, 32, 0x0, 1⟩
def cellFtqEmptyClaim (c : Nat) : Fld := ⟨0x100 + c, 0x74, 0, 32, 0x0, 1⟩
def cellCountClearAll (c : Nat) : Fld := ⟨0x100 + c, 0x78, 0, 1, 0x0, 1⟩
def cellVecBusy (c : Nat) : Fld := ⟨0x100 + c, 0x7c, 0, 32, 0x0, 1⟩
def cellCountOvf (c : Nat) : Fld := ⟨0x100 + c, 0x100, 0, 32, 0x8, 128⟩
def cellCountInv (c : Nat) : Fld := ⟨0x100 + c, 0x104, 0, 32, 0x8, 128⟩

/-! Page CMD (R182). -/

def cmdCheckEn : Fld := ⟨3, 0x40, 0, 1, 0x0, 1⟩
def cmdLoadStatusProgram : Fld := ⟨3, 0x48, 0, 8, 0x0, 1⟩
def cmdLoadStatusCause : Fld := ⟨3, 0x48, 8, 8, 0x0, 1⟩
def cmdProgramsLoaded : Fld := ⟨3, 0x4c, 0, 9, 0x0, 1⟩
def cmdHazCount : Fld := ⟨3, 0x50, 0, 32, 0x0, 1⟩
def cmdHazTagEarly : Fld := ⟨3, 0x54, 0, 32, 0x0, 1⟩
def cmdHazTagLate : Fld := ⟨3, 0x58, 0, 32, 0x0, 1⟩
def cmdHazWhereCell : Fld := ⟨3, 0x5c, 0, 7, 0x0, 1⟩
def cmdHazWhereCore : Fld := ⟨3, 0x5c, 7, 5, 0x0, 1⟩
def cmdHazWhereKind : Fld := ⟨3, 0x5c, 12, 2, 0x0, 1⟩
def cmdHazWhereEngEarly : Fld := ⟨3, 0x5c, 14, 3, 0x0, 1⟩
def cmdHazWhereEngLate : Fld := ⟨3, 0x5c, 17, 3, 0x0, 1⟩
def cmdHazAddrOffset : Fld := ⟨3, 0x60, 0, 20, 0x0, 1⟩
def cmdHazAddrSpace : Fld := ⟨3, 0x60, 20, 1, 0x0, 1⟩
def cmdHazAddrSpaceHi : Fld := ⟨3, 0x60, 21, 1, 0x0, 1⟩
def cmdWxCount : Fld := ⟨3, 0x64, 0, 32, 0x0, 1⟩
def cmdWxTag : Fld := ⟨3, 0x68, 0, 32, 0x0, 1⟩
def cmdWxFlagNumber : Fld := ⟨3, 0x6c, 0, 8, 0x0, 1⟩
def cmdWxFlagCell : Fld := ⟨3, 0x6c, 8, 7, 0x0, 1⟩
def cmdWxFlagValue : Fld := ⟨3, 0x6c, 16, 16, 0x0, 1⟩
def cmdWxWriter : Fld := ⟨3, 0x70, 0, 32, 0x0, 1⟩
def cmdWxWhereCell : Fld := ⟨3, 0x74, 0, 7, 0x0, 1⟩
def cmdWxWhereCore : Fld := ⟨3, 0x74, 7, 5, 0x0, 1⟩
def cmdWxWhereQueue : Fld := ⟨3, 0x74, 12, 3, 0x0, 1⟩
def cmdWxWhereGroup : Fld := ⟨3, 0x74, 16, 4, 0x0, 1⟩
def cmdCaptureClearHaz : Fld := ⟨3, 0x78, 0, 1, 0x0, 1⟩
def cmdCaptureClearWx : Fld := ⟨3, 0x78, 1, 1, 0x0, 1⟩
def cmdTraceCtrlEn : Fld := ⟨3, 0x80, 0, 1, 0x0, 1⟩
def cmdTraceCtrlStopOnFull : Fld := ⟨3, 0x80, 1, 1, 0x0, 1⟩
def cmdTraceCtrlTypes : Fld := ⟨3, 0x80, 16, 9, 0x0, 1⟩
def cmdTraceSample : Fld := ⟨3, 0x84, 0, 16, 0x0, 1⟩
def cmdTraceBaseLo : Fld := ⟨3, 0x88, 0, 32, 0x0, 1⟩
def cmdTraceBaseHi : Fld := ⟨3, 0x8c, 0, 11, 0x0, 1⟩
def cmdTraceSize : Fld := ⟨3, 0x90, 0, 6, 0x0, 1⟩
def cmdTraceWrptrLo : Fld := ⟨3, 0x94, 0, 32, 0x0, 1⟩
def cmdTraceWrptrHi : Fld := ⟨3, 0x98, 0, 9, 0x0, 1⟩
def cmdTraceDrops : Fld := ⟨3, 0x9c, 0, 32, 0x0, 1⟩
def cmdCommqDepth : Fld := ⟨3, 0xc0, 0, 9, 0x4, 16⟩

/-! Page CELL (R183). -/

def cellQdepthMatrix (c : Nat) : Fld := ⟨0x100 + c, 0x500, 0, 7, 0x4, 32⟩
def cellQdepthVector (c : Nat) : Fld := ⟨0x100 + c, 0x500, 8, 7, 0x4, 32⟩
def cellQdepthMover (c : Nat) : Fld := ⟨0x100 + c, 0x500, 16, 7, 0x4, 32⟩
def cellQdepthSync (c : Nat) : Fld := ⟨0x100 + c, 0x500, 24, 7, 0x4, 32⟩
def cellSlip (c : Nat) : Fld := ⟨0x100 + c, 0x580, 0, 32, 0x0, 1⟩
def cellGatesLost (c : Nat) : Fld := ⟨0x100 + c, 0x584, 0, 32, 0x0, 1⟩
def cellFlagPair (c : Nat) : Fld := ⟨0x100 + c, 0x600, 0, 32, 0x4, 128⟩

/-! Page SCALE (R204). -/

def scaleTableBaseLo : Fld := ⟨4, 0x40, 0, 32, 0x0, 1⟩
def scaleTableBaseHi : Fld := ⟨4, 0x44, 0, 11, 0x0, 1⟩
def scaleSlots : Fld := ⟨4, 0x48, 0, 12, 0x0, 1⟩
def scaleRecipeBaseLo : Fld := ⟨4, 0x4c, 0, 32, 0x0, 1⟩
def scaleRecipeBaseHi : Fld := ⟨4, 0x50, 0, 11, 0x0, 1⟩
def scaleRecipes : Fld := ⟨4, 0x54, 0, 9, 0x0, 1⟩
def scaleDefaultsHeadroom : Fld := ⟨4, 0x58, 0, 4, 0x0, 1⟩
def scaleDefaultsBackoff : Fld := ⟨4, 0x58, 4, 4, 0x0, 1⟩
def scaleCtrlReload : Fld := ⟨4, 0x5c, 0, 1, 0x0, 1⟩
def scaleSkipLimit : Fld := ⟨4, 0x60, 0, 16, 0x0, 1⟩
def scaleSkipRun : Fld := ⟨4, 0x64, 0, 16, 0x0, 1⟩
def scaleLowered : Fld := ⟨4, 0x68, 0, 32, 0x0, 1⟩
def scaleLastLowered : Fld := ⟨4, 0x6c, 0, 12, 0x0, 1⟩
def scalePrepNs : Fld := ⟨4, 0x70, 0, 16, 0x0, 1⟩
def scaleOvertureSlots : Fld := ⟨4, 0x74, 0, 13, 0x0, 1⟩
def scaleStatusWbSeq : Fld := ⟨4, 0x78, 0, 32, 0x0, 1⟩
def scaleBadIndexIndex : Fld := ⟨4, 0x7c, 0, 12, 0x0, 1⟩
def scaleBadIndexRecipe : Fld := ⟨4, 0x7c, 12, 1, 0x0, 1⟩

/-! Page MEM (R239). -/

def memIlKey1Lo : Fld := ⟨5, 0x40, 0, 32, 0x0, 1⟩
def memIlKey1Hi : Fld := ⟨5, 0x44, 0, 32, 0x0, 1⟩
def memIlKey2Lo : Fld := ⟨5, 0x48, 0, 32, 0x0, 1⟩
def memIlKey2Hi : Fld := ⟨5, 0x4c, 0, 32, 0x0, 1⟩
def memIlStatusLocked1 : Fld := ⟨5, 0x50, 0, 1, 0x0, 1⟩
def memIlStatusLocked2 : Fld := ⟨5, 0x50, 1, 1, 0x0, 1⟩
def memIlStatusRekeyBusy : Fld := ⟨5, 0x50, 2, 1, 0x0, 1⟩
def memIlCtrlLock1 : Fld := ⟨5, 0x54, 0, 1, 0x0, 1⟩
def memIlCtrlLock2 : Fld := ⟨5, 0x54, 1, 1, 0x0, 1⟩
def memRekeyT1 : Fld := ⟨5, 0x58, 0, 1, 0x0, 1⟩
def memRekeyT2 : Fld := ⟨5, 0x58, 1, 1, 0x0, 1⟩
def memRekeyKey1Lo : Fld := ⟨5, 0x5c, 0, 32, 0x0, 1⟩
def memRekeyKey1Hi : Fld := ⟨5, 0x60, 0, 32, 0x0, 1⟩
def memRekeyKey2Lo : Fld := ⟨5, 0x64, 0, 32, 0x0, 1⟩
def memRekeyKey2Hi : Fld := ⟨5, 0x68, 0, 32, 0x0, 1⟩
def memT3Size : Fld := ⟨5, 0x6c, 0, 13, 0x0, 1⟩
def memT3HostGibLo : Fld := ⟨5, 0x70, 0, 32, 0x0, 1⟩
def memT3HostGibHi : Fld := ⟨5, 0x74, 0, 2, 0x0, 1⟩
def memHdmBase : Fld := ⟨5, 0x78, 0, 12, 0x0, 1⟩
def memHdmSize : Fld := ⟨5, 0x7c, 0, 12, 0x0, 1⟩
def memArbAct : Fld := ⟨5, 0x80, 0, 4, 0x0, 1⟩
def memArbHost : Fld := ⟨5, 0x80, 4, 4, 0x0, 1⟩
def memArbSnap : Fld := ⟨5, 0x80, 8, 4, 0x0, 1⟩
def memScrubHours : Fld := ⟨5, 0x84, 0, 8, 0x0, 1⟩
def memRegionBaseLo : Fld := ⟨5, 0x88, 0, 32, 0x0, 1⟩
def memRegionBaseHi : Fld := ⟨5, 0x8c, 0, 11, 0x0, 1⟩
def memRegions : Fld := ⟨5, 0x90, 0, 7, 0x0, 1⟩
def memRegionCtrlReload : Fld := ⟨5, 0x94, 0, 1, 0x0, 1⟩
def memRegionBad : Fld := ⟨5, 0x98, 0, 6, 0x0, 1⟩
def memHotLastStack : Fld := ⟨5, 0x9c, 0, 5, 0x0, 1⟩
def memHotLastChannel : Fld := ⟨5, 0x9c, 5, 5, 0x0, 1⟩
def memHotLastValid : Fld := ⟨5, 0x9c, 10, 1, 0x0, 1⟩
def memHotLastRatio : Fld := ⟨5, 0x9c, 16, 16, 0x0, 1⟩
def memUncCount : Fld := ⟨5, 0xa0, 0, 32, 0x0, 1⟩
def memUncFirstLo : Fld := ⟨5, 0xa4, 0, 32, 0x0, 1⟩
def memUncFirstHi : Fld := ⟨5, 0xa8, 0, 11, 0x0, 1⟩
def memUncFirstValid : Fld := ⟨5, 0xa8, 31, 1, 0x0, 1⟩
def memUncClear : Fld := ⟨5, 0xac, 0, 1, 0x0, 1⟩
def memWindowRange : Fld := ⟨5, 0xb0, 0, 32, 0x0, 1⟩
def memAllotFull : Fld := ⟨5, 0xb4, 0, 32, 0x0, 1⟩
def memSnapListLo : Fld := ⟨5, 0xb8, 0, 32, 0x0, 1⟩
def memSnapListHi : Fld := ⟨5, 0xbc, 0, 11, 0x0, 1⟩
def memSnapCount : Fld := ⟨5, 0xc0, 0, 11, 0x0, 1⟩
def memSnapCueLo : Fld := ⟨5, 0xc4, 0, 32, 0x0, 1⟩
def memSnapCueHi : Fld := ⟨5, 0xc8, 0, 32, 0x0, 1⟩
def memSnapCtrlArm : Fld := ⟨5, 0xcc, 0, 1, 0x0, 1⟩
def memSnapCtrlAbort : Fld := ⟨5, 0xcc, 1, 1, 0x0, 1⟩
def memSnapStatusState : Fld := ⟨5, 0xd0, 0, 3, 0x0, 1⟩
def memSnapStatusCause : Fld := ⟨5, 0xd0, 4, 4, 0x0, 1⟩
def memSnapBytesLo : Fld := ⟨5, 0xd4, 0, 32, 0x0, 1⟩
def memSnapBytesHi : Fld := ⟨5, 0xd8, 0, 32, 0x0, 1⟩
def memSnapPoison : Fld := ⟨5, 0xdc, 0, 32, 0x0, 1⟩

/-! Page STACK (R240). -/

def stackInfoFar (k : Nat) : Fld := ⟨0x200 + k, 0x40, 0, 1, 0x0, 1⟩
def stackInfoIndex (k : Nat) : Fld := ⟨0x200 + k, 0x40, 1, 4, 0x0, 1⟩
def stackCorrected (k : Nat) : Fld := ⟨0x200 + k, 0x44, 0, 32, 0x0, 1⟩
def stackUncorrectable (k : Nat) : Fld := ⟨0x200 + k, 0x48, 0, 32, 0x0, 1⟩
def stackSparesMin (k : Nat) : Fld := ⟨0x200 + k, 0x4c, 0, 7, 0x0, 1⟩
def stackScrubPasses (k : Nat) : Fld := ⟨0x200 + k, 0x50, 0, 32, 0x0, 1⟩
def stackLinkLanes (k : Nat) : Fld := ⟨0x200 + k, 0x54, 0, 4, 0x0, 1⟩
def stackLinkReplays (k : Nat) : Fld := ⟨0x200 + k, 0x58, 0, 32, 0x0, 1⟩
def stackOcc (k : Nat) : Fld := ⟨0x200 + k, 0x100, 0, 16, 0x4, 32⟩

/-! Page COLL (R274). -/

def collShapeX : Fld := ⟨6, 0x40, 0, 6, 0x0, 1⟩
def collShapeY : Fld := ⟨6, 0x40, 8, 6, 0x0, 1⟩
def collShapeZ : Fld := ⟨6, 0x40, 16, 5, 0x0, 1⟩
def collMapBaseLo : Fld := ⟨6, 0x44, 0, 32, 0x0, 1⟩
def collMapBaseHi : Fld := ⟨6, 0x48, 0, 11, 0x0, 1⟩
def collMapCtrlReload : Fld := ⟨6, 0x4c, 0, 1, 0x0, 1⟩
def collMapBad : Fld := ⟨6, 0x50, 0, 14, 0x0, 1⟩
def collPositionX : Fld := ⟨6, 0x54, 0, 6, 0x0, 1⟩
def collPositionY : Fld := ⟨6, 0x54, 8, 6, 0x0, 1⟩
def collPositionZ : Fld := ⟨6, 0x54, 16, 5, 0x0, 1⟩
def collPositionValid : Fld := ⟨6, 0x54, 31, 1, 0x0, 1⟩
def collVcWeightW2 : Fld := ⟨6, 0x58, 0, 4, 0x0, 1⟩
def collVcWeightW3 : Fld := ⟨6, 0x58, 4, 4, 0x0, 1⟩
def collVcWeightW4 : Fld := ⟨6, 0x58, 8, 4, 0x0, 1⟩
def collVcWeightW5 : Fld := ⟨6, 0x58, 12, 4, 0x0, 1⟩
def collVcWeightW6 : Fld := ⟨6, 0x58, 16, 4, 0x0, 1⟩
def collVcWeightW7 : Fld := ⟨6, 0x58, 20, 4, 0x0, 1⟩
def collP2pSaltLo : Fld := ⟨6, 0x5c, 0, 32, 0x0, 1⟩
def collP2pSaltHi : Fld := ⟨6, 0x60, 0, 32, 0x0, 1⟩
def collSkewLastDir : Fld := ⟨6, 0x64, 0, 3, 0x0, 1⟩
def collSkewLastPort : Fld := ⟨6, 0x64, 3, 5, 0x0, 1⟩
def collSkewLastValid : Fld := ⟨6, 0x64, 8, 1, 0x0, 1⟩
def collSkewLastRatio : Fld := ⟨6, 0x64, 16, 16, 0x0, 1⟩
def collRefused : Fld := ⟨6, 0x68, 0, 32, 0x0, 1⟩
def collRefusedLast : Fld := ⟨6, 0x6c, 0, 4, 0x0, 1⟩
def collSlackBaseLo : Fld := ⟨6, 0x70, 0, 32, 0x0, 1⟩
def collSlackBaseHi : Fld := ⟨6, 0x74, 0, 11, 0x0, 1⟩
def collSlackSize : Fld := ⟨6, 0x78, 0, 5, 0x0, 1⟩
def collSlackCtrlEn : Fld := ⟨6, 0x78, 8, 1, 0x0, 1⟩
def collSlackWrptr : Fld := ⟨6, 0x7c, 0, 20, 0x0, 1⟩
def collCountClearAll : Fld := ⟨6, 0x80, 0, 1, 0x0, 1⟩
def collGDefValid : Fld := ⟨6, 0x200, 0, 1, 0x40, 16⟩
def collGDefAxis0 : Fld := ⟨6, 0x200, 1, 2, 0x40, 16⟩
def collGDefAxis1 : Fld := ⟨6, 0x200, 3, 2, 0x40, 16⟩
def collGDefAxis2 : Fld := ⟨6, 0x200, 5, 2, 0x40, 16⟩
def collGDefVc : Fld := ⟨6, 0x200, 8, 3, 0x40, 16⟩
def collGDefPortGroup : Fld := ⟨6, 0x200, 12, 3, 0x40, 16⟩
def collGDefAcc : Fld := ⟨6, 0x200, 16, 1, 0x40, 16⟩
def collGBufKib : Fld := ⟨6, 0x204, 0, 12, 0x40, 16⟩
def collGA2aCap : Fld := ⟨6, 0x208, 0, 32, 0x40, 16⟩
def collGRoundKib : Fld := ⟨6, 0x20c, 0, 12, 0x40, 16⟩
def collGMembers : Fld := ⟨6, 0x210, 0, 15, 0x40, 16⟩
def collGLayoutCommitted : Fld := ⟨6, 0x214, 0, 16, 0x40, 16⟩
def collGLayoutPending : Fld := ⟨6, 0x214, 16, 1, 0x40, 16⟩
def collGCountOvf : Fld := ⟨6, 0x218, 0, 32, 0x40, 16⟩
def collGCountInv : Fld := ⟨6, 0x21c, 0, 32, 0x40, 16⟩
def collGDrops : Fld := ⟨6, 0x220, 0, 32, 0x40, 16⟩
def collGSlotErrors : Fld := ⟨6, 0x224, 0, 32, 0x40, 16⟩

/-! Page UPD (R302). -/

def updGroupBaseLo : Fld := ⟨7, 0x40, 0, 32, 0x0, 1⟩
def updGroupBaseHi : Fld := ⟨7, 0x44, 0, 11, 0x0, 1⟩
def updGroups : Fld := ⟨7, 0x48, 0, 11, 0x0, 1⟩
def updCurveBaseLo : Fld := ⟨7, 0x4c, 0, 32, 0x0, 1⟩
def updCurveBaseHi : Fld := ⟨7, 0x50, 0, 11, 0x0, 1⟩
def updCurvePoints : Fld := ⟨7, 0x54, 0, 17, 0x0, 1⟩
def updCtrlReload : Fld := ⟨7, 0x58, 0, 1, 0x0, 1⟩
def updBadIndexIndex : Fld := ⟨7, 0x5c, 0, 16, 0x0, 1⟩
def updBadIndexTable : Fld := ⟨7, 0x5c, 16, 2, 0x0, 1⟩
def updBadIndexGroup : Fld := ⟨7, 0x5c, 18, 10, 0x0, 1⟩
def updFrozenDrops : Fld := ⟨7, 0x60, 0, 32, 0x0, 1⟩
def updFallbacks : Fld := ⟨7, 0x64, 0, 32, 0x0, 1⟩
def updFallbackLastGroup : Fld := ⟨7, 0x68, 0, 10, 0x0, 1⟩
def updFallbackLastLayer : Fld := ⟨7, 0x68, 10, 16, 0x0, 1⟩
def updDamped : Fld := ⟨7, 0x6c, 0, 32, 0x0, 1⟩
def updNonfinite : Fld := ⟨7, 0x70, 0, 32, 0x0, 1⟩
def updRefused : Fld := ⟨7, 0x74, 0, 32, 0x0, 1⟩
def updRefusedLast : Fld := ⟨7, 0x78, 0, 4, 0x0, 1⟩
def updNetWidthMax : Fld := ⟨7, 0x7c, 0, 10, 0x0, 1⟩

/-! Page COMMIT (R323). -/

def commitVerBaseLo : Fld := ⟨8, 0x40, 0, 32, 0x0, 1⟩
def commitVerBaseHi : Fld := ⟨8, 0x44, 0, 11, 0x0, 1⟩
def commitRanges : Fld := ⟨8, 0x48, 0, 9, 0x0, 1⟩
def commitCtrlReload : Fld := ⟨8, 0x4c, 0, 1, 0x0, 1⟩
def commitCtrlActive : Fld := ⟨8, 0x4c, 1, 1, 0x0, 1⟩
def commitCtrlRestore : Fld := ⟨8, 0x4c, 2, 1, 0x0, 1⟩
def commitStepLo : Fld := ⟨8, 0x50, 0, 32, 0x0, 1⟩
def commitStepHi : Fld := ⟨8, 0x54, 0, 32, 0x0, 1⟩
def commitRecordBaseLo : Fld := ⟨8, 0x58, 0, 32, 0x0, 1⟩
def commitRecordBaseHi : Fld := ⟨8, 0x5c, 0, 11, 0x0, 1⟩
def commitVerdictOwn : Fld := ⟨8, 0x60, 0, 32, 0x0, 1⟩
def commitVerdictAnd : Fld := ⟨8, 0x64, 0, 32, 0x0, 1⟩
def commitVerdictOr : Fld := ⟨8, 0x68, 0, 32, 0x0, 1⟩
def commitOutcomeLast : Fld := ⟨8, 0x6c, 0, 2, 0x0, 1⟩
def commitOutcomeConfirmAnd : Fld := ⟨8, 0x6c, 2, 1, 0x0, 1⟩
def commitOutcomeCueLo : Fld := ⟨8, 0x70, 0, 32, 0x0, 1⟩
def commitOutcomeCueHi : Fld := ⟨8, 0x74, 0, 32, 0x0, 1⟩
def commitCommits : Fld := ⟨8, 0x78, 0, 32, 0x0, 1⟩
def commitSkips : Fld := ⟨8, 0x7c, 0, 32, 0x0, 1⟩
def commitSkipRun : Fld := ⟨8, 0x80, 0, 16, 0x0, 1⟩
def commitMissingLastPort : Fld := ⟨8, 0x84, 0, 5, 0x0, 1⟩
def commitMissingLastValid : Fld := ⟨8, 0x84, 5, 1, 0x0, 1⟩
def commitDecideNs : Fld := ⟨8, 0x88, 0, 24, 0x0, 1⟩
def commitResyncWaitNs : Fld := ⟨8, 0x8c, 0, 32, 0x0, 1⟩
def commitResyncPages : Fld := ⟨8, 0x90, 0, 28, 0x0, 1⟩
def commitRangeBad : Fld := ⟨8, 0x94, 0, 8, 0x0, 1⟩
def commitWordCrc : Fld := ⟨8, 0x98, 0, 32, 0x0, 1⟩
def commitCkptCtrlOnCommit : Fld := ⟨8, 0x9c, 0, 1, 0x0, 1⟩

/-! Page LINK (R370). -/

def linkAllot0 : Fld := ⟨9, 0x40, 0, 32, 0x0, 1⟩
def linkAllot1 : Fld := ⟨9, 0x44, 0, 32, 0x0, 1⟩
def linkAllot2 : Fld := ⟨9, 0x48, 0, 32, 0x0, 1⟩
def linkAllot3 : Fld := ⟨9, 0x4c, 0, 32, 0x0, 1⟩
def linkCtrlTrain : Fld := ⟨9, 0x50, 0, 1, 0x0, 1⟩
def linkCtrlDarkAll : Fld := ⟨9, 0x50, 1, 1, 0x0, 1⟩
def linkPortsUp : Fld := ⟨9, 0x54, 0, 32, 0x0, 1⟩
def linkPortsNarrow : Fld := ⟨9, 0x58, 0, 32, 0x0, 1⟩
def linkPortsNoSpare : Fld := ⟨9, 0x5c, 0, 32, 0x0, 1⟩
def linkWorking : Fld := ⟨9, 0x60, 0, 28, 0x0, 1⟩
def linkInventoryLo : Fld := ⟨9, 0x64, 0, 32, 0x0, 1⟩
def linkInventoryHi : Fld := ⟨9, 0x68, 0, 32, 0x0, 1⟩
def linkExpressPort : Fld := ⟨9, 0x80, 0, 5, 0x4, 8⟩
def linkExpressPeerChip : Fld := ⟨9, 0x80, 5, 14, 0x4, 8⟩
def linkExpressValid : Fld := ⟨9, 0x80, 31, 1, 0x4, 8⟩

/-! Page PORT (R371). -/

def portInfoCode (p : Nat) : Fld := ⟨0x300 + p, 0x40, 0, 4, 0x0, 1⟩
def portInfoPortGroup (p : Nat) : Fld := ⟨0x300 + p, 0x40, 4, 3, 0x0, 1⟩
def portStateState (p : Nat) : Fld := ⟨0x300 + p, 0x44, 0, 3, 0x0, 1⟩
def portStateLanesRx (p : Nat) : Fld := ⟨0x300 + p, 0x44, 3, 4, 0x0, 1⟩
def portStateLanesTx (p : Nat) : Fld := ⟨0x300 + p, 0x44, 7, 4, 0x0, 1⟩
def portStateSpareRx (p : Nat) : Fld := ⟨0x300 + p, 0x44, 11, 1, 0x0, 1⟩
def portStateSpareTx (p : Nat) : Fld := ⟨0x300 + p, 0x44, 12, 1, 0x0, 1⟩
def portStateFailPhase (p : Nat) : Fld := ⟨0x300 + p, 0x44, 13, 3, 0x0, 1⟩
def portLaneMapRx (p : Nat) : Fld := ⟨0x300 + p, 0x48, 0, 32, 0x0, 1⟩
def portLaneMapTx (p : Nat) : Fld := ⟨0x300 + p, 0x4c, 0, 32, 0x0, 1⟩
def portPeerIdLo (p : Nat) : Fld := ⟨0x300 + p, 0x50, 0, 32, 0x0, 1⟩
def portPeerIdHi (p : Nat) : Fld := ⟨0x300 + p, 0x54, 0, 32, 0x0, 1⟩
def portPeerPort (p : Nat) : Fld := ⟨0x300 + p, 0x58, 0, 5, 0x0, 1⟩
def portPeerCode (p : Nat) : Fld := ⟨0x300 + p, 0x58, 5, 4, 0x0, 1⟩
def portPeerChip (p : Nat) : Fld := ⟨0x300 + p, 0x58, 9, 14, 0x0, 1⟩
def portPeerChipValid (p : Nat) : Fld := ⟨0x300 + p, 0x58, 23, 1, 0x0, 1⟩
def portDelay (p : Nat) : Fld := ⟨0x300 + p, 0x5c, 0, 24, 0x0, 1⟩
def portCtrlTrain (p : Nat) : Fld := ⟨0x300 + p, 0x60, 0, 1, 0x0, 1⟩
def portCtrlRetrain (p : Nat) : Fld := ⟨0x300 + p, 0x60, 1, 1, 0x0, 1⟩
def portCtrlDark (p : Nat) : Fld := ⟨0x300 + p, 0x60, 2, 1, 0x0, 1⟩
def portFecCorrected (p : Nat) : Fld := ⟨0x300 + p, 0x64, 0, 32, 0x0, 1⟩
def portFecUncorrectable (p : Nat) : Fld := ⟨0x300 + p, 0x68, 0, 32, 0x0, 1⟩
def portHdrCrc (p : Nat) : Fld := ⟨0x300 + p, 0x6c, 0, 32, 0x0, 1⟩
def portResent (p : Nat) : Fld := ⟨0x300 + p, 0x70, 0, 32, 0x0, 1⟩
def portCreditFaults (p : Nat) : Fld := ⟨0x300 + p, 0x74, 0, 32, 0x0, 1⟩
def portSwaps (p : Nat) : Fld := ⟨0x300 + p, 0x78, 0, 32, 0x0, 1⟩
def portRetrains (p : Nat) : Fld := ⟨0x300 + p, 0x7c, 0, 32, 0x0, 1⟩
def portRetryUsed (p : Nat) : Fld := ⟨0x300 + p, 0x80, 0, 9, 0x0, 1⟩
def portCwInvalid (p : Nat) : Fld := ⟨0x300 + p, 0x84, 0, 32, 0x0, 1⟩
def portMonReject (p : Nat) : Fld := ⟨0x300 + p, 0x88, 0, 32, 0x0, 1⟩
def portLaneCorrBits (p : Nat) : Fld := ⟨0x300 + p, 0x100, 0, 32, 0x20, 9⟩
def portLaneOmaMargin (p : Nat) : Fld := ⟨0x300 + p, 0x104, 0, 16, 0x20, 9⟩
def portLaneRxOma (p : Nat) : Fld := ⟨0x300 + p, 0x104, 16, 16, 0x20, 9⟩
def portLaneTxBackfacet (p : Nat) : Fld := ⟨0x300 + p, 0x108, 0, 16, 0x20, 9⟩
def portLaneTxModOma (p : Nat) : Fld := ⟨0x300 + p, 0x108, 16, 16, 0x20, 9⟩
def portLaneTxBias (p : Nat) : Fld := ⟨0x300 + p, 0x10c, 0, 16, 0x20, 9⟩
def portLaneTxBiasBol (p : Nat) : Fld := ⟨0x300 + p, 0x10c, 16, 16, 0x20, 9⟩
def portLanePathLoss (p : Nat) : Fld := ⟨0x300 + p, 0x110, 0, 16, 0x20, 9⟩
def portLanePathLossBol (p : Nat) : Fld := ⟨0x300 + p, 0x110, 16, 16, 0x20, 9⟩
def portLaneRxState (p : Nat) : Fld := ⟨0x300 + p, 0x114, 0, 3, 0x20, 9⟩
def portLaneRxLogical (p : Nat) : Fld := ⟨0x300 + p, 0x114, 3, 4, 0x20, 9⟩
def portLaneFaultClass (p : Nat) : Fld := ⟨0x300 + p, 0x114, 8, 3, 0x20, 9⟩
def portLaneTxState (p : Nat) : Fld := ⟨0x300 + p, 0x114, 11, 3, 0x20, 9⟩
def portPoolSent (p : Nat) : Fld := ⟨0x300 + p, 0x300, 0, 32, 0x10, 20⟩
def portPoolCredIn (p : Nat) : Fld := ⟨0x300 + p, 0x304, 0, 32, 0x10, 20⟩
def portPoolAvail (p : Nat) : Fld := ⟨0x300 + p, 0x308, 0, 16, 0x10, 20⟩
def portPoolSlots (p : Nat) : Fld := ⟨0x300 + p, 0x308, 16, 16, 0x10, 20⟩
def portPoolHeld (p : Nat) : Fld := ⟨0x300 + p, 0x30c, 0, 16, 0x10, 20⟩

/-! Page PWR (R393). -/

def pwrOpMhz : Fld := ⟨10, 0x40, 0, 12, 0x4, 8⟩
def pwrExpectW : Fld := ⟨10, 0x60, 0, 13, 0x4, 8⟩
def pwrCtrlLearn : Fld := ⟨10, 0x80, 0, 1, 0x0, 1⟩
def pwrCapW : Fld := ⟨10, 0x84, 0, 12, 0x0, 1⟩
def pwrCapClamped : Fld := ⟨10, 0x84, 31, 1, 0x0, 1⟩
def pwrSlewWPerUs : Fld := ⟨10, 0x88, 0, 5, 0x0, 1⟩
def pwrLeadMarginUs : Fld := ⟨10, 0x8c, 0, 8, 0x0, 1⟩
def pwrEstW : Fld := ⟨10, 0x90, 0, 13, 0x0, 1⟩
def pwrMeasW : Fld := ⟨10, 0x94, 0, 13, 0x0, 1⟩
def pwrCalGain : Fld := ⟨10, 0x98, 0, 16, 0x0, 1⟩
def pwrVin : Fld := ⟨10, 0x9c, 0, 16, 0x0, 1⟩
def pwrIin : Fld := ⟨10, 0x9c, 16, 16, 0x0, 1⟩
def pwrClockMhz : Fld := ⟨10, 0xa0, 0, 12, 0x0, 1⟩
def pwrClockLimit : Fld := ⟨10, 0xa0, 12, 3, 0x0, 1⟩
def pwrClockEdgePermil : Fld := ⟨10, 0xa0, 16, 10, 0x0, 1⟩
def pwrStageW : Fld := ⟨10, 0xa4, 0, 12, 0x0, 1⟩
def pwrFallExcessUs : Fld := ⟨10, 0xa8, 0, 32, 0x0, 1⟩
def pwrTjTemp : Fld := ⟨10, 0xac, 0, 11, 0x0, 1⟩
def pwrTjSensor : Fld := ⟨10, 0xac, 16, 9, 0x0, 1⟩
def pwrRiseLast : Fld := ⟨10, 0xb0, 0, 11, 0x0, 1⟩
def pwrRiseSensor : Fld := ⟨10, 0xb0, 16, 9, 0x0, 1⟩
def pwrThermState : Fld := ⟨10, 0xb4, 0, 3, 0x0, 1⟩
def pwrHolds : Fld := ⟨10, 0xb8, 0, 32, 0x0, 1⟩
def pwrCoolingClear : Fld := ⟨10, 0xbc, 0, 1, 0x0, 1⟩
def pwrInlet : Fld := ⟨10, 0xc0, 0, 10, 0x0, 1⟩
def pwrOutlet : Fld := ⟨10, 0xc0, 16, 10, 0x0, 1⟩
def pwrSensorExcluded : Fld := ⟨10, 0xc4, 0, 9, 0x0, 1⟩
def pwrAgeOffset : Fld := ⟨10, 0xc8, 0, 8, 0x4, 4⟩
def pwrAgeBound : Fld := ⟨10, 0xc8, 8, 8, 0x4, 4⟩
def pwrAgeCeilMhz : Fld := ⟨10, 0xd8, 0, 12, 0x0, 1⟩
def pwrAgeHours : Fld := ⟨10, 0xdc, 0, 16, 0x0, 1⟩
def pwrAgeCtrlNow : Fld := ⟨10, 0xe0, 0, 1, 0x0, 1⟩
def pwrDroopEvents : Fld := ⟨10, 0xe4, 0, 32, 0x0, 1⟩
def pwrDroopCycles : Fld := ⟨10, 0xe8, 0, 32, 0x0, 1⟩
def pwrVtable : Fld := ⟨10, 0x400, 0, 11, 0x4, 256⟩

/-! The common layout (R407). -/

def pagePageIdType (pg : Nat) : Fld := ⟨pg, 0x0, 0, 8, 0x0, 1⟩
def pagePageIdInstance (pg : Nat) : Fld := ⟨pg, 0x0, 16, 16, 0x0, 1⟩
def pagePageRev (pg : Nat) : Fld := ⟨pg, 0x4, 0, 16, 0x0, 1⟩
def pageCtrlRoute (pg : Nat) : Fld := ⟨pg, 0x8, 0, 2, 0x0, 1⟩
def pageStatusEventPending (pg : Nat) : Fld := ⟨pg, 0xc, 0, 1, 0x0, 1⟩
def pageStatusStagedDiff (pg : Nat) : Fld := ⟨pg, 0xc, 1, 1, 0x0, 1⟩
def pageEvent (pg : Nat) : Fld := ⟨pg, 0x10, 0, 32, 0x0, 1⟩
def pageEventEn (pg : Nat) : Fld := ⟨pg, 0x14, 0, 32, 0x0, 1⟩
def pageEventForce (pg : Nat) : Fld := ⟨pg, 0x18, 0, 32, 0x0, 1⟩
def pageTimeoutUs (pg : Nat) : Fld := ⟨pg, 0x1c, 0, 16, 0x0, 1⟩

/-! Page MBOX (R428). -/

def mboxDoorbellOpcode (m : Nat) : Fld := ⟨0x400 + m, 0x40, 0, 8, 0x0, 1⟩
def mboxDoorbellSeq (m : Nat) : Fld := ⟨0x400 + m, 0x40, 8, 8, 0x0, 1⟩
def mboxMstateState (m : Nat) : Fld := ⟨0x400 + m, 0x44, 0, 2, 0x0, 1⟩
def mboxMstateCollide (m : Nat) : Fld := ⟨0x400 + m, 0x44, 2, 1, 0x0, 1⟩
def mboxMstateOwner (m : Nat) : Fld := ⟨0x400 + m, 0x44, 3, 1, 0x0, 1⟩
def mboxMstateSeq (m : Nat) : Fld := ⟨0x400 + m, 0x44, 8, 8, 0x0, 1⟩
def mboxMstateResult (m : Nat) : Fld := ⟨0x400 + m, 0x44, 16, 8, 0x0, 1⟩
def mboxReqLen (m : Nat) : Fld := ⟨0x400 + m, 0x48, 0, 11, 0x0, 1⟩
def mboxRespLen (m : Nat) : Fld := ⟨0x400 + m, 0x4c, 0, 10, 0x0, 1⟩
def mboxMctrlAck (m : Nat) : Fld := ⟨0x400 + m, 0x50, 0, 1, 0x0, 1⟩
def mboxMctrlAbort (m : Nat) : Fld := ⟨0x400 + m, 0x50, 1, 1, 0x0, 1⟩
def mboxMlimitMs (m : Nat) : Fld := ⟨0x400 + m, 0x54, 0, 16, 0x0, 1⟩
def mboxReq (m : Nat) : Fld := ⟨0x400 + m, 0x100, 0, 32, 0x4, 256⟩
def mboxResp (m : Nat) : Fld := ⟨0x400 + m, 0x500, 0, 32, 0x4, 192⟩

/-! Page HOST (R439). -/

def hostLinkRate : Fld := ⟨0, 0x40, 0, 2, 0x0, 1⟩
def hostLinkWidth : Fld := ⟨0, 0x40, 2, 5, 0x0, 1⟩
def hostLinkCxl : Fld := ⟨0, 0x40, 7, 1, 0x0, 1⟩
def hostLinkDowns : Fld := ⟨0, 0x44, 0, 32, 0x0, 1⟩
def hostEvqBaseLo : Fld := ⟨0, 0x48, 0, 32, 0x0, 1⟩
def hostEvqBaseHi : Fld := ⟨0, 0x4c, 0, 32, 0x0, 1⟩
def hostEvqCtrlSize : Fld := ⟨0, 0x50, 0, 5, 0x0, 1⟩
def hostEvqCtrlEn : Fld := ⟨0, 0x50, 8, 1, 0x0, 1⟩
def hostEvqWr : Fld := ⟨0, 0x54, 0, 20, 0x0, 1⟩
def hostEvqRd : Fld := ⟨0, 0x58, 0, 20, 0x0, 1⟩
def hostEvqLost : Fld := ⟨0, 0x5c, 0, 32, 0x0, 1⟩
def hostIrqHoldoffUs : Fld := ⟨0, 0x60, 0, 10, 0x0, 1⟩
def hostLoadOffLo : Fld := ⟨0, 0x64, 0, 32, 0x0, 1⟩
def hostLoadOffHi : Fld := ⟨0, 0x68, 0, 11, 0x0, 1⟩
def hostLoadCtrlGo : Fld := ⟨0, 0x6c, 0, 1, 0x0, 1⟩
def hostLoadCtrlUnload : Fld := ⟨0, 0x6c, 1, 1, 0x0, 1⟩
def hostLoadCtrlProgram : Fld := ⟨0, 0x6c, 8, 8, 0x0, 1⟩
def hostLoadStatusBusy : Fld := ⟨0, 0x70, 0, 1, 0x0, 1⟩
def hostLoadStatusUnload : Fld := ⟨0, 0x70, 8, 4, 0x0, 1⟩
def hostBadAccess : Fld := ⟨0, 0x74, 0, 32, 0x0, 1⟩
def hostBadAccessLastOffset : Fld := ⟨0, 0x78, 0, 26, 0x0, 1⟩
def hostBadAccessLastCallboard : Fld := ⟨0, 0x78, 26, 1, 0x0, 1⟩
def hostBiSnoops : Fld := ⟨0, 0x7c, 0, 32, 0x0, 1⟩
def hostBiTimeouts : Fld := ⟨0, 0x80, 0, 32, 0x0, 1⟩
def hostT3Timeouts : Fld := ⟨0, 0x84, 0, 32, 0x0, 1⟩
def hostDmaRingLo : Fld := ⟨0, 0x100, 0, 32, 0x20, 4⟩
def hostDmaRingHi : Fld := ⟨0, 0x104, 0, 32, 0x20, 4⟩
def hostDmaCtrlSize : Fld := ⟨0, 0x108, 0, 5, 0x20, 4⟩
def hostDmaCtrlEn : Fld := ⟨0, 0x108, 8, 1, 0x20, 4⟩
def hostDmaCtrlReset : Fld := ⟨0, 0x108, 9, 1, 0x20, 4⟩
def hostDmaTail : Fld := ⟨0, 0x10c, 0, 16, 0x20, 4⟩
def hostDmaHead : Fld := ⟨0, 0x110, 0, 16, 0x20, 4⟩
def hostDmaStatusState : Fld := ⟨0, 0x114, 0, 2, 0x20, 4⟩
def hostDmaStatusCause : Fld := ⟨0, 0x114, 4, 4, 0x20, 4⟩
def hostDmaStatusIndex : Fld := ⟨0, 0x114, 16, 16, 0x20, 4⟩
def hostDmaDone : Fld := ⟨0, 0x118, 0, 32, 0x20, 4⟩

/-! Page MGMT (R440). -/

def mgmtIdentityLo : Fld := ⟨1, 0x40, 0, 32, 0x0, 1⟩
def mgmtIdentityHi : Fld := ⟨1, 0x44, 0, 32, 0x0, 1⟩
def mgmtVariant : Fld := ⟨1, 0x48, 0, 4, 0x0, 1⟩
def mgmtChipNumber : Fld := ⟨1, 0x4c, 0, 14, 0x0, 1⟩
def mgmtChipValid : Fld := ⟨1, 0x4c, 31, 1, 0x0, 1⟩
def mgmtCbPosition : Fld := ⟨1, 0x50, 0, 6, 0x0, 1⟩
def mgmtCbValid : Fld := ⟨1, 0x50, 6, 1, 0x0, 1⟩
def mgmtCbTail : Fld := ⟨1, 0x50, 7, 1, 0x0, 1⟩
def mgmtCbLength : Fld := ⟨1, 0x50, 8, 6, 0x0, 1⟩
def mgmtCbTelemMs : Fld := ⟨1, 0x54, 0, 7, 0x0, 1⟩
def mgmtCbHcrcErrors : Fld := ⟨1, 0x58, 0, 32, 0x0, 1⟩
def mgmtCbCrcErrors : Fld := ⟨1, 0x5c, 0, 32, 0x0, 1⟩
def mgmtFwActiveSlot : Fld := ⟨1, 0x60, 0, 4, 0x0, 1⟩
def mgmtFwNextSlot : Fld := ⟨1, 0x60, 4, 4, 0x0, 1⟩
def mgmtFwFallback : Fld := ⟨1, 0x60, 8, 4, 0x0, 1⟩
def mgmtFwRecovery : Fld := ⟨1, 0x60, 12, 1, 0x0, 1⟩
def mgmtSvn : Fld := ⟨1, 0x64, 0, 32, 0x0, 1⟩
def mgmtMinSvn : Fld := ⟨1, 0x68, 0, 32, 0x0, 1⟩
def mgmtFuseKeyRevoked : Fld := ⟨1, 0x6c, 0, 4, 0x0, 1⟩
def mgmtFuseSecureBoot : Fld := ⟨1, 0x6c, 8, 1, 0x0, 1⟩
def mgmtFuseTestLocked : Fld := ⟨1, 0x6c, 9, 1, 0x0, 1⟩
def mgmtStartStep : Fld := ⟨1, 0x70, 0, 4, 0x0, 1⟩
def mgmtStartState : Fld := ⟨1, 0x70, 4, 2, 0x0, 1⟩
def mgmtStartCause : Fld := ⟨1, 0x70, 8, 8, 0x0, 1⟩
def mgmtStartMs : Fld := ⟨1, 0x74, 0, 32, 0x0, 1⟩
def mgmtResetLevel : Fld := ⟨1, 0x78, 0, 3, 0x0, 1⟩
def mgmtResetCauseLevel : Fld := ⟨1, 0x7c, 0, 3, 0x0, 1⟩
def mgmtResetCauseSource : Fld := ⟨1, 0x7c, 4, 3, 0x0, 1⟩
def mgmtResetCfgPerst : Fld := ⟨1, 0x80, 0, 3, 0x0, 1⟩
def mgmtJobCtrlStart : Fld := ⟨1, 0x84, 0, 1, 0x0, 1⟩
def mgmtJobCtrlEnd : Fld := ⟨1, 0x84, 1, 1, 0x0, 1⟩
def mgmtJobCtrlProgram : Fld := ⟨1, 0x84, 8, 8, 0x0, 1⟩
def mgmtJobBaseLo : Fld := ⟨1, 0x88, 0, 32, 0x0, 1⟩
def mgmtJobBaseHi : Fld := ⟨1, 0x8c, 0, 32, 0x0, 1⟩
def mgmtJobState : Fld := ⟨1, 0x90, 0, 2, 0x0, 1⟩
def mgmtJobStartCueLo : Fld := ⟨1, 0x94, 0, 32, 0x0, 1⟩
def mgmtJobStartCueHi : Fld := ⟨1, 0x98, 0, 32, 0x0, 1⟩
def mgmtChipWaitS : Fld := ⟨1, 0x9c, 0, 8, 0x0, 1⟩
def mgmtFaultCount : Fld := ⟨1, 0xa0, 0, 32, 0x0, 1⟩
def mgmtFaultWr : Fld := ⟨1, 0xa4, 0, 4, 0x0, 1⟩
def mgmtFaultFirstValid : Fld := ⟨1, 0xa4, 8, 1, 0x0, 1⟩
def mgmtFaultCtrlClear : Fld := ⟨1, 0xa8, 0, 1, 0x0, 1⟩
def mgmtEvtSuppressed : Fld := ⟨1, 0xac, 0, 32, 0x0, 1⟩
def mgmtFaultLog : Fld := ⟨1, 0x400, 0, 32, 0x4, 256⟩

end R

def rowsCommon (pg : Nat) : List RegRow :=
  [⟨R.pagePageIdType pg, .ro, 0⟩,
   ⟨R.pagePageIdInstance pg, .ro, 0⟩,
   ⟨R.pagePageRev pg, .ro, 1⟩,
   ⟨R.pageCtrlRoute pg, .rw, 0⟩,
   ⟨R.pageStatusEventPending pg, .ro, 0⟩,
   ⟨R.pageStatusStagedDiff pg, .ro, 0⟩,
   ⟨R.pageEvent pg, .w1c, 0⟩,
   ⟨R.pageEventEn pg, .rw, 0xffffffff⟩,
   ⟨R.pageEventForce pg, .wo, 0⟩,
   ⟨R.pageTimeoutUs pg, .rw, 0x64⟩]

def rowsHost : List RegRow :=
  [⟨R.hostLinkRate, .ro, 0⟩,
   ⟨R.hostLinkWidth, .ro, 0⟩,
   ⟨R.hostLinkCxl, .ro, 0⟩,
   ⟨R.hostLinkDowns, .sat, 0⟩,
   ⟨R.hostEvqBaseLo, .rw, 0⟩,
   ⟨R.hostEvqBaseHi, .rw, 0⟩,
   ⟨R.hostEvqCtrlSize, .rw, 0xa⟩,
   ⟨R.hostEvqCtrlEn, .rw, 0⟩,
   ⟨R.hostEvqWr, .ro, 0⟩,
   ⟨R.hostEvqRd, .rw, 0⟩,
   ⟨R.hostEvqLost, .sat, 0⟩,
   ⟨R.hostIrqHoldoffUs, .rw, 0x10⟩,
   ⟨R.hostLoadOffLo, .rw, 0⟩,
   ⟨R.hostLoadOffHi, .rw, 0⟩,
   ⟨R.hostLoadCtrlGo, .wo, 0⟩,
   ⟨R.hostLoadCtrlUnload, .wo, 0⟩,
   ⟨R.hostLoadCtrlProgram, .rw, 0⟩,
   ⟨R.hostLoadStatusBusy, .ro, 0⟩,
   ⟨R.hostLoadStatusUnload, .ro, 0⟩,
   ⟨R.hostBadAccess, .sat, 0⟩,
   ⟨R.hostBadAccessLastOffset, .ro, 0⟩,
   ⟨R.hostBadAccessLastCallboard, .ro, 0⟩,
   ⟨R.hostBiSnoops, .sat, 0⟩,
   ⟨R.hostBiTimeouts, .sat, 0⟩] ++
  [⟨R.hostT3Timeouts, .sat, 0⟩,
   ⟨R.hostDmaRingLo, .rw, 0⟩,
   ⟨R.hostDmaRingHi, .rw, 0⟩,
   ⟨R.hostDmaCtrlSize, .rw, 8⟩,
   ⟨R.hostDmaCtrlEn, .rw, 0⟩,
   ⟨R.hostDmaCtrlReset, .wo, 0⟩,
   ⟨R.hostDmaTail, .rw, 0⟩,
   ⟨R.hostDmaHead, .ro, 0⟩,
   ⟨R.hostDmaStatusState, .ro, 0⟩,
   ⟨R.hostDmaStatusCause, .ro, 0⟩,
   ⟨R.hostDmaStatusIndex, .ro, 0⟩,
   ⟨R.hostDmaDone, .sat, 0⟩]

def rowsMgmt : List RegRow :=
  [⟨R.mgmtIdentityLo, .ro, 0⟩,
   ⟨R.mgmtIdentityHi, .ro, 0⟩,
   ⟨R.mgmtVariant, .ro, 0⟩,
   ⟨R.mgmtChipNumber, .rw, 0⟩,
   ⟨R.mgmtChipValid, .rw, 0⟩,
   ⟨R.mgmtCbPosition, .ro, 0⟩,
   ⟨R.mgmtCbValid, .ro, 0⟩,
   ⟨R.mgmtCbTail, .ro, 0⟩,
   ⟨R.mgmtCbLength, .ro, 0⟩,
   ⟨R.mgmtCbTelemMs, .rw, 0xa⟩,
   ⟨R.mgmtCbHcrcErrors, .sat, 0⟩,
   ⟨R.mgmtCbCrcErrors, .sat, 0⟩,
   ⟨R.mgmtFwActiveSlot, .ro, 0⟩,
   ⟨R.mgmtFwNextSlot, .ro, 0⟩,
   ⟨R.mgmtFwFallback, .ro, 0⟩,
   ⟨R.mgmtFwRecovery, .ro, 0⟩,
   ⟨R.mgmtSvn, .ro, 0⟩,
   ⟨R.mgmtMinSvn, .ro, 0⟩,
   ⟨R.mgmtFuseKeyRevoked, .ro, 0⟩,
   ⟨R.mgmtFuseSecureBoot, .ro, 0⟩,
   ⟨R.mgmtFuseTestLocked, .ro, 0⟩,
   ⟨R.mgmtStartStep, .ro, 0⟩,
   ⟨R.mgmtStartState, .ro, 0⟩,
   ⟨R.mgmtStartCause, .ro, 0⟩] ++
  [⟨R.mgmtStartMs, .ro, 0⟩,
   ⟨R.mgmtResetLevel, .wo, 0⟩,
   ⟨R.mgmtResetCauseLevel, .ro, 0⟩,
   ⟨R.mgmtResetCauseSource, .ro, 0⟩,
   ⟨R.mgmtResetCfgPerst, .rw, 2⟩,
   ⟨R.mgmtJobCtrlStart, .st, 0⟩,
   ⟨R.mgmtJobCtrlEnd, .st, 0⟩,
   ⟨R.mgmtJobCtrlProgram, .st, 0⟩,
   ⟨R.mgmtJobBaseLo, .st, 0⟩,
   ⟨R.mgmtJobBaseHi, .st, 0⟩,
   ⟨R.mgmtJobState, .ro, 0⟩,
   ⟨R.mgmtJobStartCueLo, .ro, 0⟩,
   ⟨R.mgmtJobStartCueHi, .ro, 0⟩,
   ⟨R.mgmtChipWaitS, .rw, 0x3c⟩,
   ⟨R.mgmtFaultCount, .sat, 0⟩,
   ⟨R.mgmtFaultWr, .ro, 1⟩,
   ⟨R.mgmtFaultFirstValid, .ro, 0⟩,
   ⟨R.mgmtFaultCtrlClear, .wo, 0⟩,
   ⟨R.mgmtEvtSuppressed, .sat, 0⟩,
   ⟨R.mgmtFaultLog, .ro, 0⟩]

def rowsCue : List RegRow :=
  [⟨R.cueTimeLo, .ro, 0⟩,
   ⟨R.cueTimeHi, .ro, 0⟩,
   ⟨R.cuePeriodUs, .st, 0x3e8⟩,
   ⟨R.cueCurCueLo, .ro, 0⟩,
   ⟨R.cueCurCueHi, .ro, 0⟩,
   ⟨R.cueShift, .ro, 0⟩,
   ⟨R.cueHoldLimit, .st, 0x40⟩,
   ⟨R.cueAlignCtrlRoot, .rw, 0⟩,
   ⟨R.cueAlignCtrlUseSeed, .rw, 0⟩,
   ⟨R.cueAlignCtrlStart, .wo, 0⟩,
   ⟨R.cueAlignStatusState, .ro, 0⟩,
   ⟨R.cueAlignStatusParent, .ro, 0⟩,
   ⟨R.cueAlignStatusHops, .ro, 0⟩,
   ⟨R.cueAlignOffset, .ro, 0⟩,
   ⟨R.cueFloodNs, .ro, 0⟩,
   ⟨R.cueMinPeriodUs, .ro, 0x14⟩,
   ⟨R.cueCsCtrlArm, .wo, 0⟩,
   ⟨R.cueCsCtrlDisarm, .wo, 0⟩,
   ⟨R.cueCsCtrlMachine, .rw, 0⟩,
   ⟨R.cueCsTargetLo, .rw, 0⟩,
   ⟨R.cueCsTargetHi, .rw, 0⟩,
   ⟨R.cueCsStatusState, .ro, 0⟩,
   ⟨R.cueCsStatusLateWrites, .sat, 0⟩,
   ⟨R.cueCsRejectPage, .ro, 0⟩] ++
  [⟨R.cueCsRejectReg, .ro, 0⟩,
   ⟨R.cueCsRejectCause, .ro, 0⟩,
   ⟨R.cueSeedTimeLo, .rw, 0⟩,
   ⟨R.cueSeedTimeHi, .rw, 0⟩,
   ⟨R.cueActCurA, .ro, 0⟩,
   ⟨R.cueActCurB, .ro, 0⟩,
   ⟨R.cueOverrunCount, .sat, 0⟩,
   ⟨R.cueHoldCues, .sat, 0⟩,
   ⟨R.cueLastSlack, .ro, 0⟩]

def rowsCmd : List RegRow :=
  [⟨R.cmdCheckEn, .st, 0⟩,
   ⟨R.cmdLoadStatusProgram, .ro, 0⟩,
   ⟨R.cmdLoadStatusCause, .ro, 0⟩,
   ⟨R.cmdProgramsLoaded, .ro, 0⟩,
   ⟨R.cmdHazCount, .sat, 0⟩,
   ⟨R.cmdHazTagEarly, .ro, 0⟩,
   ⟨R.cmdHazTagLate, .ro, 0⟩,
   ⟨R.cmdHazWhereCell, .ro, 0⟩,
   ⟨R.cmdHazWhereCore, .ro, 0⟩,
   ⟨R.cmdHazWhereKind, .ro, 0⟩,
   ⟨R.cmdHazWhereEngEarly, .ro, 0⟩,
   ⟨R.cmdHazWhereEngLate, .ro, 0⟩,
   ⟨R.cmdHazAddrOffset, .ro, 0⟩,
   ⟨R.cmdHazAddrSpace, .ro, 0⟩,
   ⟨R.cmdHazAddrSpaceHi, .ro, 0⟩,
   ⟨R.cmdWxCount, .sat, 0⟩,
   ⟨R.cmdWxTag, .ro, 0⟩,
   ⟨R.cmdWxFlagNumber, .ro, 0⟩,
   ⟨R.cmdWxFlagCell, .ro, 0⟩,
   ⟨R.cmdWxFlagValue, .ro, 0⟩,
   ⟨R.cmdWxWriter, .ro, 0⟩,
   ⟨R.cmdWxWhereCell, .ro, 0⟩,
   ⟨R.cmdWxWhereCore, .ro, 0⟩,
   ⟨R.cmdWxWhereQueue, .ro, 0⟩] ++
  [⟨R.cmdWxWhereGroup, .ro, 0⟩,
   ⟨R.cmdCaptureClearHaz, .wo, 0⟩,
   ⟨R.cmdCaptureClearWx, .wo, 0⟩,
   ⟨R.cmdTraceCtrlEn, .rw, 0⟩,
   ⟨R.cmdTraceCtrlStopOnFull, .rw, 0⟩,
   ⟨R.cmdTraceCtrlTypes, .rw, 0⟩,
   ⟨R.cmdTraceSample, .rw, 1⟩,
   ⟨R.cmdTraceBaseLo, .rw, 0⟩,
   ⟨R.cmdTraceBaseHi, .rw, 0⟩,
   ⟨R.cmdTraceSize, .rw, 0xc⟩,
   ⟨R.cmdTraceWrptrLo, .ro, 0⟩,
   ⟨R.cmdTraceWrptrHi, .ro, 0⟩,
   ⟨R.cmdTraceDrops, .sat, 0⟩,
   ⟨R.cmdCommqDepth, .ro, 0⟩]

def rowsScale : List RegRow :=
  [⟨R.scaleTableBaseLo, .st, 0⟩,
   ⟨R.scaleTableBaseHi, .st, 0⟩,
   ⟨R.scaleSlots, .st, 0⟩,
   ⟨R.scaleRecipeBaseLo, .st, 0⟩,
   ⟨R.scaleRecipeBaseHi, .st, 0⟩,
   ⟨R.scaleRecipes, .st, 0⟩,
   ⟨R.scaleDefaultsHeadroom, .st, 2⟩,
   ⟨R.scaleDefaultsBackoff, .st, 2⟩,
   ⟨R.scaleCtrlReload, .st, 0⟩,
   ⟨R.scaleSkipLimit, .st, 8⟩,
   ⟨R.scaleSkipRun, .ro, 0⟩,
   ⟨R.scaleLowered, .sat, 0⟩,
   ⟨R.scaleLastLowered, .ro, 0xfff⟩,
   ⟨R.scalePrepNs, .ro, 0⟩,
   ⟨R.scaleOvertureSlots, .ro, 0⟩,
   ⟨R.scaleStatusWbSeq, .ro, 0⟩,
   ⟨R.scaleBadIndexIndex, .ro, 0⟩,
   ⟨R.scaleBadIndexRecipe, .ro, 0⟩]

def rowsMem : List RegRow :=
  [⟨R.memIlKey1Lo, .rw, 0⟩,
   ⟨R.memIlKey1Hi, .rw, 0⟩,
   ⟨R.memIlKey2Lo, .rw, 0⟩,
   ⟨R.memIlKey2Hi, .rw, 0⟩,
   ⟨R.memIlStatusLocked1, .ro, 0⟩,
   ⟨R.memIlStatusLocked2, .ro, 0⟩,
   ⟨R.memIlStatusRekeyBusy, .ro, 0⟩,
   ⟨R.memIlCtrlLock1, .wo, 0⟩,
   ⟨R.memIlCtrlLock2, .wo, 0⟩,
   ⟨R.memRekeyT1, .st, 0⟩,
   ⟨R.memRekeyT2, .st, 0⟩,
   ⟨R.memRekeyKey1Lo, .st, 0⟩,
   ⟨R.memRekeyKey1Hi, .st, 0⟩,
   ⟨R.memRekeyKey2Lo, .st, 0⟩,
   ⟨R.memRekeyKey2Hi, .st, 0⟩,
   ⟨R.memT3Size, .st, 0⟩,
   ⟨R.memT3HostGibLo, .st, 0⟩,
   ⟨R.memT3HostGibHi, .st, 0⟩,
   ⟨R.memHdmBase, .st, 0⟩,
   ⟨R.memHdmSize, .st, 0⟩,
   ⟨R.memArbAct, .st, 0xe⟩,
   ⟨R.memArbHost, .st, 1⟩,
   ⟨R.memArbSnap, .st, 1⟩,
   ⟨R.memScrubHours, .rw, 0x18⟩] ++
  [⟨R.memRegionBaseLo, .st, 0⟩,
   ⟨R.memRegionBaseHi, .st, 0⟩,
   ⟨R.memRegions, .st, 0⟩,
   ⟨R.memRegionCtrlReload, .st, 0⟩,
   ⟨R.memRegionBad, .ro, 0⟩,
   ⟨R.memHotLastStack, .ro, 0⟩,
   ⟨R.memHotLastChannel, .ro, 0⟩,
   ⟨R.memHotLastValid, .ro, 0⟩,
   ⟨R.memHotLastRatio, .ro, 0⟩,
   ⟨R.memUncCount, .sat, 0⟩,
   ⟨R.memUncFirstLo, .ro, 0⟩,
   ⟨R.memUncFirstHi, .ro, 0⟩,
   ⟨R.memUncFirstValid, .ro, 0⟩,
   ⟨R.memUncClear, .wo, 0⟩,
   ⟨R.memWindowRange, .sat, 0⟩,
   ⟨R.memAllotFull, .sat, 0⟩,
   ⟨R.memSnapListLo, .rw, 0⟩,
   ⟨R.memSnapListHi, .rw, 0⟩,
   ⟨R.memSnapCount, .rw, 0⟩,
   ⟨R.memSnapCueLo, .rw, 0⟩,
   ⟨R.memSnapCueHi, .rw, 0⟩,
   ⟨R.memSnapCtrlArm, .wo, 0⟩,
   ⟨R.memSnapCtrlAbort, .wo, 0⟩,
   ⟨R.memSnapStatusState, .ro, 0⟩] ++
  [⟨R.memSnapStatusCause, .ro, 0⟩,
   ⟨R.memSnapBytesLo, .ro, 0⟩,
   ⟨R.memSnapBytesHi, .ro, 0⟩,
   ⟨R.memSnapPoison, .sat, 0⟩]

def rowsColl : List RegRow :=
  [⟨R.collShapeX, .st, 1⟩,
   ⟨R.collShapeY, .st, 1⟩,
   ⟨R.collShapeZ, .st, 1⟩,
   ⟨R.collMapBaseLo, .st, 0⟩,
   ⟨R.collMapBaseHi, .st, 0⟩,
   ⟨R.collMapCtrlReload, .st, 0⟩,
   ⟨R.collMapBad, .ro, 0⟩,
   ⟨R.collPositionX, .ro, 0⟩,
   ⟨R.collPositionY, .ro, 0⟩,
   ⟨R.collPositionZ, .ro, 0⟩,
   ⟨R.collPositionValid, .ro, 0⟩,
   ⟨R.collVcWeightW2, .st, 4⟩,
   ⟨R.collVcWeightW3, .st, 4⟩,
   ⟨R.collVcWeightW4, .st, 4⟩,
   ⟨R.collVcWeightW5, .st, 4⟩,
   ⟨R.collVcWeightW6, .st, 2⟩,
   ⟨R.collVcWeightW7, .st, 1⟩,
   ⟨R.collP2pSaltLo, .st, 0⟩,
   ⟨R.collP2pSaltHi, .st, 0⟩,
   ⟨R.collSkewLastDir, .ro, 0⟩,
   ⟨R.collSkewLastPort, .ro, 0⟩,
   ⟨R.collSkewLastValid, .ro, 0⟩,
   ⟨R.collSkewLastRatio, .ro, 0⟩,
   ⟨R.collRefused, .sat, 0⟩] ++
  [⟨R.collRefusedLast, .ro, 0⟩,
   ⟨R.collSlackBaseLo, .rw, 0⟩,
   ⟨R.collSlackBaseHi, .rw, 0⟩,
   ⟨R.collSlackSize, .rw, 8⟩,
   ⟨R.collSlackCtrlEn, .rw, 0⟩,
   ⟨R.collSlackWrptr, .ro, 0⟩,
   ⟨R.collCountClearAll, .wo, 0⟩,
   ⟨R.collGDefValid, .st, 0⟩,
   ⟨R.collGDefAxis0, .st, 0⟩,
   ⟨R.collGDefAxis1, .st, 0⟩,
   ⟨R.collGDefAxis2, .st, 0⟩,
   ⟨R.collGDefVc, .st, 2⟩,
   ⟨R.collGDefPortGroup, .st, 0⟩,
   ⟨R.collGDefAcc, .st, 0⟩,
   ⟨R.collGBufKib, .st, 0⟩,
   ⟨R.collGA2aCap, .st, 0⟩,
   ⟨R.collGRoundKib, .st, 0⟩,
   ⟨R.collGMembers, .ro, 0⟩,
   ⟨R.collGLayoutCommitted, .ro, 0⟩,
   ⟨R.collGLayoutPending, .ro, 0⟩,
   ⟨R.collGCountOvf, .sat, 0⟩,
   ⟨R.collGCountInv, .sat, 0⟩,
   ⟨R.collGDrops, .sat, 0⟩,
   ⟨R.collGSlotErrors, .sat, 0⟩]

def rowsUpd : List RegRow :=
  [⟨R.updGroupBaseLo, .st, 0⟩,
   ⟨R.updGroupBaseHi, .st, 0⟩,
   ⟨R.updGroups, .st, 0⟩,
   ⟨R.updCurveBaseLo, .st, 0⟩,
   ⟨R.updCurveBaseHi, .st, 0⟩,
   ⟨R.updCurvePoints, .st, 0⟩,
   ⟨R.updCtrlReload, .st, 0⟩,
   ⟨R.updBadIndexIndex, .ro, 0⟩,
   ⟨R.updBadIndexTable, .ro, 0⟩,
   ⟨R.updBadIndexGroup, .ro, 0⟩,
   ⟨R.updFrozenDrops, .sat, 0⟩,
   ⟨R.updFallbacks, .sat, 0⟩,
   ⟨R.updFallbackLastGroup, .ro, 0⟩,
   ⟨R.updFallbackLastLayer, .ro, 0⟩,
   ⟨R.updDamped, .sat, 0⟩,
   ⟨R.updNonfinite, .sat, 0⟩,
   ⟨R.updRefused, .sat, 0⟩,
   ⟨R.updRefusedLast, .ro, 0⟩,
   ⟨R.updNetWidthMax, .ro, 0x200⟩]

def rowsCommit : List RegRow :=
  [⟨R.commitVerBaseLo, .st, 0⟩,
   ⟨R.commitVerBaseHi, .st, 0⟩,
   ⟨R.commitRanges, .st, 0⟩,
   ⟨R.commitCtrlReload, .st, 0⟩,
   ⟨R.commitCtrlActive, .st, 0⟩,
   ⟨R.commitCtrlRestore, .st, 0⟩,
   ⟨R.commitStepLo, .ro, 0⟩,
   ⟨R.commitStepHi, .ro, 0⟩,
   ⟨R.commitRecordBaseLo, .rw, 0⟩,
   ⟨R.commitRecordBaseHi, .rw, 0⟩,
   ⟨R.commitVerdictOwn, .ro, 0⟩,
   ⟨R.commitVerdictAnd, .ro, 0⟩,
   ⟨R.commitVerdictOr, .ro, 0⟩,
   ⟨R.commitOutcomeLast, .ro, 0⟩,
   ⟨R.commitOutcomeConfirmAnd, .ro, 0⟩,
   ⟨R.commitOutcomeCueLo, .ro, 0⟩,
   ⟨R.commitOutcomeCueHi, .ro, 0⟩,
   ⟨R.commitCommits, .sat, 0⟩,
   ⟨R.commitSkips, .sat, 0⟩,
   ⟨R.commitSkipRun, .ro, 0⟩,
   ⟨R.commitMissingLastPort, .ro, 0⟩,
   ⟨R.commitMissingLastValid, .ro, 0⟩,
   ⟨R.commitDecideNs, .ro, 0⟩,
   ⟨R.commitResyncWaitNs, .sat, 0⟩] ++
  [⟨R.commitResyncPages, .ro, 0⟩,
   ⟨R.commitRangeBad, .ro, 0⟩,
   ⟨R.commitWordCrc, .sat, 0⟩,
   ⟨R.commitCkptCtrlOnCommit, .rw, 0⟩]

def rowsLink : List RegRow :=
  [⟨R.linkAllot0, .st, 0x11100000⟩,
   ⟨R.linkAllot1, .st, 0x32222211⟩,
   ⟨R.linkAllot2, .st, 0x44443333⟩,
   ⟨R.linkAllot3, .st, 0x66555554⟩,
   ⟨R.linkCtrlTrain, .wo, 0⟩,
   ⟨R.linkCtrlDarkAll, .wo, 0⟩,
   ⟨R.linkPortsUp, .ro, 0⟩,
   ⟨R.linkPortsNarrow, .ro, 0⟩,
   ⟨R.linkPortsNoSpare, .ro, 0⟩,
   ⟨R.linkWorking, .ro, 0⟩,
   ⟨R.linkInventoryLo, .ro, 0⟩,
   ⟨R.linkInventoryHi, .ro, 0⟩,
   ⟨R.linkExpressPort, .ro, 0⟩,
   ⟨R.linkExpressPeerChip, .ro, 0⟩,
   ⟨R.linkExpressValid, .ro, 0⟩]

def rowsPwr : List RegRow :=
  [⟨R.pwrOpMhz, .st, 0x4b0⟩,
   ⟨R.pwrExpectW, .rw, 0⟩,
   ⟨R.pwrCtrlLearn, .rw, 1⟩,
   ⟨R.pwrCapW, .rw, 0xbb8⟩,
   ⟨R.pwrCapClamped, .ro, 0⟩,
   ⟨R.pwrSlewWPerUs, .rw, 4⟩,
   ⟨R.pwrLeadMarginUs, .rw, 0xa⟩,
   ⟨R.pwrEstW, .ro, 0⟩,
   ⟨R.pwrMeasW, .ro, 0⟩,
   ⟨R.pwrCalGain, .ro, 0x1000⟩,
   ⟨R.pwrVin, .ro, 0⟩,
   ⟨R.pwrIin, .ro, 0⟩,
   ⟨R.pwrClockMhz, .ro, 0⟩,
   ⟨R.pwrClockLimit, .ro, 0⟩,
   ⟨R.pwrClockEdgePermil, .ro, 0x3e8⟩,
   ⟨R.pwrStageW, .ro, 0⟩,
   ⟨R.pwrFallExcessUs, .sat, 0⟩,
   ⟨R.pwrTjTemp, .ro, 0⟩,
   ⟨R.pwrTjSensor, .ro, 0⟩,
   ⟨R.pwrRiseLast, .ro, 0⟩,
   ⟨R.pwrRiseSensor, .ro, 0⟩,
   ⟨R.pwrThermState, .ro, 0⟩,
   ⟨R.pwrHolds, .sat, 0⟩,
   ⟨R.pwrCoolingClear, .wo, 0⟩] ++
  [⟨R.pwrInlet, .ro, 0⟩,
   ⟨R.pwrOutlet, .ro, 0⟩,
   ⟨R.pwrSensorExcluded, .ro, 0⟩,
   ⟨R.pwrAgeOffset, .ro, 0⟩,
   ⟨R.pwrAgeBound, .ro, 0⟩,
   ⟨R.pwrAgeCeilMhz, .ro, 0x834⟩,
   ⟨R.pwrAgeHours, .ro, 0⟩,
   ⟨R.pwrAgeCtrlNow, .wo, 0⟩,
   ⟨R.pwrDroopEvents, .sat, 0⟩,
   ⟨R.pwrDroopCycles, .sat, 0⟩,
   ⟨R.pwrVtable, .ro, 0⟩]

def rowsCell (c : Nat) : List RegRow :=
  [⟨R.cellInfoCell c, .ro, 0⟩,
   ⟨R.cellInfoWing c, .ro, 0⟩,
   ⟨R.cellActCycle c, .ro, 0⟩,
   ⟨R.cellMatrixBusy c, .sat, 0⟩,
   ⟨R.cellStarved c, .sat, 0⟩,
   ⟨R.cellStoreRange c, .sat, 0⟩,
   ⟨R.cellFtqConv c, .st, 0⟩,
   ⟨R.cellFtqDepth c, .ro, 8⟩,
   ⟨R.cellFtqPushWait c, .sat, 0⟩,
   ⟨R.cellFtqLost c, .sat, 0⟩,
   ⟨R.cellFtqOcc0 c, .ro, 0⟩,
   ⟨R.cellFtqOcc1 c, .ro, 0⟩,
   ⟨R.cellFtqOcc2 c, .ro, 0⟩,
   ⟨R.cellFtqOcc3 c, .ro, 0⟩,
   ⟨R.cellFtqEmptyClaim c, .sat, 0⟩,
   ⟨R.cellCountClearAll c, .wo, 0⟩,
   ⟨R.cellVecBusy c, .sat, 0⟩,
   ⟨R.cellCountOvf c, .sat, 0⟩,
   ⟨R.cellCountInv c, .sat, 0⟩,
   ⟨R.cellQdepthMatrix c, .ro, 0⟩,
   ⟨R.cellQdepthVector c, .ro, 0⟩,
   ⟨R.cellQdepthMover c, .ro, 0⟩,
   ⟨R.cellQdepthSync c, .ro, 0⟩,
   ⟨R.cellSlip c, .sat, 0⟩] ++
  [⟨R.cellGatesLost c, .sat, 0⟩,
   ⟨R.cellFlagPair c, .ro, 0⟩]

def rowsStack (k : Nat) : List RegRow :=
  [⟨R.stackInfoFar k, .ro, 0⟩,
   ⟨R.stackInfoIndex k, .ro, 0⟩,
   ⟨R.stackCorrected k, .sat, 0⟩,
   ⟨R.stackUncorrectable k, .sat, 0⟩,
   ⟨R.stackSparesMin k, .ro, 0x40⟩,
   ⟨R.stackScrubPasses k, .sat, 0⟩,
   ⟨R.stackLinkLanes k, .ro, 0⟩,
   ⟨R.stackLinkReplays k, .sat, 0⟩,
   ⟨R.stackOcc k, .ro, 0⟩]

def rowsPort (p : Nat) : List RegRow :=
  [⟨R.portInfoCode p, .ro, 0⟩,
   ⟨R.portInfoPortGroup p, .ro, 0⟩,
   ⟨R.portStateState p, .ro, 0⟩,
   ⟨R.portStateLanesRx p, .ro, 0⟩,
   ⟨R.portStateLanesTx p, .ro, 0⟩,
   ⟨R.portStateSpareRx p, .ro, 0⟩,
   ⟨R.portStateSpareTx p, .ro, 0⟩,
   ⟨R.portStateFailPhase p, .ro, 0⟩,
   ⟨R.portLaneMapRx p, .ro, 0x76543210⟩,
   ⟨R.portLaneMapTx p, .ro, 0x76543210⟩,
   ⟨R.portPeerIdLo p, .ro, 0⟩,
   ⟨R.portPeerIdHi p, .ro, 0⟩,
   ⟨R.portPeerPort p, .ro, 0⟩,
   ⟨R.portPeerCode p, .ro, 0⟩,
   ⟨R.portPeerChip p, .ro, 0⟩,
   ⟨R.portPeerChipValid p, .ro, 0⟩,
   ⟨R.portDelay p, .ro, 0⟩,
   ⟨R.portCtrlTrain p, .wo, 0⟩,
   ⟨R.portCtrlRetrain p, .wo, 0⟩,
   ⟨R.portCtrlDark p, .wo, 0⟩,
   ⟨R.portFecCorrected p, .sat, 0⟩,
   ⟨R.portFecUncorrectable p, .sat, 0⟩,
   ⟨R.portHdrCrc p, .sat, 0⟩,
   ⟨R.portResent p, .sat, 0⟩] ++
  [⟨R.portCreditFaults p, .sat, 0⟩,
   ⟨R.portSwaps p, .sat, 0⟩,
   ⟨R.portRetrains p, .sat, 0⟩,
   ⟨R.portRetryUsed p, .ro, 0⟩,
   ⟨R.portCwInvalid p, .sat, 0⟩,
   ⟨R.portMonReject p, .sat, 0⟩,
   ⟨R.portLaneCorrBits p, .ro, 0⟩,
   ⟨R.portLaneOmaMargin p, .ro, 0⟩,
   ⟨R.portLaneRxOma p, .ro, 0⟩,
   ⟨R.portLaneTxBackfacet p, .ro, 0⟩,
   ⟨R.portLaneTxModOma p, .ro, 0⟩,
   ⟨R.portLaneTxBias p, .ro, 0⟩,
   ⟨R.portLaneTxBiasBol p, .ro, 0⟩,
   ⟨R.portLanePathLoss p, .ro, 0⟩,
   ⟨R.portLanePathLossBol p, .ro, 0⟩,
   ⟨R.portLaneRxState p, .ro, 0⟩,
   ⟨R.portLaneRxLogical p, .ro, 0xf⟩,
   ⟨R.portLaneFaultClass p, .ro, 0⟩,
   ⟨R.portLaneTxState p, .ro, 0⟩,
   ⟨R.portPoolSent p, .ro, 0⟩,
   ⟨R.portPoolCredIn p, .ro, 0⟩,
   ⟨R.portPoolAvail p, .ro, 0⟩,
   ⟨R.portPoolSlots p, .ro, 0⟩,
   ⟨R.portPoolHeld p, .ro, 0⟩]

def rowsMbox (m : Nat) : List RegRow :=
  [⟨R.mboxDoorbellOpcode m, .wo, 0⟩,
   ⟨R.mboxDoorbellSeq m, .wo, 0⟩,
   ⟨R.mboxMstateState m, .ro, 0⟩,
   ⟨R.mboxMstateCollide m, .ro, 0⟩,
   ⟨R.mboxMstateOwner m, .ro, 0⟩,
   ⟨R.mboxMstateSeq m, .ro, 0⟩,
   ⟨R.mboxMstateResult m, .ro, 0⟩,
   ⟨R.mboxReqLen m, .rw, 0⟩,
   ⟨R.mboxRespLen m, .ro, 0⟩,
   ⟨R.mboxMctrlAck m, .wo, 0⟩,
   ⟨R.mboxMctrlAbort m, .wo, 0⟩,
   ⟨R.mboxMlimitMs m, .ro, 0⟩,
   ⟨R.mboxReq m, .rw, 0⟩,
   ⟨R.mboxResp m, .ro, 0⟩]

/-- The kinds of page (R409). -/
inductive PageKind where
  | host | mgmt | cue | cmd | scale | mem | coll | upd | commit | link | pwr
  | cell (c : Nat) | stack (k : Nat) | port (p : Nat) | mbox (m : Nat)
  deriving DecidableEq, Repr

/-- The page at an index (R409); absent otherwise (R410). -/
def pageKind (i : Nat) : Option PageKind :=
  match i with
  | 0 => some .host
  | 1 => some .mgmt
  | 2 => some .cue
  | 3 => some .cmd
  | 4 => some .scale
  | 5 => some .mem
  | 6 => some .coll
  | 7 => some .upd
  | 8 => some .commit
  | 9 => some .link
  | 10 => some .pwr
  | _ =>
    if 0x100 ≤ i ∧ i < 0x180 then some (.cell (i - 0x100))
    else if 0x200 ≤ i ∧ i < 0x218 then some (.stack (i - 0x200))
    else if 0x300 ≤ i ∧ i < 0x320 then some (.port (i - 0x300))
    else if 0x400 ≤ i ∧ i < 0x48A then some (.mbox (i - 0x400))
    else none

/-- TYPE and INSTANCE of a page (R407, R409). -/
def PageKind.id : PageKind → Nat × Nat
  | .host => (0x01, 0)
  | .mgmt => (0x02, 0)
  | .cue => (0x03, 0)
  | .cmd => (0x04, 0)
  | .scale => (0x05, 0)
  | .mem => (0x06, 0)
  | .coll => (0x07, 0)
  | .upd => (0x08, 0)
  | .commit => (0x09, 0)
  | .link => (0x0A, 0)
  | .pwr => (0x0B, 0)
  | .cell c => (0x10, c)
  | .stack k => (0x11, k)
  | .port p => (0x12, p)
  | .mbox m => (0x13, m)

/-- The rows of a page, its common ones first. -/
def PageKind.rows (pg : PageKind) (i : Nat) : List RegRow :=
  rowsCommon i ++
    match pg with
    | .host => rowsHost
    | .mgmt => rowsMgmt
    | .cue => rowsCue
    | .cmd => rowsCmd
    | .scale => rowsScale
    | .mem => rowsMem
    | .coll => rowsColl
    | .upd => rowsUpd
    | .commit => rowsCommit
    | .link => rowsLink
    | .pwr => rowsPwr
    | .cell c => rowsCell c
    | .stack k => rowsStack k
    | .port p => rowsPort p
    | .mbox m => rowsMbox m

/-- The rows that lie in the word at a BAR0 offset, each as the single field it has there. -/
def rowsAt (addr : Nat) : List RegRow :=
  match pageKind (addr / 0x1000) with
  | none => []
  | some pg =>
    let o := addr % 0x1000
    (pg.rows (addr / 0x1000)).filterMap fun r =>
      let d := o - r.fld.off
      if o < r.fld.off then none
      else if r.fld.stride = 0 then (if d = 0 then some r else none)
      else if d % r.fld.stride = 0 ∧ d / r.fld.stride < r.fld.count then
        some { r with fld := r.fld.at_ (d / r.fld.stride) }
      else none

/-- The word that the tables give for reset. -/
def resetOf (rows : List RegRow) : Nat :=
  rows.foldl (fun a r => a ||| (r.reset <<< r.fld.lo)) 0

end Sys2Proof.Machine
end

