-- ==== Sys2Proof/Config.lean ====
section
/-! DEFINITION. What one module has fused or fitted, and the values the spec leaves open: constants with no body, so that
nothing can be proved of them but what holds for every value. -/

namespace Sys2Proof.Config

/-! Fused at test (R7, R240, R378, R379, R436). -/

/-- The variant: `true` for BT7-L4T-X (R7). -/
opaque extended : Bool
/-- The 64-bit module identity (R436). -/
opaque identity : DWord
/-- The identity key's public half (R436). -/
opaque pubKey : List Byte
/-- The Trehus key slot that signed the identity statement, the statement's bytes 0x30 to 0x3F, and its signature (R436). -/
opaque statementKey : Byte
opaque statementRest : List Byte
opaque statementSignature : List Byte
/-- The fused minimum SVN per firmware type before any burn (R440). -/
opaque minSvn : Nat → Nat
/-- The key slots revoked at test, a mask of four (R440). -/
opaque keyRevoked : Nat
/-- The four voltage tables: domain, entry, mV (R378). -/
opaque vtable : Nat → Nat → Nat
/-- The fused ageing bound per domain, in units of 0.5 mV (R379). -/
opaque ageBound : Nat → Nat
/-- Bytes of one DRAM row of a channel (R220). -/
opaque rowBytes : Nat
/-- Vendor and device ID of the product data, device above vendor, and the revision ID (R403). -/
opaque deviceVendor : Word
opaque revisionId : Byte
/-- Where in configuration space the DVSEC stands that reports the CXL.mem range (R401, R403). -/
opaque dvsecAt : Nat
/-- The IDCODE of the product data (R438). -/
opaque idcode : Word
/-- Firmware fitted at the factory, slot A and slot B of each type 1 to 4 (R432): image bytes. -/
opaque factoryImage : Nat → Bool → List Byte

/-- Whether a monitor reading lies in the pluggable's calibrated range (R358): 0 bias, 1 back-facet power, 2 modulator tap, 3
received OMA. -/
opaque monRangeOk : Nat → Int → Bool

/-! Open values (R16). -/

/-- A fresh undefined byte, one for each draw. -/
opaque freeByte : Nat → Byte
/-- A fresh undefined 32-bit value, one for each draw. -/
opaque freeWord : Nat → Word
/-- A fresh undefined choice, one for each draw. -/
opaque freeBool : Nat → Bool
/-- A draw of the on-die entropy source (R214). -/
opaque entropy : Nat → DWord
/-- What a local-store byte, a cell-store byte or an accumulator element reads as when nothing has written it since the
reset of this epoch (R449 Lost): epoch, unit, address. -/
opaque lostByte : Nat → Nat → Nat → Byte
opaque lostWord : Nat → Nat → Nat → Word
/-- What the module's own controllers read from a line that carries a poison mark or lies in a stack that is down (R221, R223):
physical offset. -/
opaque badByte : Nat → Byte
/-- The base exponent that a ring with an infinity or a NaN gives (R194, R203): ring, head-room exponent, recipe format; the model takes
it modulo 254. -/
opaque ringExp : List Word → Nat → Byte → Nat
/-- The seed of a tensor that a program image's seed table does not hold (R89): image, index. -/
opaque missingSeed : List Byte → Nat → DWord

/-! Private to Trehus (R181, R226, R430): functions the spec does not give. -/

/-- The streams a loaded Prompter firmware expands from an act's segment: image bytes, segment offset, chip; answers
for each core queue (cell, core, queue 0 to 3), each group (cell = 128 + group) and each port group (cell = 144 + port group) the tags in
order. -/
opaque expandSegment : List Byte → Nat → Nat → List (Nat × Nat × Nat × List Word)
/-- Whether the loaded firmware (the running images, by type) accepts the private section and the act segments of an image (R179 cause
0x0A). -/
opaque privateAccepted : List (List Byte) → List Byte → Bool
/-- Whether a segment passes its CRC when it is fetched (R416). -/
opaque segmentCrcOk : List Byte → Nat → Bool
/-- The format bytes that an image carries: those of its tensor-descriptor table and operand fields, the arithmetic formats of its vector
instructions, and the F32-to-F21 conversion fields of its matrix commands (R80, R81, R129). -/
opaque imageFormats : List Byte → List Byte
opaque imageArithmetic : List Byte → List Byte
opaque imageF21 : List Byte → List Byte
/-- The local-store places that an act's tensor descriptors name for scale words: (slot, core index, address) (R188). -/
opaque scaleWords : List Byte → Nat → List (Nat × Nat × Nat)
/-- The local-store places of the per-step scalar blocks: (group, core index, address) (R283). -/
opaque scalarBlocks : List Byte → Nat → List (Nat × Nat × Nat)
/-- The response of a private diagnostic (R430): mailbox, opcode, request. -/
opaque diagnosticResponse : Nat → Nat → List Byte → List Byte
/-- The version response of a Prompter (R430). -/
opaque versionResponse : Nat → List Byte

/-! Signatures and hashes of RFC 8032 and FIPS 180 (R431, R436, R437): named by the spec, not defined in it. -/

opaque sha512 : List Byte → List Byte
/-- Ed25519ph under a Trehus key slot: slot, message, signature. -/
opaque trehusSigOk : Nat → List Byte → List Byte → Bool
/-- A pure Ed25519 signature by the identity key (R437). -/
opaque identitySign : List Byte → List Byte

end Sys2Proof.Config
end

