-- ==== Sys2Proof/Machine/Numbers.lean ====
section
/-! DEFINITION. Number formats and the reference order: exact values, the eight formats (R70 to R72), format bytes (R79, R80),
block and tensor scales (R75 to R78), one rounding per conversion (R83 to R88), special values (R91, R92), the stochastic
bits (R89), and the matrix dot product (R95 to R98). -/

namespace Sys2Proof.Machine

open Sys2Proof

/-- An exact value: a signed fraction (zeros keep their sign), an infinity, or NaN. -/
inductive Num where
  | fin (neg : Bool) (num den : Nat)
  | inf (neg : Bool)
  | nan
  deriving DecidableEq, Repr, Inhabited

namespace Num

def zero : Num := fin false 0 1
def ofNat (n : Nat) : Num := fin false n 1

def isZero : Num → Bool
  | fin _ n _ => n == 0
  | _ => false

def isNan : Num → Bool
  | nan => true
  | _ => false

def isInf : Num → Bool
  | inf _ => true
  | _ => false

def isFin : Num → Bool
  | fin _ _ _ => true
  | _ => false

def negative : Num → Bool
  | fin s _ _ => s
  | inf s => s
  | nan => false

def neg : Num → Num
  | fin s n d => fin (!s) n d
  | inf s => inf (!s)
  | nan => nan

def abs : Num → Num
  | fin _ n d => fin false n d
  | inf _ => inf false
  | nan => nan

/-- Times 2^k, exactly. -/
def scale (x : Num) (k : Int) : Num :=
  match x with
  | fin s n d => if 0 ≤ k then fin s (n * 2 ^ k.toNat) d else fin s n (d * 2 ^ (-k).toNat)
  | y => y

/-- Divide out common factors. -/
def norm : Num → Num
  | fin s n d => let g := Nat.gcd n d; if g ≤ 1 then fin s n d else fin s (n / g) (d / g)
  | y => y

/-- Magnitudes compared: a ≤ b (finite values). -/
def magLe : Num → Num → Bool
  | fin _ n d, fin _ n' d' => decide (n * d' ≤ n' * d)
  | _, inf _ => true
  | _, _ => false

/-- Below, as numbers, with -0 equal to +0 (R91). NaN is below nothing. -/
def lt : Num → Num → Bool
  | nan, _ => false
  | _, nan => false
  | inf s, inf t => s && !t
  | inf s, fin _ _ _ => s
  | fin _ _ _, inf t => !t
  | fin s n d, fin t n' d' =>
    let a := n * d'
    let b := n' * d
    if s then (if t then decide (b < a) else decide (0 < a ∨ 0 < b)) else (if t then false else decide (a < b))

def eq : Num → Num → Bool
  | nan, _ => false
  | _, nan => false
  | inf s, inf t => s == t
  | inf _, fin _ _ _ => false
  | fin _ _ _, inf _ => false
  | fin s n d, fin t n' d' => n * d' == n' * d && (s == t || n == 0)

/-- A product and whether it is invalid (0 × ∞) (R91, R92). -/
def mul : Num → Num → Num × Bool
  | nan, _ => (nan, false)
  | _, nan => (nan, false)
  | inf s, inf t => (inf (s ^^ t), false)
  | inf s, fin t n _ => if n = 0 then (nan, true) else (inf (s ^^ t), false)
  | fin s n _, inf t => if n = 0 then (nan, true) else (inf (s ^^ t), false)
  | fin s n d, fin t n' d' => (fin (s ^^ t) (n * n') (d * d'), false)

/-- A sum and whether it is invalid (+∞ and -∞) (R91, R92). -/
def add : Num → Num → Num × Bool
  | nan, _ => (nan, false)
  | _, nan => (nan, false)
  | inf s, inf t => if s = t then (inf s, false) else (nan, true)
  | inf s, fin _ _ _ => (inf s, false)
  | fin _ _ _, inf t => (inf t, false)
  | fin s n d, fin t n' d' =>
    let a := n * d'
    let b := n' * d
    if s = t then (fin s (a + b) (d * d'), false)
    else if a = b then (fin false 0 1, false)
    else if a < b then (fin t (b - a) (d * d'), false)
    else (fin s (a - b) (d * d'), false)

/-- A quotient, for tensor scales (R77). R77 speaks of scales that are positive, finite and normal; a scale word that is zero gives NaN,
an infinite one zero or NaN, a negative one its signed quotient, a NaN NaN, as IEEE 754 rules go (DESIGN CHOICE, log 66). -/
def div : Num → Num → Num
  | nan, _ => nan
  | _, nan => nan
  | inf s, fin t _ _ => inf (s ^^ t)
  | fin s n d, fin t n' d' => if n' = 0 then nan else fin (s ^^ t) (n * d') (d * n')
  | inf _, inf _ => nan
  | fin s _ _, inf t => fin (s ^^ t) 0 1

end Num

/-! ## Formats -/

/-- Sign-exponent-fraction, bias, and whether the all-ones exponent encodes infinity and NaN (R70 to R72). -/
structure Fmt where
  eb      : Nat
  fb      : Nat
  bias    : Nat
  special : Bool
  deriving DecidableEq, Repr

def Fmt.F32 : Fmt := ⟨8, 23, 127, true⟩
def Fmt.F21 : Fmt := ⟨8, 12, 127, true⟩
def Fmt.H16 : Fmt := ⟨8, 7, 127, true⟩
def Fmt.F16 : Fmt := ⟨5, 10, 15, true⟩
def Fmt.Q8E4 : Fmt := ⟨4, 3, 7, true⟩
def Fmt.Q8E5 : Fmt := ⟨5, 2, 15, true⟩
def Fmt.Q6E3 : Fmt := ⟨3, 2, 3, false⟩
def Fmt.Q4E2 : Fmt := ⟨2, 1, 1, false⟩

def Fmt.width (f : Fmt) : Nat := 1 + f.eb + f.fb

/-- The canonical NaN: quiet bit set, the rest of the fraction as 0x7FC0_0000 converts (R71 to R73). -/
def Fmt.nanCode (f : Fmt) : Nat := (2 ^ f.eb - 1) * 2 ^ f.fb + 2 ^ (f.fb - 1)

def Fmt.infCode (f : Fmt) (neg : Bool) : Nat := boolNat neg * 2 ^ (f.eb + f.fb) + (2 ^ f.eb - 1) * 2 ^ f.fb

/-- The largest finite exponent code. -/
def Fmt.emax (f : Fmt) : Nat := if f.special then 2 ^ f.eb - 2 else 2 ^ f.eb - 1

def Fmt.maxCode (f : Fmt) : Nat := f.emax * 2 ^ f.fb + (2 ^ f.fb - 1)

/-- The value of a code (R71, R72). -/
def Fmt.value (f : Fmt) (q : Nat) : Num :=
  let s := bitAt q (f.eb + f.fb)
  let e := bitsOf q f.fb f.eb
  let m := bitsOf q 0 f.fb
  if f.special ∧ e = 2 ^ f.eb - 1 then (if m = 0 then .inf s else .nan)
  else if e = 0 then (Num.fin s m 1).scale (1 - (f.bias : Int) - f.fb)
  else (Num.fin s (2 ^ f.fb + m) 1).scale ((e : Int) - f.bias - f.fb)

def Fmt.maxFinite (f : Fmt) : Num := f.value f.maxCode

/-- The rounding methods (R82, R84, R88): the stochastic one with its 16-bit random value. -/
inductive RMode where
  | nearest
  | stoch (r : Nat)
  | trunc
  deriving DecidableEq, Repr

/-- floor(log2(n / d)) for n, d > 0. -/
def floorLog2 (n d : Nat) : Int :=
  let k : Int := (Nat.log2 n : Int) - Nat.log2 d
  let below := if 0 ≤ k then decide (n < d * 2 ^ k.toNat) else decide (n * 2 ^ (-k).toNat < d)
  if below then k - 1 else k

/-- A magnitude n / d in units of 2^u, rounded. -/
def roundUnits (m : RMode) (n d : Nat) (u : Int) : Nat :=
  let (a, b) := if 0 ≤ u then (n, d * 2 ^ u.toNat) else (n * 2 ^ (-u).toNat, d)
  let q := a / b
  let r := a % b
  match m with
  | .trunc => q
  | .nearest => if 2 * r > b ∨ (2 * r = b ∧ q % 2 = 1) then q + 1 else q
  | .stoch x => if r * 65536 / b + x ≥ 65536 then q + 1 else q

/-- The code an exact value rounds to, and whether it overflowed (R83 to R88). NaN becomes canonical, infinity stays. -/
def Fmt.round (f : Fmt) (m : RMode) (x : Num) : Nat × Bool :=
  match x with
  | .nan => (f.nanCode, false)
  | .inf s => (f.infCode s, false)
  | .fin s n d =>
    let sb := boolNat s * 2 ^ (f.eb + f.fb)
    if n = 0 then (sb, false)
    else
      let e := max (floorLog2 n d) (1 - (f.bias : Int))
      let q := roundUnits m n d (e - f.fb)
      let (e, q) := if q = 2 ^ (f.fb + 1) then (e + 1, 2 ^ f.fb) else (e, q)
      if q < 2 ^ f.fb then (sb + q, false)
      else
        let c := (e + f.bias).toNat
        if c > f.emax then (if f.special then (f.infCode s, true) else (sb + f.maxCode, true))
        else (sb + c * 2 ^ f.fb + (q - 2 ^ f.fb), false)

/-! ## Format bytes -/

/-- The type of a format byte (R79); F21 and the invalid types have none. -/
def fmtType (b : Byte) : Option Fmt :=
  match b.toNat % 16 with
  | 0 => some .F32
  | 1 => some .H16
  | 2 => some .F16
  | 3 => some .Q8E4
  | 4 => some .Q8E5
  | 5 => some .Q6E3
  | 6 => some .Q4E2
  | _ => none

def fmtScaling (b : Byte) : Nat := bitsOf b.toNat 4 2
def fmtRound (b : Byte) : Nat := bitsOf b.toNat 6 2

/-- The combinations of R80 that a tensor descriptor, table entry or operand field may hold. -/
def fmtValid (b : Byte) : Bool :=
  let s := fmtScaling b
  let r := fmtRound b
  match b.toNat % 16 with
  | 0 => s == 0 && r == 0
  | 1 => s == 0 && r ≤ 1
  | 2 => s == 0 && r ≤ 1
  | 3 => s != 0 && r ≤ 1
  | 4 => s != 0 && r ≤ 1
  | 5 => (s == 1 || s == 2) && r ≤ 1
  | 6 => (s == 1 || s == 2) && r ≤ 1
  | _ => false

/-- The block size of a format byte, 0 when it is not block-scaled. -/
def fmtBlock (b : Byte) : Nat := if fmtScaling b = 1 then 16 else if fmtScaling b = 2 then 32 else 0

def fmtTensorScaled (b : Byte) : Bool := fmtScaling b == 3

/-- The arithmetic format of a vector instruction (R129): TYPE F32, H16 or F16 of a valid byte, whose ROUND does not matter (log 97). -/
def arithmeticOk (b : Byte) : Bool := fmtValid b && decide (b.toNat % 16 ≤ 2)

/-- Bytes of an element plane of `n` elements (R82). -/
def planeBytes (b : Byte) (n : Nat) : Nat :=
  match b.toNat % 16 with
  | 0 => 4 * n
  | 1 => 2 * n
  | 2 => 2 * n
  | 3 => n
  | 4 => n
  | 5 => 3 * ceilDiv n 4
  | 6 => ceilDiv n 2
  | _ => 0

/-- Natural alignment of an element plane: the element width of F32, H16 and F16, one byte for the Q types. -/
def elemBytes (b : Byte) : Nat :=
  match b.toNat % 16 with
  | 0 => 4
  | 1 => 2
  | 2 => 2
  | _ => 1

/-- The code of element `i` of a plane (R82). -/
def elemCode (b : Byte) (rd : Nat → Byte) (i : Nat) : Nat :=
  match b.toNat % 16 with
  | 0 => leNat [rd (4 * i), rd (4 * i + 1), rd (4 * i + 2), rd (4 * i + 3)]
  | 1 => leNat [rd (2 * i), rd (2 * i + 1)]
  | 2 => leNat [rd (2 * i), rd (2 * i + 1)]
  | 5 => let g := i / 4 * 3; bitsOf (leNat [rd g, rd (g + 1), rd (g + 2)]) (6 * (i % 4)) 6
  | 6 => bitsOf (rd (i / 2)).toNat (4 * (i % 2)) 4
  | _ => (rd i).toNat

/-- The value of a block element under its scale byte (R75). -/
def blockValue (f : Fmt) (q e8 : Nat) : Num :=
  if e8 = 0xFF then .nan
  else
    let v := f.value q
    if e8 = 0xFE then (if v.isZero then v else .inf (bitAt q (f.eb + f.fb)))
    else v.scale ((e8 : Int) - 127)

/-- The values of `n` elements (R75, R77): element plane `rd`, scale bytes `sc`, tensor scale `ts`. -/
def readValues (b : Byte) (rd sc : Nat → Byte) (ts : Num) (n : Nat) : List Num :=
  match fmtType b with
  | none => List.replicate n .nan
  | some f =>
    (List.range n).map fun i =>
      let q := elemCode b rd i
      if fmtBlock b ≠ 0 then blockValue f q (sc (i / fmtBlock b)).toNat
      else if fmtTensorScaled b then (f.value q).div ts
      else f.value q

/-! ## Encoding -/

/-- The smallest e with a ≤ L × 2^e, at least -127 (R76). -/
def blockExp (f : Fmt) (a : Num) : Int :=
  match a, f.maxFinite with
  | .fin _ n d, .fin _ ln ld =>
    if n = 0 then -127
    else
      let k := floorLog2 (n * ld) (d * ln)
      let e := if (Num.fin false n d).magLe ((Num.fin false ln ld).scale k) then k else k + 1
      max e (-127)
  | _, _ => -127

/-- What an encode yields: codes, scale bytes of block formats, and the overflowed elements. -/
structure Encoded where
  codes : List Nat
  e8    : List Nat
  ovf   : Nat
  deriving DecidableEq, Repr

def Encoded.append (a b : Encoded) : Encoded := ⟨a.codes ++ b.codes, a.e8 ++ b.e8, a.ovf + b.ovf⟩

/-- A code of the largest finite magnitude, or a zero of its sign (R76 step 2). -/
def saturated (f : Fmt) (x : Num) : Nat :=
  boolNat x.negative * 2 ^ (f.eb + f.fb) + (if x.isZero then 0 else f.maxCode)

/-- One block (R76): `m i` is the rounding method of its element `i`. -/
def encodeBlock (f : Fmt) (m : Nat → RMode) (l : List Num) : Encoded :=
  if l.any Num.isNan then ⟨l.map fun _ => 0, [0xFF], 0⟩
  else if l.any Num.isInf then ⟨l.map (saturated f), [0xFE], 0⟩
  else
    let a := l.foldl (fun a x => if a.magLe x then x.abs else a) Num.zero
    let e := blockExp f a
    if 126 < e then ⟨l.map (saturated f), [0xFE], (l.filter fun x => !x.isZero).length⟩
    else
      ⟨l.zipIdx.map fun p => (f.round (m p.2) (p.1.scale (-e))).1, [(127 + e).toNat], 0⟩

def encodeBlocks (f : Fmt) (size : Nat) (m : Nat → RMode) : Nat → Nat → List Num → Encoded
  | 0, _, _ => ⟨[], [], 0⟩
  | k + 1, i, l =>
    if l.isEmpty then ⟨[], [], 0⟩
    else (encodeBlock f (fun j => m (i + j)) (l.take size)).append (encodeBlocks f size m k (i + size) (l.drop size))

/-- Element by element, with the overflows counted (R78, R87). -/
def encodeEach (f : Fmt) (m : Nat → RMode) (l : List Num) : Encoded :=
  let r := l.zipIdx.map fun p => f.round (m p.2) p.1
  ⟨r.map Prod.fst, [], (r.filter Prod.snd).length⟩

/-- Values into a format byte's format (R76 to R78, R83): `ts` the tensor scale, `m` the rounding of element `i`. -/
def encodeValues (b : Byte) (ts : Num) (m : Nat → RMode) (l : List Num) : Encoded :=
  match fmtType b with
  | none => ⟨l.map fun _ => 0, [], 0⟩
  | some f =>
    if fmtBlock b ≠ 0 then encodeBlocks f (fmtBlock b) m l.length 0 l
    else if fmtTensorScaled b then encodeEach f m (l.map fun x => (x.mul ts).1)
    else encodeEach f m l

/-- The bytes of a plane after element codes are laid over what it held (R82): only the elements' bits change. -/
def packCodes (b : Byte) (rd : Nat → Byte) (l : List Nat) : List Byte :=
  match b.toNat % 16 with
  | 0 => l.flatMap (natLe 4)
  | 1 => l.flatMap (natLe 2)
  | 2 => l.flatMap (natLe 2)
  | 5 =>
    (List.range (ceilDiv l.length 4)).flatMap fun g =>
      let old := leNat [rd (3 * g), rd (3 * g + 1), rd (3 * g + 2)]
      natLe 3 ((List.range 4).foldl
        (fun v j => if 4 * g + j < l.length then withBits v (6 * j) 6 (l.getD (4 * g + j) 0) else v) old)
  | 6 =>
    (List.range (ceilDiv l.length 2)).map fun g =>
      BitVec.ofNat 8 ((List.range 2).foldl
        (fun v j => if 2 * g + j < l.length then withBits v (4 * j) 4 (l.getD (2 * g + j) 0) else v) (rd g).toNat)
  | _ => l.map (BitVec.ofNat 8)

/-! ## Stochastic rounding bits (R89) -/

def mix (x : Nat) : Nat :=
  let x := x % 2 ^ 64
  let x := mul64 (x ^^^ x >>> 30) 0xBF58476D1CE4E5B9
  let x := mul64 (x ^^^ x >>> 27) 0x94D049BB133111EB
  x ^^^ x >>> 31

/-- The random value of element `i`: seed, index, committed-step count, pass. -/
def stochBits (seed i c p : Nat) : Nat :=
  let h := mix (seed ^^^ mul64 i 0x9E3779B97F4A7C15)
  let h := mix (h ^^^ mul64 ((c % 2 ^ 32) * 2 ^ 16 ||| p % 2 ^ 16) 0xD1B54A32D192ED03)
  h >>> 48

/-- The rounding method of a format byte for element `i` (R79, R89). -/
def roundOf (b : Byte) (seed c p i : Nat) : RMode :=
  match fmtRound b with
  | 1 => .stoch (stochBits seed i c p)
  | 2 => .trunc
  | _ => .nearest

/-! ## F32 and H16 arithmetic -/

/-- What one result counts (R93). -/
structure Counts where
  ovf : Nat
  inv : Nat
  deriving DecidableEq, Repr, Inhabited

def Counts.zero : Counts := ⟨0, 0⟩
def Counts.add (a b : Counts) : Counts := ⟨a.ovf + b.ovf, a.inv + b.inv⟩
def Counts.of (ovf inv : Bool) : Counts := ⟨boolNat ovf, boolNat inv⟩

def f32 (w : Word) : Num := Fmt.F32.value w.toNat
def toF32 (x : Num) : Word × Bool :=
  let r := Fmt.F32.round .nearest x
  (BitVec.ofNat 32 r.1, r.2)

def canonNaN : Word := 0x7FC00000

/-- One rounding of an exact result (R91). -/
def finish (f : Fmt) (x : Num × Bool) : Nat × Counts :=
  let r := f.round .nearest x.1
  (r.1, Counts.of r.2 x.2)

def finish32 (x : Num × Bool) : Word × Counts :=
  let r := finish .F32 x
  (BitVec.ofNat 32 r.1, r.2)

def add32 (a b : Word) : Word × Counts := finish32 ((f32 a).add (f32 b))
def mul32 (a b : Word) : Word × Counts := finish32 ((f32 a).mul (f32 b))

/-- a × b + c rounded once (R91). -/
def fmaNum (a b c : Num) : Num × Bool :=
  let p := a.mul b
  if a.isNan ∨ b.isNan ∨ c.isNan then (.nan, false)
  else if p.2 then (.nan, true)
  else p.1.add c

def fma32 (a b c : Word) : Word × Counts := finish32 (fmaNum (f32 a) (f32 b) (f32 c))

/-- Minimum and maximum (R91): NaN wins, -0 is below +0. -/
def minNum (a b : Num) : Num :=
  if a.isNan ∨ b.isNan then .nan
  else if a.isZero ∧ b.isZero then (if a.negative then a else b)
  else if b.lt a then b else a

def maxNum (a b : Num) : Num :=
  if a.isNan ∨ b.isNan then .nan
  else if a.isZero ∧ b.isZero then (if a.negative then b else a)
  else if a.lt b then b else a

/-- The port adders: F32 or H16 codes, one rounding each (R94). -/
def portAdd (f : Fmt) (a b : Nat) : Nat × Counts := finish f ((f.value a).add (f.value b))

/-! ## The matrix unit (R95 to R98) -/

/-- Flush a subnormal F21, H16 or F16 input (R96). -/
def flushIn (f : Fmt) (q : Nat) : Num :=
  if bitsOf q f.fb f.eb = 0 then .fin (bitAt q (f.eb + f.fb)) 0 1 else f.value q

/-- The exact sum of the products of one group, with its invalid mark (R97). -/
def groupSum (l : List (Num × Num)) : Num × Bool :=
  if l.any fun p => p.1.isNan || p.2.isNan then (.nan, false)
  else
    let ps := l.map fun p => p.1.mul p.2
    if ps.any Prod.snd then (.nan, true)
    else
      let pos := ps.any fun p => p.1 == .inf false
      let ng := ps.any fun p => p.1 == .inf true
      if pos && ng then (.nan, true)
      else if pos then (.inf false, false)
      else if ng then (.inf true, false)
      else
        match ps with
        | [] => (.zero, false)
        | p :: r => r.foldl (fun a q => ((a.1.add q.1).1.norm, false)) p

/-- Groups of 16 added into the accumulator in increasing k, one rounding per addition (R95). -/
def dotGroups : Nat → Word → Counts → List (Num × Num) → Word × Counts
  | 0, acc, c, _ => (acc, c)
  | g + 1, acc, c, l =>
    let t := finish32 (groupSum (l.take 16))
    let r := add32 acc t.1
    dotGroups g r.1 ((c.add t.2).add r.2) (l.drop 16)

/-! ## Division and square root (R278): correctly rounded F32 -/

/-- A quotient with its invalid mark (R73, R102): 0 / 0 and infinity / infinity are NaN and invalid; a number by zero is infinite. -/
def divNum (x y : Num) : Num × Bool :=
  if x.isNan ∨ y.isNan then (.nan, false)
  else if (x.isInf ∧ y.isInf) ∨ (x.isZero ∧ y.isZero) then (.nan, true)
  else match y with
    | .fin t n _ => if n = 0 then (.inf (x.negative ^^ t), false) else (x.div y, false)
    | _ => (x.div y, false)

def div32 (a b : Word) : Word × Counts := finish32 (divNum (f32 a) (f32 b))

/-- The integer part of a square root, found bit by bit from bit `k` down. -/
def isqrtFrom (x : Nat) : Nat → Nat → Nat
  | 0, r => if (r + 1) * (r + 1) ≤ x then r + 1 else r
  | k + 1, r =>
    let t := r + 2 ^ (k + 1)
    isqrtFrom x k (if t * t ≤ x then t else r)

/-- The square root: enough bits that one rounding decides, with a last half bit where it is not exact. -/
def sqrtNum : Num → Num
  | .fin s n d =>
    if n = 0 then .fin s 0 1
    else
      -- √(n/d) = √(n·d)/d; scaled so that the root has more than 60 bits
      let x := n * d * 2 ^ 240
      let r := isqrtFrom x ((Nat.log2 x + 1) / 2) 0
      .fin false (2 * r + (if r * r = x then 0 else 1)) (d * 2 ^ 121)
  | .inf _ => .inf false
  | .nan => .nan

/-- The root of a negative number is NaN and invalid (R102). -/
def sqrt32 (a : Word) : Word × Counts :=
  let x := f32 a
  finish32 (if x.negative ∧ !x.isZero ∧ !x.isNan then (.nan, true) else (sqrtNum x, false))

end Sys2Proof.Machine
end

