-- ==== Sys2Proof/Machine/State.lean ====
section
/-! DEFINITION. The state of one BT7 module (R1): register words, stores, queues, tables in force, the three planes' blocks
(R31), and the queue of waiting commands. Plain data. INVENTORY.md names the rule of each field. -/

namespace Sys2Proof.Machine

open Sys2Proof

/-! ## What the module sends -/

/-- What the module puts on its links and pins (the MODEL's own record of outputs, oldest first). -/
inductive Out where
  /-- A flit on a port (R335). -/
  | flit (port : Nat) (f : Flit)
  /-- The ACK and NAK fields of the next frame on a port (R331, R334). -/
  | ack (port : Nat) (ack : Nat) (nak : Bool)
  /-- Frames sent again from a number on (R340). -/
  | resend (port : Nat) (firstFrame : Nat) (count : Nat)
  /-- The lane markers of a frame on every lane in use, by logical lane, where they announce a switch (R332). -/
  | markers (port : Nat) (frame : Nat) (words : List Nat)
  /-- Training frames on a physical lane, marked LOGICAL 0xF (R361). -/
  | trainLane (port : Nat) (lane : Nat)
  /-- A logical lane copied onto a physical lane, marked LOGICAL 0xE (R361). -/
  | mirrorLane (port : Nat) (logical lane : Nat)
  /-- The laser of a retired lane goes idle (R361). -/
  | laneIdle (port lane : Nat)
  /-- The lasers of a port on or idle (R353, R357, R391). -/
  | lasers (port : Nat) (on : Bool)
  /-- The report of a credit reinitialisation: free slots per pool, last good frame (R346). -/
  | reinitReport (port : Nat) (free : List Nat) (lastGood : Nat)
  /-- Bytes written to host memory (event ring, Tier 3, DMA), with the CXL poison indication (R399, R412, R414). -/
  | hostWrite (addr : Nat) (data : List Byte) (poison : Bool)
  /-- A RdCurr of host memory (R399) for a Tier 3 request. -/
  | hostRead (id addr len : Nat)
  /-- A read of a channel's descriptor ring in host memory (R414). -/
  | descRead (ch : Nat) (addr : Nat)
  /-- A DMA read of host memory (R414). -/
  | dmaRead (ch : Nat) (addr len : Nat)
  /-- A snapshot source copied to the Tier 3 window: destination, the listed bytes of the source, its length (R234). -/
  | snapCopy (dst : Nat) (data : List (Nat × Byte)) (len : Nat) (poison : List Nat)
  /-- An MSI-X message (R413). -/
  | msix (vec : Nat)
  /-- RspIHitI (R399). -/
  | snoopResp (addr : Nat)
  /-- BISnpInv (R402). -/
  | biSnp (line : Nat)
  /-- The answer of a CXL.mem access (R401). -/
  | cxlMem (addr : Nat) (data : List Byte) (poison : Bool)
  /-- A register read's data on the path that asked (R404). -/
  | readData (path : Path) (v : Word)
  /-- A Callboard frame sent or forwarded (R418, R420), as its symbols on the pair (R417). -/
  | callboard (f : CbFrame)
  /-- The register selected between TDI and TDO (R438): IDCODE's value, the boundary register, or bypass. -/
  | testPort (j : JtagInstr) (v : Word)
  /-- The input switch (R479, R484). -/
  | inputSwitch (closed : Bool)
  deriving DecidableEq, Repr, Inhabited

/-! ## Control plane -/

/-- What the flood of one cue carries (R45, R47, R52, R62). -/
structure Flood where
  busy   : Bool
  held   : Bool
  accept : Bool
  digOr  : BitVec 16
  digAnd : BitVec 16
  deriving DecidableEq, Repr, Inhabited

/-- Where an alignment stands (R40). -/
inductive AlignPhase where
  | idle | probing | seedWindow | waiting | done
  deriving DecidableEq, Repr, Inhabited

structure CueSt where
  counterSet   : Bool
  hasParent    : Bool
  phase        : AlignPhase
  began        : DWord
  measured     : List Nat
  seedEdge     : Option DWord
  windowEnd    : Option DWord
  inBand       : Nat
  outBand      : Nat
  boundaryTime : DWord
  flood        : Flood
  prev         : Flood
  deriving DecidableEq, Repr, Inhabited

/-- An act descriptor (R48). -/
structure ActDesc where
  act        : Nat
  type       : Nat
  phase      : Nat
  overlap    : Bool
  program    : Nat
  start      : Nat
  deadline   : Nat
  rows       : Nat
  portGroups : Nat
  groups     : Nat
  every      : Nat
  segment    : Nat
  deriving DecidableEq, Repr, Inhabited

/-- A loaded program (R178, R416): its offset and length in module memory, the header fields that are used after the load,
its act table and seed table, and its tensor table's format bytes. -/
structure Program where
  num      : Nat
  off      : Nat
  len      : Nat
  stepCues : Nat
  minClock : Nat
  image    : List Byte
  acts     : List ActDesc
  seeds    : List DWord
  deriving DecidableEq, Repr, Inhabited

/-- An act that waits for its start: its descriptor and its step's base (R52). -/
structure DueAct where
  desc : ActDesc
  base : Nat
  deriving DecidableEq, Repr, Inhabited

/-- An active act (R50, R53). `once` lists what was raised once for it (cell and event code); `frozen` and `strict` the parameter
groups that were so when it started (R301). -/
structure ActiveAct where
  desc     : ActDesc
  start    : Nat
  deadline : Nat
  overran  : Bool
  busy     : Bool
  once     : List (Nat × Nat)
  minClock : Nat
  frozen   : List Nat
  strict   : List Nat
  deriving DecidableEq, Repr, Inhabited

/-- The running job (R52, R58, R454, R496): `base` of the step in progress, the acts that wait for their starts, whether the hold
limit has been passed in this step, S at the previous outcome boundary, the first boundary that may be the outcome boundary,
whether no act of the step has started yet. -/
structure JobSt where
  program   : Nat
  base      : Nat
  due       : List DueAct
  fresh     : Bool
  skipping  : Bool
  shiftMark : Nat
  outcomeAt : Option Nat
  ending    : Bool
  deriving DecidableEq, Repr, Inhabited

/-! ## Engines -/

/-- The spaces a window lies in (R168, R495); `priv` is a private tile on its way to the finished-tile queue (R124), `tier` the memory
tiers by physical offset. -/
inductive Space where
  | ls | acc | cs | ftq | priv | tier
  deriving DecidableEq, Repr, Inhabited

structure Region where
  space : Space
  unit  : Nat
  lo    : Nat
  len   : Nat
  deriving DecidableEq, Repr, Inhabited

/-- Whose flagged command a window belongs to: a cell mover's by its number, or a communication queue's by its group. -/
inductive Owner where
  | mover (id : Nat)
  | comm (g : Nat)
  deriving DecidableEq, Repr, Inhabited

/-- The windows of one command in force (R116, R139, R168, R495): what it reads and when, what it writes and when. A
flagged command's windows last until its flag has been incremented and seen: `op` says whose it is, `spoiled` marks one under way
whose data another engine has touched, `value` is its flag after its increment, `seen` lists the readers (core cell × 32 + core;
4,096 + group) whose wait has seen that increment. -/
structure Win where
  tag     : Word
  op      : Option Owner
  eng     : Nat
  cell    : Nat
  core    : Nat
  queue   : Nat
  issue   : Nat
  reads   : List Region
  rdUntil : Nat
  writes  : List Region
  wrFrom  : Nat
  visible : Nat
  flagged : Option FlagRef
  landed  : Bool
  spoiled : Bool
  results : List Region
  value   : Half
  seen    : List Nat
  deriving DecidableEq, Repr, Inhabited

/-- An engine queue (R151 to R157): the tags still to come, the tags held with the cycle each arrived, the base cycle, the
first cycle at which the engine is free, the cycle at which its last command completes, the cycles of the openings not
yet consumed. -/
structure EngQ where
  stream   : List Word
  held     : List (Word × Nat)
  base     : Nat
  free     : Nat
  lastDone : Nat
  gates    : List Nat
  issued   : Nat
  deriving DecidableEq, Repr, Inhabited

/-- The four states of a finished-tile-queue entry (R142); a free entry is not listed. -/
inductive EntryState where
  | pushed | claimed | released
  deriving DecidableEq, Repr, Inhabited

structure FtqEntry where
  state  : EntryState
  seq    : Nat
  tag    : Word
  h16    : Bool
  bits   : List Word
  freeAt : Option Nat
  dest   : Option ReleaseTo
  deriving DecidableEq, Repr, Inhabited

/-- A private tile of the matrix unit whose push is still to come (R124): the cycle of its push, its first write cycle, and what its
MMA counts when it completes (R148). -/
structure PrivTile where
  tag   : Word
  ready : Nat
  first : Nat
  act   : Nat
  bits  : List Word
  ovf   : Nat
  inv   : Nat
  deriving DecidableEq, Repr, Inhabited

/-- A WAIT in progress (R162, R163): expiry boundary is an absolute cue. -/
structure WaitSt where
  tag     : Word
  flag    : FlagRef
  target  : Half
  expires : Nat
  issued  : Nat
  gMat    : Bool
  gVec    : Bool
  gMov    : Bool
  deriving DecidableEq, Repr, Inhabited

/-- Who changes a flag (R160, R161). -/
inductive FlagBy where
  | sync | mover | link | push
  deriving DecidableEq, Repr, Inhabited

/-- One change of a flag: a write or an increment, the act cycle at which it was made, by whom, from which cell and core. -/
structure FlagChange where
  write  : Option Half
  add    : Nat
  cycle  : Nat
  cell   : Nat
  core   : Nat
  source : FlagBy
  tag    : Word
  deriving DecidableEq, Repr, Inhabited

/-- A flag (R159): its changes since the act started, oldest first; its value and last writer follow from them. -/
structure FlagSt where
  changes : List FlagChange
  deriving DecidableEq, Repr, Inhabited

structure CoreSt where
  ls        : AMap Byte
  acc       : AMap Word
  mat       : EngQ
  vec       : EngQ
  mov       : EngQ
  syn       : EngQ
  ftq       : List FtqEntry
  pushes    : Nat
  lastPush  : Nat
  priv      : List PrivTile
  wait      : Option WaitSt
  discarded : Bool
  lastMma   : Option Nat
  deriving DecidableEq, Repr, Inhabited

/-- A slot's record in one cell (R190): amax is an exact magnitude. -/
structure SlotRec where
  amax : Num
  seen : Bool
  inf  : Bool
  nan  : Bool
  ovf  : Bool
  deriving DecidableEq, Repr, Inhabited

/-- Counts of an instruction that is still to complete (R148): core, queue, completion cycle, overflows, invalids. -/
structure CountDue where
  core  : Nat
  queue : Nat
  done  : Nat
  ovf   : Nat
  inv   : Nat
  deriving DecidableEq, Repr, Inhabited

structure CellSt where
  store   : AMap Byte
  flags   : AMap FlagSt
  wins    : List Win
  records : AMap SlotRec
  owed    : List CountDue
  cycle   : Nat
  deriving DecidableEq, Repr, Inhabited

/-- Requesters of tier accesses (R221, R463). -/
inductive Requester where
  | cellMover | linkComplex | remote | host | snapshot | region | scrub
  deriving DecidableEq, Repr, Inhabited

/-- What a flagged command of the cell mover or a point-to-point RELEASE is doing (R119, R145, R227, R246, R288). A tier access
names its pieces as (offset, cell-store address, bytes); a Tier 3 read the cell-store bytes it lands in; a remote access its offset; a
RELEASE its offset too and, to the module itself, the entry's bytes. -/
inductive MoverKind where
  | tierRead (pieces : List (Nat × Nat × Nat)) (ecc : EccErrs)
  | tierWrite (pieces : List (Nat × Nat × Nat))
  | cellCopy (src cell dst len : Nat)
  | tier3 (lands : Option (Nat × Nat))
  | remoteRead (off cs len : Nat)
  | remoteWrite (off : Nat)
  | release (entrySeq off : Nat) (here : Option (List Byte))
  | releaseTier3 (entrySeq : Nat)
  | pageWrite (region page count cs : Nat)
  | pageRead (region page count cs : Nat) (ecc : EccErrs)
  | regionReset (region : Nat)
  | nothing
  deriving DecidableEq, Repr, Inhabited

/-- A flagged command under way (R120, R158), known by `id` (REQ_ID of its flits modulo 2^16). `landed`: what it waits for from
outside has come. `clash`: pages of a PAGE WRITE that a REGION RESET overlaps (R229). -/
structure MoverOp where
  id     : Nat
  cell   : Nat
  core   : Nat
  tag    : Word
  flag   : FlagRef
  issue  : Nat
  kind   : MoverKind
  landed : Bool
  clash  : List Nat
  deriving DecidableEq, Repr, Inhabited

/-! ## Collectives -/

/-- A flit that waits to leave: the port and pool whose slot it still holds (R343), whether it carries a contribution of this member
to the collective under way, and how many bytes of it FLAG_PROGRESS counts (R256). -/
structure TxFlit where
  flit   : Flit
  origin : Option (Nat × Nat)
  own    : Bool
  share  : Nat
  deriving DecidableEq, Repr, Inhabited

/-- The command under way in a communication queue (R254). -/
inductive CommKind where
  | reduceScatter (f : ReduceFields)
  | allReduce (f : ReduceFields)
  | allGather (f : GatherFields)
  | allToAll (f : A2aFields)
  | permute (f : PermuteFields)
  | wait (w : WaitSt)
  deriving DecidableEq, Repr, Inhabited

/-- An element as a collective carries it: its code (a narrow one with its E8 above), and its poison mark. -/
structure CElem where
  w  : Word
  po : Bool
  deriving DecidableEq, Repr, Inhabited

/-- Where a communication command stands. -/
inductive CommPhase where
  | reading | reducing | finishing | gathering | exchanging | landed
  deriving DecidableEq, Repr, Inhabited

/-- The command under way in a communication queue (R254 to R268): stage by stage, its input elements as they become present, the
output so far, the start pieces sent, the pieces folded (of a PERMUTE, (offset, bytes) landed here). `made` lists what has been done
once and for all: the blocks of 32 that a NET update has made, or the ranks whose ALL-TO-ALL block has landed; `nonfinite` says that
the update has raised its event (R280, R286). `blocks` holds ALL-TO-ALL bytes by source rank and place in the block, with their
poison mark. `finished`: this member has finished the PERMUTE's round (R267). -/
structure CommRun where
  kind      : CommKind
  tag       : Word
  phase     : CommPhase
  stage     : Nat
  input     : List (Option CElem)
  out       : AMap CElem
  sent      : List (Nat × Nat)
  folded    : List (Nat × Nat)
  upd       : Option (Nat × Nat)
  made      : List Nat
  nonfinite : Bool
  sentBytes : Nat
  progress  : Nat
  arrived   : List Nat
  blocks    : AMap (AMap (List Byte × Bool))
  round     : Nat
  roundGot  : Nat
  finished  : Bool
  deriving DecidableEq, Repr, Inhabited

/-- A communication queue and its group's reserve (R151, R255, R269): chunk slots, flits that wait with the port they came in on,
flits with no credit to leave on in their direction, the finished bits of PERMUTE rounds that have come: (round, rank), and the rows
dropped in the act (R264). -/
structure GroupSt where
  stream    : List Word
  held      : List Word
  run       : Option CommRun
  slots     : AMap (List Word)
  early     : List (Nat × Flit)
  blocked   : List (Nat × TxFlit)
  rotate    : AMap Nat
  doneBits  : List (Nat × Nat)
  pendingLayout : Nat
  drops     : Nat
  abandoned : Bool
  issued    : Nat
  deriving DecidableEq, Repr, Inhabited

/-! ## Scales and update -/

structure Recipe where
  kind     : Nat
  fmt      : Byte
  initExp  : Int
  headroom : Nat
  backoff  : Nat
  deriving DecidableEq, Repr, Inhabited

structure Slot where
  recipe    : Nat
  valid     : Bool
  fill      : Nat
  head      : Nat
  scaleExp  : Int
  ceilExp   : Int
  ceilLeft  : Nat
  lastAmax  : Word
  lastSeen  : Bool
  lastOvf   : Bool
  lastInf   : Bool
  lastNan   : Bool
  lowerings : Nat
  ring      : List Word
  deriving DecidableEq, Repr, Inhabited

/-- The tables in force, the step records collected and the defaults h and f as they stood when the Curtain act started (R192, R193),
whether preparation runs or has ended, and write-backs still to be made (R202). -/
structure ScaleSt where
  slots   : List Slot
  recipes : List Recipe
  step    : AMap SlotRec
  headroom : Nat
  backoff : Nat
  preparing : Bool
  ready   : Bool
  wb      : Bool
  deriving DecidableEq, Repr, Inhabited

/-- A group-table entry (R299). -/
structure UGroup where
  valid      : Bool
  frozen     : Bool
  strict     : Bool
  net        : Bool
  grain      : Bool
  workEn     : Bool
  mround     : Nat
  rule       : Nat
  fallback   : Nat
  workFmt    : Byte
  shardFirst : Nat
  shardLen   : Nat
  master     : Nat
  mom1       : Nat
  mom2       : Nat
  work       : Nat
  gradMul    : Word
  eps        : Word
  damp       : Word
  tol        : Word
  iterLimit  : Nat
  rootEvery  : Nat
  rootP      : Nat
  seed       : DWord
  birth      : Nat
  layers     : Nat
  layerTable : Nat
  curveLr    : Nat × Nat
  curveWd    : Nat × Nat
  curveB1    : Nat × Nat
  curveB2    : Nat × Nat
  deriving DecidableEq, Repr, Inhabited

/-- A layer-table entry (R300). -/
structure ULayer where
  rows  : Nat
  cols  : Nat
  first : Nat
  state : Nat
  deriving DecidableEq, Repr, Inhabited

/-- A group's per-step scalars (R283), F32. -/
structure Scalars where
  lr      : Word
  wd      : Word
  b1      : Word
  b2      : Word
  c1      : Word
  c2      : Word
  a1      : Word
  a2      : Word
  gradMul : Word
  eps     : Word
  damp    : Word
  tol     : Word
  rootDue : Bool
  first   : Bool
  deriving DecidableEq, Repr, Inhabited

structure UpdSt where
  groups  : List UGroup
  layers  : List (List ULayer)
  curves  : List (Nat × Word)
  scalars : List Scalars
  frozenRaised : List Nat
  deriving DecidableEq, Repr, Inhabited

/-! ## Memory -/

/-- A versioned range in force (R304, R305): `sel` names the committed copy. -/
structure VRange where
  base : Nat
  alt  : Nat
  len  : Nat
  sel  : Bool
  deriving DecidableEq, Repr, Inhabited

/-- A page of a compressed region as its map holds it (R226, R228, R231): as it reads back, with the elements of a narrowed one that
overflow when they are widened (R87). -/
structure RegionPage where
  lost   : Bool
  poison : Bool
  bytes  : List Byte
  ovf    : Nat
  deriving DecidableEq, Repr, Inhabited

/-- A compressed region in force (R224 to R231): `base` the allotment's offset, `drawn` lines drawn per stack, `loose` between a
REGION RESET and the next PAGE WRITE (R230), `undef` when a write by offset has left its pages undefined (R226). -/
structure MRegion where
  index  : Nat
  tier2  : Bool
  narrow : Bool
  elem   : Nat
  pages  : Nat
  base   : Nat
  size   : Nat
  map    : AMap RegionPage
  drawn  : AMap Nat
  fullRaised : Bool
  loose  : Bool
  undef  : Bool
  deriving DecidableEq, Repr, Inhabited

structure SnapEntry where
  src : Nat
  len : Nat
  dst : Nat
  deriving DecidableEq, Repr, Inhabited

/-- Where a write or another access waits (R215, R306, R309, R402): what it waits for is found again at each retry. `since`: from
when on a resync has held it, where one does. -/
inductive Waiting where
  | write (off : Nat) (data : List Byte) (poison : List Nat) (since : Option DWord)
  | mover (id : Nat) (since : Option DWord)
  | remote (r : RemoteReq) (since : Option DWord)
  | cxl (a : CxlMemAccess) (since : Option DWord)
  | hostRead (f : Flit)
  deriving DecidableEq, Repr, Inhabited

/-- Tiers 1 and 2: their bytes; the lines that carry a poison mark, and the symbols in error of those that hold some (R219), by
physical line; versioned ranges, marked pages, pages to be resynced or settled; fills under way; what waits; regions; snapshot;
corrections per DRAM row and spare rows left (R220); hot-channel windows (R217); ranges (offset, bytes) that a PERMUTE and that updates
have written in this step (R268); physical ranges (offset, bytes) that pages of a compressed region have overwritten (R230); the
version table as it stood when the snapshot started (R321); windows of commands in the tiers (R168, R495). -/
structure MemSt where
  bytes   : List Host.Cell
  poison  : List Nat
  errs    : AMap Nat
  ranges  : List VRange
  marks   : List Nat
  resync  : List Nat
  settle  : List Nat
  rekey1  : Bool
  rekey2  : Bool
  waiting : List Waiting
  regions : List MRegion
  snap    : List SnapEntry
  onCommit : Bool
  snapAt  : Option DWord
  rows    : AMap Nat
  spares  : AMap Nat
  hotUp   : List Nat
  hotDown : List Nat
  permuted : List (Nat × Nat)
  updated  : List (Nat × Nat)
  stale    : List (Nat × Nat)
  snapFrom : List VRange
  wins     : List Win
  deriving DecidableEq, Repr, Inhabited

/-- A remote access that this module serves from its Tier 3 window (R246): what has come of it, and which lines are poisoned. -/
structure ServeOp where
  id     : Nat
  chip   : Nat
  reqId  : Nat
  off    : Nat
  write  : Bool
  data   : AMap (List Byte)
  poison : List Nat
  deriving DecidableEq, Repr, Inhabited

/-- A Tier 3 request under way (R399): one line, the command it belongs to, and where it lands. -/
structure T3Req where
  id    : Nat
  op    : Nat
  cell  : Nat
  write : Bool
  cs    : Nat
  off   : Nat
  deriving DecidableEq, Repr, Inhabited

/-! ## Commit -/

/-- The verdict and the Curtain exchange (R311 to R316): causes of this step and the next, whether this module has contributed, the
AND and OR results, the torus directions that had trained ports at contribution and those whose peer's Curtain word and confirm
word have come, the AND of the confirm words, what was decided at D and at D2. -/
structure CommitSt where
  causes      : BitVec 11
  next        : BitVec 11
  contributed : Bool
  andF        : Word
  orF         : Word
  peerDirs    : List Nat
  seenDirs    : List Nat
  confDirs    : List Nat
  confAll     : Bool
  confAny     : Bool
  decided     : Option Bool
  outcome     : Option Bool
  deriving DecidableEq, Repr, Inhabited

/-! ## Links -/

/-- A receive or transmit lane's state (R371). -/
inductive LaneState where
  | active | ready | training | retired | failed
  deriving DecidableEq, Repr, Inhabited

/-- Where a swap or a narrowing stands (R361, R363): understudy training, mirrored, verified (the switch not yet announced), switch
announced or awaited; and the same for a narrowing. -/
inductive SwapPhase where
  | none | training | mirroring | verified | switching | narrowing
  deriving DecidableEq, Repr, Inhabited

/-- One direction of a port (R326, R333, R354, R361, R363): lane states, physical lane of each logical lane in use, whether in 7-lane
mode, the swap or narrowing under way, its logical lane, whether this end met the trigger, the switch frame announced, and
the physical lanes to narrow after it. -/
structure DirSt where
  lanes    : List LaneState
  map      : List Nat
  narrow   : Bool
  swap     : SwapPhase
  target   : Nat
  own      : Bool
  switchAt : Option Nat
  later    : List Nat
  deriving DecidableEq, Repr, Inhabited

/-- One credit pool of a port, both roles (R342 to R345). Flits still held when the counts last restarted: `old` return no credit (a
retrain), `kept` return theirs (R346), as the peer counts them in `lent`. `ahead` have been counted with their frame, before their rows arrive. -/
structure Pool where
  slots    : Nat
  avail    : Nat
  sent     : Nat
  credIn   : Nat
  held     : Nat
  freed    : Nat
  received : Nat
  credOut  : Nat
  old      : Nat
  lent     : Nat
  kept     : Nat
  ahead    : Nat
  deriving DecidableEq, Repr, Inhabited

/-- What a port keeps of one of its lanes: the last 16 valid readings of each kind, the peer's readings as they last came, the peer's
readings and its beginning-of-life bias at training (R358, R359); own back-facet power at training; how often in a row each condition
of R360 has held; how often in a row its marker has failed CRC and its codewords have failed (R364). -/
structure LaneMon where
  bias    : List Int
  bf      : List Int
  mod     : List Int
  oma     : List Int
  peer    : TxReading
  train   : TxReading
  peerBol : Nat
  bfTrain : Int
  berRun  : Nat
  omaRun  : Nat
  biasRun : Nat
  markRun : Nat
  codeRun : Nat
  deriving DecidableEq, Repr, Inhabited

/-- A port (R340 to R347, R353 to R366). `turn`, `left` and `lastGroup` are the round robin's (R249): the VC it serves, the flits left of
its quantum, the group each VC served last. `ledgerDue`: the ledger of the last boundary has not been sent. `owesOp5`: OP 5 waits for
room in the retry buffer. `secRx` and `secTx` count the 1 ms readings of the one-second window (R360). -/
structure PortSt where
  code       : Nat
  phase      : Nat
  rx         : DirSt
  tx         : DirSt
  nextRx     : Nat
  nextTx     : Nat
  acked      : Nat
  nakSent    : Bool
  retry      : List (Nat × TxFlit)
  txq        : List TxFlit
  turn       : Nat
  left       : Nat
  lastGroup  : AMap Nat
  ledgerDue  : Bool
  owesOp5    : Bool
  pools      : List Pool
  history    : List (Nat × List Nat)
  reinit     : Bool
  quiesce    : Bool
  marked     : List CtlWord
  relane     : List (Dir × Nat × Bool)
  rxBefore   : List Nat
  mons       : List LaneMon
  secRx      : Nat
  secTx      : Nat
  stale      : Bool
  probes     : Nat
  probeSum   : Nat
  probeSent  : List DWord
  probeTold  : DWord
  lastProbe  : DWord
  finals     : Nat
  measured   : Bool
  nbrHops    : Nat
  nbrTime    : Option DWord
  nbrCue     : Nat
  markerCue  : Option Nat
  fresh      : Bool
  hashSet    : Bool
  deriving DecidableEq, Repr, Inhabited

/-! ## Power, host, management -/

/-- The power controller (R374, R375, R381 to R392): the phase of the ramp lead, whether it runs, the act (number, base) that it leads
to, and whether a hold has put that act off; limits 1, 3, 4 and 5 in MHz; the clock that a protective hold keeps; the voltages of the
four domains in units of 0.5 mV (R376, R378); the stacks in self-refresh (R391); the deadline boundary of an Intermission act that has
completed, the offsets planned for it, the end of the test patterns and the power that they take at 2,100 MHz (R380); the ramp line
in W; whether edges are withheld for power; the last 101 samples of each sensor, newest first; excluded sensors; samples at 105 °C in a row; whether edges are
stretched; a re-plan asked for, AGEING DEFERRED raised, and the count at the last plan; INLET HIGH and THERMAL THROTTLE raised. -/
structure PwrSt where
  phase      : Nat
  lead       : Bool
  leadAct    : Nat × Nat
  leadStay   : Bool
  volts      : List Nat
  refresh    : Bool
  gap        : Option Nat
  planned    : Option (List Nat)
  testEnd    : Option DWord
  testLoad   : Nat
  capLimit   : Nat
  throttle   : Nat
  holdLimit  : Option Nat
  holdClock  : Option Nat
  cooling    : Option Nat
  recovering : Bool
  line       : Nat
  limiting   : Bool
  capCut     : Bool
  badCals    : Nat
  history    : List (List Nat)
  excluded   : List Nat
  trips      : Nat
  droop      : Bool
  replanAsk  : Bool
  deferred   : Bool
  planAt     : DWord
  inletHigh  : Bool
  throttleOnce : Bool
  deriving DecidableEq, Repr, Inhabited

/-- An event record (R411). -/
structure EventRec where
  code   : Nat
  page   : Nat
  forced : Bool
  time   : DWord
  tag    : Word
  tag2   : Word
  cell   : Nat
  core   : Nat
  queue  : Nat
  group  : Nat
  port   : Nat
  detail : Word
  deriving DecidableEq, Repr, Inhabited

/-- A fault record (R472). -/
structure FaultRec where
  event    : EventRec
  seq      : Nat
  act      : Nat
  step     : DWord
  startCue : Nat
  addr     : Option Nat
  verdict  : BitVec 11
  deriving DecidableEq, Repr, Inhabited

/-- An event raised by the command under way, with the fault record it leaves (R459, R472). The records of one command have
equal TIME and are written in order of page, then code (R478). -/
structure Raised where
  event : EventRec
  fault : Option FaultRec
  deriving DecidableEq, Repr, Inhabited

/-- A DMA descriptor under way (R414); `bad`: the cause for which it stops its channel when its turn comes (R415). -/
structure DmaRun where
  hostAddr : Nat
  modOff   : Nat
  len      : Nat
  toHost   : Bool
  irq      : Bool
  fence    : Bool
  remote   : Option Nat
  index    : Nat
  started  : Bool
  bad      : Option Nat
  deriving DecidableEq, Repr, Inhabited

/-- What the host interface holds: records that wait for the ring and how many were lost (R412); vectors in hold-off or owed (R413); the
descriptors under way of each channel (R414); lines the host may hold, and those being back-invalidated (R402); the image being
checked (R416); the time of the oldest unsent event; words of configuration space, BAR2 and BAR4 (R403). -/
structure HostSt where
  buffer   : List EventRec
  lost     : Nat
  holdoff  : List Nat
  owed     : List Nat
  dma      : List (List DmaRun)
  snoop    : List Nat
  biWait   : List Nat
  loading  : Option Nat
  evSince  : Nat
  config   : AMap Word
  bar2     : AMap Word
  bar4     : AMap Word
  deriving DecidableEq, Repr, Inhabited

/-- The module's own Callboard frames that wait (R420), and the number of its next event frame. -/
structure CbSt where
  own    : List CbFrame
  seq    : Nat
  deriving DecidableEq, Repr, Inhabited

/-- A mailbox request under way (R425, R429, R430): its result and response as they will stand when it is done, the sender of
its MBOX_REQ, the chip that sent it as a mirror, the chip whose answer a REMOTE_MGMT still waits for, and the staging that its
completion makes (type, offset, length). -/
structure MboxSt where
  opcode : Nat
  req    : List Byte
  result : Nat
  resp   : List Byte
  cbSrc  : Nat
  cbSeq  : Byte
  via    : Option Nat
  awaits : Option Nat
  stage  : Option (Nat × Nat × Nat)
  deriving DecidableEq, Repr, Inhabited

/-- Firmware and fuses (R431 to R435, R440, R451), by type: the images in slots A and B, `none` where a reset has cut a staging
short; images taken into SRAM and the block bytes of the one under way; the running images; what has been burned. -/
structure FwSt where
  slotA   : List (Option (List Byte))
  slotB   : List (Option (List Byte))
  sram    : List (Option (List Byte))
  stage   : List Byte
  running : List (List Byte)
  burnedSvn : List Nat
  burnedKeys : Nat
  deriving DecidableEq, Repr, Inhabited

/-- The input and the start-up sequence (R391, R442, R447, R479): the count at which the input last came into its range, at which
the step began and step 0 ended, whether cause 0x08 has been raised, how often the stores have been lost, the level that
the sequence runs for (0: from power). -/
structure StartSt where
  powered   : Bool
  rangeSince : DWord
  trip      : Bool
  stepBegan : DWord
  step0End  : DWord
  chipRaised : Bool
  lostData  : Nat
  resetLevel : Nat
  pres      : Bool
  switch    : Bool
  deriving DecidableEq, Repr, Inhabited

/-- The tables a sheet's reloads took from memory at its check (R497). -/
structure Taken where
  slots   : Option (List Slot × List Recipe)
  upd     : Option (List UGroup × List (List ULayer) × List (Nat × Word))
  regions : Option (List MRegion)
  ranges  : Option (List VRange)
  map     : Option (List (Nat × Nat × Nat × Nat))
  restore : Option (DWord × List Nat)
  deriving DecidableEq, Repr, Inhabited

structure SheetSt where
  armed     : Bool
  checked   : Bool
  passed    : Bool
  dropped   : Option Nat
  taken     : Taken
  deriving DecidableEq, Repr, Inhabited

/-- The machine map in force: (chip, x, y, z) of each valid entry (R242), the express table's ports (R351), and, by direction, the
windows in a row above and at or below the skew ratio (R247). `relayed`: group abandon words seen of late, (mask, position, cue), each
relayed once (R45, R271). -/
structure MapSt where
  entries  : List (Nat × Nat × Nat × Nat)
  express  : List (Nat × Nat)
  skewUp   : List Nat
  skewDown : List Nat
  relayed  : List (Nat × Nat × Nat)
  deriving DecidableEq, Repr, Inhabited

structure State where
  pending : List Instr
  free    : Nat
  out     : List Out
  time    : DWord
  regs    : AMap Word
  shadow  : AMap Word
  cue     : CueSt
  sheet   : SheetSt
  progs   : List Program
  job     : Option JobSt
  acts    : List ActiveAct
  cells   : AMap CellSt
  cores   : AMap CoreSt
  movers  : List MoverOp
  nextReq : Nat
  groups  : AMap GroupSt
  scale   : ScaleSt
  upd     : UpdSt
  mem     : MemSt
  t3      : List T3Req
  serves  : List ServeOp
  commit  : CommitSt
  ports   : AMap PortSt
  map     : MapSt
  pwr     : PwrSt
  host    : HostSt
  cb      : CbSt
  mbox    : AMap MboxSt
  fw      : FwSt
  faults  : AMap FaultRec
  faultSeq : Nat
  evCount : AMap Nat
  raised  : List Raised
  traced  : List (List Byte)
  hazHeld : Bool
  wxHeld  : Bool
  start   : StartSt
  test    : JtagInstr
  deriving DecidableEq, Repr, Inhabited

/-! ## Stops -/

/-- Why a step can stop with a fault. No meaning of this model raises one: the spec gives every row of the table an effect
in every state, and the module's own faults are events (R459). -/
inductive Fault where
  /-- Raised by no command: reserved for a stop that the spec would give. Safe. -/
  | stopped
  deriving DecidableEq, Repr

/-- Why a command has no meaning. -/
inductive Refusal where
  /-- Raised by an arm of `exec` whose command is not modelled yet. Safe: nothing can be proved of such a command. -/
  | notModelled (mnemonic : String)
  deriving DecidableEq, Repr

/-! ## Empty blocks and reset -/

def EngQ.empty : EngQ := ⟨[], [], 0, 0, 0, [], 0⟩

def CoreSt.empty : CoreSt :=
  { ls := [], acc := [], mat := EngQ.empty, vec := EngQ.empty, mov := EngQ.empty, syn := EngQ.empty,
    ftq := [], pushes := 0, lastPush := 0, priv := [], wait := none, discarded := false, lastMma := none }

def CellSt.empty : CellSt := { store := [], flags := [], wins := [], records := [], owed := [], cycle := 0 }

def GroupSt.empty : GroupSt :=
  { stream := [], held := [], run := none, slots := [], early := [], blocked := [], rotate := [], doneBits := [],
    pendingLayout := 0, drops := 0, abandoned := false, issued := 0 }

def FlagSt.zero : FlagSt := ⟨[]⟩

def SlotRec.empty : SlotRec := ⟨Num.zero, false, false, false, false⟩

def DirSt.reset : DirSt :=
  { lanes := List.replicate 9 .active, map := [0, 1, 2, 3, 4, 5, 6, 7], narrow := false, swap := .none, target := 0,
    own := false, switchAt := none, later := [] }

def Pool.empty : Pool := ⟨0, 0, 0, 0, 0, 0, 0, 0, 0, 0, 0, 0⟩

def LaneMon.empty : LaneMon := ⟨[], [], [], [], ⟨0, 0, 0⟩, ⟨0, 0, 0⟩, 0, 0, 0, 0, 0, 0, 0⟩

/-- A port as R349 and R453 give it; its allotment code lives in page LINK, `code` is the code it was last trained
under. -/
def PortSt.reset : PortSt :=
  { code := 7, phase := 0, rx := DirSt.reset, tx := DirSt.reset, nextRx := 0, nextTx := 0, acked := 0, nakSent := false,
    retry := [], txq := [], turn := 7, left := 0, lastGroup := [], ledgerDue := false, owesOp5 := false,
    pools := List.replicate 20 Pool.empty, history := [], reinit := false, quiesce := false, marked := [], relane := [],
    rxBefore := [], mons := List.replicate 9 LaneMon.empty, secRx := 0, secTx := 0, stale := false, probes := 0, probeSum := 0,
    probeSent := [], probeTold := 0, lastProbe := 0, finals := 0, measured := false, nbrHops := 255, nbrTime := none, nbrCue := 0, markerCue := none, fresh := false,
    hashSet := false }

def Flood.clear : Flood := ⟨false, false, true, 0, 0xFFFF⟩

def CueSt.reset : CueSt :=
  { counterSet := false, hasParent := false, phase := .idle, began := 0, measured := [], seedEdge := none, windowEnd := none,
    inBand := 0, outBand := 0, boundaryTime := 0, flood := Flood.clear, prev := Flood.clear }

def Taken.none : Taken := ⟨.none, .none, .none, .none, .none, .none⟩

def SheetSt.idle : SheetSt := ⟨false, false, false, none, Taken.none⟩

def ScaleSt.reset : ScaleSt := ⟨[], [], [], 0, 0, false, false, false⟩

def UpdSt.reset : UpdSt := ⟨[], [], [], [], []⟩

/-- Tiers 1 and 2 all zeros, no poison, no ranges, no regions (R453). -/
def MemSt.reset : MemSt :=
  { bytes := [], poison := [], errs := [], ranges := [], marks := [], resync := [], settle := [], rekey1 := false, rekey2 := false,
    waiting := [], regions := [], snap := [], onCommit := false, snapAt := none, rows := [], spares := [],
    hotUp := [0, 0], hotDown := [10, 10], permuted := [], updated := [], stale := [], snapFrom := [], wins := [] }

def CommitSt.reset : CommitSt :=
  { causes := 0, next := 0, contributed := false, andF := 0, orF := 0, peerDirs := [], seenDirs := [], confDirs := [], confAll := true, confAny := false,
    decided := none, outcome := none }

/-- Power controls before any act (R373, R374, R453). -/
def PwrSt.reset : PwrSt :=
  { phase := 0, lead := false, leadAct := (0, 0), leadStay := false, volts := [0, 0, 0, 0], refresh := false, gap := none,
    planned := none, testEnd := none, testLoad := 0, capLimit := 2100, throttle := 2100, holdLimit := none, holdClock := none,
    cooling := none, recovering := false, line := 0, limiting := false, capCut := false, badCals := 0, history := [],
    excluded := [], trips := 0, droop := false, replanAsk := false, deferred := false, planAt := 0, inletHigh := false,
    throttleOnce := false }

def HostSt.reset : HostSt :=
  { buffer := [], lost := 0, holdoff := [], owed := [], dma := [[], [], [], []], snoop := [], biWait := [],
    loading := none, evSince := 0, config := [], bar2 := [], bar4 := [] }

def CbSt.reset : CbSt := ⟨[], 0⟩

/-- Both slots of each type as fitted at the factory (R432). -/
def FwSt.factory : FwSt :=
  { slotA := [some (Config.factoryImage 1 false), some (Config.factoryImage 2 false), some (Config.factoryImage 3 false),
      some (Config.factoryImage 4 false)],
    slotB := [some (Config.factoryImage 1 true), some (Config.factoryImage 2 true), some (Config.factoryImage 3 true),
      some (Config.factoryImage 4 true)],
    sram := [none, none, none, none], stage := [], running := [], burnedSvn := [0, 0, 0, 0], burnedKeys := 0 }

/-- Input power has just risen above undervoltage lockout: start-up step 0 begins (R442). -/
def StartSt.powerUp : StartSt :=
  { powered := true, rangeSince := 0, trip := false, stepBegan := 0, step0End := 0, chipRaised := false,
    lostData := 0, resetLevel := 0, pres := true, switch := true }

def MapSt.reset : MapSt := ⟨[], [], List.replicate 6 0, List.replicate 6 10, []⟩

/-- The module right after power-up, at the start of start-up step 0 (R442, R453): every register at the reset value of its
table (nothing listed in `regs`), every queue empty, Tiers 1 and 2 zero. -/
def State.reset : State :=
  { pending := [], free := 0, out := [], time := 0, regs := [], shadow := [], cue := CueSt.reset, sheet := SheetSt.idle,
    progs := [], job := none, acts := [], cells := [], cores := [], movers := [], nextReq := 0,
    groups := [], scale := ScaleSt.reset, upd := UpdSt.reset, mem := MemSt.reset, t3 := [], serves := [], commit := CommitSt.reset,
    ports := [], map := MapSt.reset, pwr := PwrSt.reset, host := HostSt.reset, cb := CbSt.reset, mbox := [],
    fw := FwSt.factory, faults := [], faultSeq := 0, evCount := [], raised := [], traced := [],
    hazHeld := false, wxHeld := false, start := StartSt.powerUp, test := .bypass }

end Sys2Proof.Machine
end

