-- ==== Sys2Proof/Machine/Ops.lean ====
section
/-! DEFINITION. The named operations over the state: registers, blocks by number, outputs, free values, memory bytes, versioned
ranges, verdict causes, and raising an event with its record, its sinks and its fault record. -/

namespace Sys2Proof.Machine

open Sys2Proof

/-! ## Registers -/

/-- What a register word holds when nothing has written it: the reset value of its table, or what is fused (R378, R379,
R382, R393, R436, R440). -/
def regReset (addr : Nat) : Word :=
  if addr = R.pwrCapW.addr then (if Config.extended then 0xA28 else 0xBB8)
  else if R.pwrOpMhz.addr < addr ∧ addr < R.pwrOpMhz.addr + 32 ∧ addr % 4 = 0 then 0x73A
  else if addr = R.mgmtIdentityLo.addr then Config.identity.setWidth 32
  else if addr = R.mgmtIdentityHi.addr then (Config.identity >>> 32).setWidth 32
  else if addr = R.mgmtVariant.addr then (if Config.extended then 2 else 1)
  else if R.pwrVtable.addr ≤ addr ∧ addr < R.pwrVtable.addr + 0x400 ∧ addr % 4 = 0 then
    let k := (addr - R.pwrVtable.addr) / 4
    BitVec.ofNat 32 (Config.vtable (k / 64) (k % 64) % 2048)
  else if R.pwrAgeOffset.addr ≤ addr ∧ addr < R.pwrAgeOffset.addr + 16 ∧ addr % 4 = 0 then
    BitVec.ofNat 32 (Config.ageBound ((addr - R.pwrAgeOffset.addr) / 4) % 256 * 256)
  else if addr = R.mgmtFuseSecureBoot.addr then 0x300
  else if (R.stackLinkLanes 8).addr ≤ addr ∧ addr ≤ (R.stackLinkLanes 23).addr ∧ addr % 0x1000 = 0x54 then 8
  else BitVec.ofNat 32 (resetOf (rowsAt addr))

/-- The live word at a BAR0 offset. -/
def State.word (s : State) (addr : Nat) : Word := (AMap.find s.regs addr).getD (regReset addr)

def State.setWord (s : State) (addr : Nat) (v : Word) : State := { s with regs := AMap.put s.regs addr v }

/-- The live value of a field. -/
def State.get (s : State) (f : Fld) : Nat := bitsOf (s.word f.addr).toNat f.lo f.w

def State.set (s : State) (f : Fld) (v : Nat) : State :=
  s.setWord f.addr (BitVec.ofNat 32 (withBits (s.word f.addr).toNat f.lo f.w v))

/-- A SAT counter stops at its maximum (R14). -/
def State.inc (s : State) (f : Fld) (n : Nat) : State :=
  s.set f (Nat.min (s.get f + n) (2 ^ f.w - 1))

/-- A value that stands in two registers, low word first. -/
def State.get2 (s : State) (lo hi : Fld) : Nat := s.get lo + 2 ^ 32 * s.get hi

def State.set2 (s : State) (lo hi : Fld) (v : Nat) : State :=
  (s.set lo (v % 2 ^ 32)).set hi (v / 2 ^ 32)

def State.flagReg (s : State) (f : Fld) : Bool := s.get f == 1

/-- The staged word at a live offset: the shadow, equal to the live word where software has staged nothing (R60, R449). -/
def State.staged (s : State) (addr : Nat) : Word := (AMap.find s.shadow addr).getD (s.word addr)

def State.getStaged (s : State) (f : Fld) : Nat := bitsOf (s.staged f.addr).toNat f.lo f.w

def State.getStaged2 (s : State) (lo hi : Fld) : Nat := s.getStaged lo + 2 ^ 32 * s.getStaged hi

/-- A field in the staging shadow. -/
def State.setStaged (s : State) (f : Fld) (v : Nat) : State :=
  { s with shadow := AMap.put s.shadow f.addr (BitVec.ofNat 32 (withBits (s.staged f.addr).toNat f.lo f.w v)) }

/-! ## Blocks by number -/

def State.cell (s : State) (c : Nat) : CellSt := AMap.get s.cells c CellSt.empty
def State.setCell (s : State) (c : Nat) (x : CellSt) : State := { s with cells := AMap.put s.cells c x }

/-- Core `k` of cell `c` (R26). -/
def State.core (s : State) (c k : Nat) : CoreSt := AMap.get s.cores (c * 32 + k) CoreSt.empty
def State.setCore (s : State) (c k : Nat) (x : CoreSt) : State :=
  { s with cores := AMap.put s.cores (c * 32 + k) x }

def State.group (s : State) (g : Nat) : GroupSt := AMap.get s.groups g GroupSt.empty
def State.setGroup (s : State) (g : Nat) (x : GroupSt) : State := { s with groups := AMap.put s.groups g x }

def State.port (s : State) (p : Nat) : PortSt := AMap.get s.ports p PortSt.reset
def State.setPort (s : State) (p : Nat) (x : PortSt) : State := { s with ports := AMap.put s.ports p x }

def State.emit (s : State) (o : Out) : State := { s with out := s.out ++ [o] }

def State.setMem (s : State) (m : MemSt) : State := { s with mem := m }

/-! ## Free values (R16) -/

/-- A fresh undefined word, and the state with the draw counted. -/
def State.drawWord (s : State) : Word × State := (Config.freeWord s.free, { s with free := s.free + 1 })

/-- Fresh undefined bytes. -/
def freeBytes (k n : Nat) : List Byte := (List.range n).map fun i => Config.freeByte (k + i)

def State.drawBytes (s : State) (n : Nat) : List Byte × State :=
  (freeBytes s.free n, { s with free := s.free + n })

def State.drawBool (s : State) : Bool × State := (Config.freeBool s.free, { s with free := s.free + 1 })

/-! ## Local stores, cell stores, accumulators: bytes and words not written since the stores were lost (R449) -/

def LSBYTES : Nat := 131072
def CSBYTES : Nat := 1048576

def State.lsByte (s : State) (c k a : Nat) : Byte :=
  AMap.get (s.core c k).ls a (Config.lostByte s.start.lostData (c * 32 + k) a)

def State.lsRead (s : State) (c k a n : Nat) : List Byte := (List.range n).map fun i => s.lsByte c k (a + i)

def putBytes (m : AMap Byte) (a : Nat) : List Byte → AMap Byte
  | [] => m
  | b :: l => putBytes (AMap.put m a b) (a + 1) l

def State.lsWrite (s : State) (c k a : Nat) (l : List Byte) : State :=
  s.setCore c k { s.core c k with ls := putBytes (s.core c k).ls a l }

def State.csByte (s : State) (c a : Nat) : Byte :=
  AMap.get (s.cell c).store a (Config.lostByte s.start.lostData (4096 + c) a)

def State.csRead (s : State) (c a n : Nat) : List Byte := (List.range n).map fun i => s.csByte c (a + i)

def State.csWrite (s : State) (c a : Nat) (l : List Byte) : State :=
  s.setCell c { s.cell c with store := putBytes (s.cell c).store a l }

/-- Accumulator element `e` (tile × 512 + row × 16 + column) of a core, F32 bits. -/
def State.accGet (s : State) (c k e : Nat) : Word :=
  AMap.get (s.core c k).acc e (Config.lostWord s.start.lostData (c * 32 + k) e)

def putWords (m : AMap Word) (a : Nat) : List Word → AMap Word
  | [] => m
  | b :: l => putWords (AMap.put m a b) (a + 1) l

def State.accWrite (s : State) (c k e : Nat) (l : List Word) : State :=
  s.setCore c k { s.core c k with acc := putWords (s.core c k).acc e l }

/-! ## Tiers 1 and 2 as bytes: unlisted bytes are zero (R442 step 4, R453) -/

def Memory.read (m : List Host.Cell) (a : Nat) : Byte := AMap.get m a 0

/-- Writing 0 unlists the byte, so that equal memories are equal lists. -/
def Memory.write (m : List Host.Cell) (a : Nat) (v : Byte) : List Host.Cell :=
  if v = 0 then AMap.del m a else AMap.put m a v

def Memory.readN (m : List Host.Cell) (a n : Nat) : List Byte := (List.range n).map fun i => Memory.read m (a + i)

def Memory.writeN : List Host.Cell → Nat → List Byte → List Host.Cell
  | m, _, [] => m
  | m, a, b :: l => Memory.writeN (Memory.write m a b) (a + 1) l

/-- Bytes lo to hi - 1 become zero. -/
def Memory.clear (m : List Host.Cell) (lo hi : Nat) : List Host.Cell :=
  m.filter fun x => decide (x.1 < lo) || decide (hi ≤ x.1)

/-- The canonical form: addresses strictly rising, no zero byte listed. -/
def Memory.wf (m : List Host.Cell) : Bool := AMap.sorted m && m.all fun x => decide (x.2 ≠ 0)

/-- The offset map (R206). -/
def TIER2 : Nat := 0x10000000000
def TIER3 : Nat := 0x40000000000
def OFFEND : Nat := 0x80000000000

/-- Tier 1, 2 or 3 of an offset (R206); 0 beyond the map. -/
def tierOf (off : Nat) : Nat :=
  if off < TIER2 then 1 else if off < TIER3 then 2 else if off < OFFEND then 3 else 0

/-- Bytes of the Tier 3 window mapped now (R207, R397). -/
def State.t3Bytes (s : State) : Nat :=
  if s.flagReg R.hostLinkCxl then s.get R.memT3Size * 2 ^ 30 else 0

/-- HDM size in force (R210, R397), GiB. -/
def State.hdmSize (s : State) : Nat := if s.flagReg R.hostLinkCxl then s.get R.memHdmSize else 0

/-! ## Versioned ranges (R304 to R308) -/

def VRange.committed (r : VRange) : Nat := if r.sel then r.alt else r.base
def VRange.pending (r : VRange) : Nat := if r.sel then r.base else r.alt

def State.rangeOf (s : State) (off : Nat) : Option VRange :=
  s.mem.ranges.find? fun r => decide (r.base ≤ off ∧ off < r.base + r.len)

/-- An offset inside a copy at ALT: refused with WINDOW RANGE (R305). -/
def State.inAlt (s : State) (off len : Nat) : Bool :=
  s.mem.ranges.any fun r => decide (r.alt < off + len ∧ off < r.alt + r.len)

def State.active (s : State) : Bool := s.flagReg R.commitCtrlActive

/-- Where a logical offset lies (R305): reads in the committed copy; writes in the pending copy while ACTIVE is 1. -/
def State.place (s : State) (write : Bool) (off : Nat) : Nat :=
  match s.rangeOf off with
  | none => off
  | some r => (if write && s.active then r.pending else r.committed) + (off - r.base)

/-- The interleave (R213): stack (0 to 23) and channel of a Tier 1 or Tier 2 offset, and the address in the channel. -/
def mix64 (x : Nat) : Nat :=
  let x := x % 2 ^ 64
  let x := mul64 (x ^^^ x >>> 30) 0xBF58476D1CE4E5B9
  let x := mul64 (x ^^^ x >>> 27) 0x94D049BB133111EB
  x ^^^ x >>> 31

def State.key1 (s : State) : Nat := s.get2 R.memIlKey1Lo R.memIlKey1Hi
def State.key2 (s : State) : Nat := s.get2 R.memIlKey2Lo R.memIlKey2Hi

def State.interleave (s : State) (off : Nat) : Nat × Nat × Nat :=
  if tierOf off = 1 then
    let up := off >>> 16
    let phys := bitsOf off 8 8 ^^^ mix64 (up ^^^ s.key1) >>> 56
    (phys / 32, phys % 32, up * 256 + off % 256)
  else
    let t := off - TIER2
    let up := t >>> 17
    let phys := bitsOf t 8 9 ^^^ mix64 (up ^^^ s.key2) >>> 55
    (8 + phys / 32, phys % 32, up * 256 + t % 256)

/-- A far link that is down (R223): reads return poison, writes are dropped. -/
def State.stackDown (s : State) (k : Nat) : Bool := decide (8 ≤ k) && s.get (R.stackLinkLanes k) == 0

/-! ## Acts and jobs -/

/-- Cue numbers (R44). -/
def State.cueNow (s : State) : Nat := s.get2 R.cueCurCueLo R.cueCurCueHi
def State.shift (s : State) : Nat := s.get R.cueShift
def State.stepCount (s : State) : Nat := s.get2 R.commitStepLo R.commitStepHi

/-- The active act whose rows hold a cell (R26, R50). -/
def State.actOfCell (s : State) (c : Nat) : Option ActiveAct := s.acts.find? fun a => bitAt a.desc.rows (c / 8)

/-- The active act that uses a collective group. -/
def State.actOfGroup (s : State) (g : Nat) : Option ActiveAct := s.acts.find? fun a => bitAt a.desc.groups g

def ActiveAct.intermission (a : ActiveAct) : Bool := a.desc.type == 2

/-- Replace the active act with an act number. -/
def State.setAct (s : State) (a : ActiveAct) : State :=
  { s with acts := s.acts.map fun b => if b.desc.act = a.desc.act then a else b }

/-- The program image under which an act runs (R48). -/
def State.prog (s : State) (n : Nat) : Option Program := s.progs.find? fun p => decide (p.num = n)

/-! ## Verdict causes (R311, R312) -/

def vOVERFLOW : Nat := 1
def vPOISON : Nat := 2
def vSTRICT : Nat := 3
def vMISSING : Nat := 4
def vHOLD : Nat := 5
def vCOMMAND : Nat := 6
def vABANDON : Nat := 7
def vTIME : Nat := 8
def vLINK : Nat := 9
def vDISAGREE : Nat := 10

/-- A cause after this module's contribution counts toward the next step (R312). -/
def State.cause (s : State) (n : Nat) : State :=
  let b : BitVec 11 := 1 <<< n
  if s.commit.contributed then { s with commit := { s.commit with next := s.commit.next ||| b } }
  else { s with commit := { s.commit with causes := s.commit.causes ||| b } }

/-- Intermission acts never set a cause (R59, R312). -/
def State.causeIn (s : State) (a : Option ActiveAct) (n : Nat) : State :=
  match a with
  | some x => if x.intermission then s else s.cause n
  | none => s.cause n

/-! ## Events (R408, R411, R459 to R474) -/

/-- Events that leave a fault record: severity F or X (R461 to R469). FROZEN DROP and START-UP STEP FAILED depend on the case
and say so where they are raised. -/
def severeCodes : List Nat :=
  [0x0202, 0x0203, 0x0204, 0x0205, 0x0206, 0x0207, 0x0302, 0x0303, 0x0308, 0x0403, 0x0404, 0x040D, 0x0501, 0x0504,
   0x0506, 0x0507, 0x050A, 0x0622, 0x0703, 0x0704, 0x0801, 0x0803, 0x0804, 0x0805, 0x0807, 0x0902]

/-- What names an event's command and place (R411, R470): fields the catalogue does not name are 0. -/
structure EvInfo where
  tag    : Word := 0
  tag2   : Word := 0
  cell   : Nat := 0
  core   : Nat := 0
  queue  : Nat := 0
  group  : Nat := 0
  port   : Nat := 0
  detail : Nat := 0
  addr   : Option Nat := none
  act    : Option ActiveAct := none
  severe : Bool := false
  deriving Inhabited

/-- Words 0 to 6 of an event record (R411). -/
def EventRec.words (r : EventRec) : List Nat :=
  [r.code + r.page * 2 ^ 16 + boolNat r.forced * 2 ^ 30, r.time.toNat % 2 ^ 32, r.time.toNat / 2 ^ 32, r.tag.toNat,
   r.tag2.toNat,
   r.cell % 128 + r.core % 32 * 2 ^ 7 + r.queue % 8 * 2 ^ 12 + r.group % 16 * 2 ^ 15 + r.port % 32 * 2 ^ 19,
   r.detail.toNat]

/-- The 32 bytes of an event record with its CRC (R411). -/
def EventRec.bytes (r : EventRec) : List Byte :=
  let b := wordsLe r.words
  b ++ natLe 4 (crc32c b)

/-- The 64 bytes of a fault record (R472). -/
def FaultRec.bytes (f : FaultRec) : List Byte :=
  let a := f.addr.getD 0
  let b := wordsLe (f.event.words ++
    [f.seq % 2 ^ 16 + f.act % 2 ^ 16 * 2 ^ 16, f.step.toNat % 2 ^ 32, f.step.toNat / 2 ^ 32, f.startCue % 2 ^ 32,
     f.startCue / 2 ^ 32 % 2 ^ 32, a % 2 ^ 32, a / 2 ^ 32 % 2 ^ 11 + (if f.addr.isSome then 2 ^ 31 else 0),
     f.verdict.toNat])
  b ++ natLe 4 (crc32c b)

/-- Raise an event of a page (R408, R459): its EVENT bit is set at once; its record and fault record are written with those
of the same command, in the order of R478. -/
def State.raiseEv (s : State) (forced : Bool) (code page : Nat) (e : EvInfo) : State :=
  let s := s.set (R.pageEvent page) (s.get (R.pageEvent page) ||| 2 ^ (code % 32))
  let r : EventRec :=
    { code := code, page := page, forced := forced, time := s.time, tag := e.tag, tag2 := e.tag2, cell := e.cell,
      core := e.core, queue := e.queue, group := e.group, port := e.port, detail := BitVec.ofNat 32 e.detail }
  let severe := e.severe || severeCodes.contains code
  let f : Option FaultRec :=
    if severe then
      some { event := r, seq := 0, act := (e.act.map (·.desc.act)).getD 0, step := BitVec.ofNat 64 s.stepCount,
             startCue := (e.act.map (·.start)).getD 0, addr := e.addr, verdict := 0 }
    else none
  { s with raised := s.raised ++ [⟨r, f⟩] }

def State.raise (s : State) (code page : Nat) (e : EvInfo := {}) : State := s.raiseEv false code page e

/-! Page indices of the event catalogue. -/

def pgHOST : Nat := 0
def pgMGMT : Nat := 1
def pgCUE : Nat := 2
def pgCMD : Nat := 3
def pgSCALE : Nat := 4
def pgMEM : Nat := 5
def pgCOLL : Nat := 6
def pgUPD : Nat := 7
def pgCOMMIT : Nat := 8
def pgLINK : Nat := 9
def pgPWR : Nat := 10
def pgCELL (c : Nat) : Nat := 0x100 + c
def pgSTACK (k : Nat) : Nat := 0x200 + k
def pgPORT (p : Nat) : Nat := 0x300 + p
def pgMBOX (m : Nat) : Nat := 0x400 + m

/-- A vector owes a message. -/
def State.owe (s : State) (vec : Nat) : State :=
  if s.host.owed.contains vec then s else { s with host := { s.host with owed := s.host.owed ++ [vec] } }

/-- A vector sends at most one message per holdoff; what falls inside it is covered by the next message (R413). No message
leaves while the CXL link is down: it leaves when the link is up again (R398). -/
def State.signal (s : State) (vec : Nat) : State :=
  if s.get R.hostLinkRate = 0 ∨ s.host.holdoff.contains vec then s.owe vec
  else
    let s := s.emit (.msix vec)
    if s.get R.hostIrqHoldoffUs = 0 then s
    else { s with host := { s.host with holdoff := s.host.holdoff ++ [vec] } }

/-- The messages that were owed while the link was down. -/
def State.payOwed (s : State) : State :=
  let l := s.host.owed.filter fun v => !s.host.holdoff.contains v
  l.foldl State.signal { s with host := { s.host with owed := s.host.owed.filter fun v => s.host.holdoff.contains v } }

/-- The host ring is in use and its link is up. -/
def State.ringOpen (s : State) : Bool := s.flagReg R.hostEvqCtrlEn && s.get R.hostLinkRate != 0

def State.ringSize (s : State) : Nat := 2 ^ s.get R.hostEvqCtrlSize

def State.ringFull (s : State) : Bool := (s.get R.hostEvqWr + 1) % s.ringSize == s.get R.hostEvqRd % s.ringSize

/-- Write one record at EVQ_WR and advance it (R412); ring records signal vector class + 1 (R413). -/
def State.ringWrite (s : State) (r : EventRec) : State :=
  let wr := s.get R.hostEvqWr
  let s := s.emit (.hostWrite (s.get2 R.hostEvqBaseLo R.hostEvqBaseHi + wr * 32) r.bytes false)
  let s := s.set R.hostEvqWr ((wr + 1) % s.ringSize)
  s.signal (r.code / 256 + 1)

/-- A record that finds the ring full is lost and counted (R412). -/
def State.ringPut (s : State) (r : EventRec) : State :=
  if s.ringFull then { (s.inc R.hostEvqLost 1) with host := { s.host with lost := s.host.lost + 1 } }
  else s.ringWrite r

/-- A record for the host: to the ring, or held in the buffer of 256 while the ring is off or the link is down, and lost and
counted beyond that (R398, R453, R478). -/
def State.hostRecord (s : State) (r : EventRec) : State :=
  if s.ringOpen then s.ringPut r
  else if s.host.buffer.length < 256 then { s with host := { s.host with buffer := s.host.buffer ++ [r] } }
  else s.inc R.hostEvqLost 1

/-- A frame of the module's own for the Callboard: at most four are held; when full the oldest TELEMETRY goes first (R420).
With no TELEMETRY held the oldest frame goes (DESIGN CHOICE, log 13). -/
def pushOwn (l : List CbFrame) (f : CbFrame) : List CbFrame :=
  if l.length < 4 then l ++ [f]
  else match l.findIdx? fun x => x.type == 0x21 with
    | some i => l.eraseIdx i ++ [f]
    | none => l.drop 1 ++ [f]

/-- The 8 header bytes of a Callboard frame without HCRC (R418). -/
def cbHeader (dest : Nat) (bcast up : Bool) (src : Nat) (type seq : Byte) (len : Nat) : List Byte :=
  [BitVec.ofNat 8 (dest % 64 + boolNat bcast * 64 + boolNat up * 128), BitVec.ofNat 8 (src % 64), type, seq,
   BitVec.ofNat 8 (len % 256), BitVec.ofNat 8 (len / 256 % 256), 0]

/-- A frame with its checks computed (R418). -/
def cbMake (dest : Nat) (bcast up : Bool) (src : Nat) (type seq : Byte) (payload : List Byte) : CbFrame :=
  let h := cbHeader dest bcast up src type seq payload.length
  let hb := h ++ [BitVec.ofNat 8 (crc8 h)]
  { dest := dest, bcast := bcast, up := up, src := src, type := type, seq := seq, payload := payload,
    hcrc := BitVec.ofNat 8 (crc8 h), crc := BitVec.ofNat 32 (crc32c (hb ++ payload)) }

def cbHdr (f : CbFrame) : List Byte := cbHeader f.dest f.bcast f.up f.src f.type f.seq f.payload.length

def cbHcrcOk (f : CbFrame) : Bool := crc8 (cbHdr f) == f.hcrc.toNat

def cbCrcOk (f : CbFrame) : Bool := crc32c (cbHdr f ++ [f.hcrc] ++ f.payload) == f.crc.toNat

def State.cbValid (s : State) : Bool := s.flagReg R.mgmtCbValid
def State.cbPos (s : State) : Nat := s.get R.mgmtCbPosition

/-- The module's own frame toward the head. -/
def State.sendOwn (s : State) (dest : Nat) (type seq : Byte) (payload : List Byte) : State :=
  { s with cb := { s.cb with own := pushOwn s.cb.own (cbMake dest false true s.cbPos type seq payload) } }

/-- An EVENT frame for the head (R411, R419), from a module that holds a position (DESIGN CHOICE, log 13). -/
def State.cbRecord (s : State) (r : EventRec) : State :=
  if s.cbValid then
    let s := s.sendOwn 0 0x20 (BitVec.ofNat 8 s.cb.seq) r.bytes
    { s with cb := { s.cb with seq := (s.cb.seq + 1) % 256 } }
  else s

/-- The fault log (R473): entry 0 the first since the last clear, entries 1 to 15 a ring. `faults` lists (entry, record). The verdict
is that of the time of writing (R472), with the causes of the command that raised the event. -/
def State.logFault (s : State) (f : FaultRec) : State :=
  let f := { f with seq := s.faultSeq % 2 ^ 16, verdict := s.commit.causes }
  let s := (s.inc R.mgmtFaultCount 1)
  if s.flagReg R.mgmtFaultFirstValid then
    let w := s.get R.mgmtFaultWr
    let s := { s with faults := AMap.put s.faults w f, faultSeq := s.faultSeq + 1 }
    s.set R.mgmtFaultWr (if w = 15 then 1 else w + 1)
  else
    ({ s with faults := AMap.put s.faults 0 f, faultSeq := s.faultSeq + 1 }).set R.mgmtFaultFirstValid 1

/-- Write the record of one raised event (R408, R411) within the limit of R471, and its fault record. -/
def State.writeRecord (s : State) (x : Raised) : State :=
  let r := x.event
  let route := s.get (R.pageCtrlRoute r.page)
  let wanted := bitAt (s.get (R.pageEventEn r.page)) (r.code % 32) && route != 3
  let key := r.page * 2 ^ 16 + r.code
  let n := AMap.get s.evCount key 0
  let log := fun (s : State) => match x.fault with
    | some f => s.logFault f
    | none => s
  if !wanted then log s
  else
    let s := { s with evCount := AMap.put s.evCount key (n + 1) }
    if n < 16 then
      let s : State := { s with host := { s.host with evSince := s.host.evSince + 1 } }
      let s := if route = 2 then s else s.hostRecord r
      let s := if route = 1 then s else s.cbRecord r
      log s
    else
      let s := s.inc R.mgmtEvtSuppressed 1
      if n = 16 then log s else s

/-- Before or after, in order of page index, then code (R478). -/
def insertRaised (x : Raised) : List Raised → List Raised
  | [] => [x]
  | y :: l =>
    if x.event.page * 2 ^ 16 + x.event.code < y.event.page * 2 ^ 16 + y.event.code then x :: y :: l
    else y :: insertRaised x l

def sortRaised (l : List Raised) : List Raised := l.foldl (fun a x => insertRaised x a) []

/-- Write the records of the events a command raised. -/
def State.flush (s : State) : State :=
  (sortRaised s.raised).foldl State.writeRecord { s with raised := [] }

/-- The end of a command's effect: the records of its events are written. -/
def done (s : State) : Host.Outcome State Fault Refusal := .next s.flush

/-- Records that waited for room, for the ring or for the link (R398, R412, R453): EVENT RING OVERFLOW first when records
were lost to a full ring. -/
def State.drainHost (s : State) : State :=
  if s.ringOpen then
    let s := if s.host.lost ≠ 0 ∧ !s.ringFull then
        let n := s.host.lost
        (({ s with host := { s.host with lost := 0 } }).raise 0x0806 pgHOST { detail := n }).flush
      else s
    let b := s.host.buffer
    b.foldl State.ringPut { s with host := { s.host with buffer := [] } }
  else s

/-! ## Power and start-up gates -/

/-- The data plane runs: powered, start-up past step 3, no failed state, no firmware recovery, no thermal trip (R391, R434, R442,
R443). -/
def State.dataOn (s : State) : Bool :=
  s.start.powered && !s.start.trip &&
    match s.get R.mgmtStartState with
    | 0 => decide (4 ≤ s.get R.mgmtStartStep)
    | 1 => true
    | _ => false

/-- A program is loaded. -/
def State.loaded (s : State) : Bool := !s.progs.isEmpty

/-- Apply `f` while the module has power: an unpowered module takes no command but the rise of its input (R417, R480). -/
def powered (s : State) (f : State → State) : Host.Outcome State Fault Refusal :=
  if s.start.powered then done (f s) else .next s

end Sys2Proof.Machine
end

