-- ==== Sys2Proof/Machine/Flags.lean ====
section
/-! DEFINITION. The flag file and what a wait can see of it (R159 to R163), the sticky counts (R93, R148), and the step records
of the scale slots (R190). -/

namespace Sys2Proof.Machine

open Sys2Proof

/-! ## Flags -/

def State.flag (s : State) (f : FlagRef) : FlagSt := AMap.get (s.cell f.cell).flags f.flag FlagSt.zero

/-- Earlier: by cycle, and in one cycle a write before every increment (R161). -/
def FlagChange.before (a b : FlagChange) : Bool :=
  decide (a.cycle < b.cycle) || (a.cycle == b.cycle && a.write.isSome && b.write.isNone)

def insertChange (x : FlagChange) : List FlagChange → List FlagChange
  | [] => [x]
  | y :: l => if x.before y then x :: y :: l else y :: insertChange x l

/-- A change joins the others in order of cycle. -/
def State.flagChange (s : State) (f : FlagRef) (x : FlagChange) : State :=
  let c := s.cell f.cell
  let g := AMap.get c.flags f.flag FlagSt.zero
  s.setCell f.cell { c with flags := AMap.put c.flags f.flag { g with changes := insertChange x g.changes } }

def applyChange (v : Half) (x : FlagChange) : Half := (x.write.getD v) + BitVec.ofNat 16 x.add

/-- The value with every change made (R159): what the register page shows (R183). -/
def FlagSt.value (g : FlagSt) : Half := g.changes.foldl applyChange 0

/-- Which of two changes of one cycle the last-writer tag names (R161): the write, then a cell mover, then the link complex,
then a queue push, then cores in ascending number. -/
def FlagChange.rank (x : FlagChange) : Nat :=
  if x.write.isSome then 0
  else match x.source with
    | .mover => 1
    | .link => 2
    | .push => 3
    | .sync => 4 + x.cell * 32 + x.core

/-- The tag of the last change (R159, R161); 0 when none. -/
def FlagSt.writer (g : FlagSt) : Word :=
  match g.changes.foldl (fun (a : Option FlagChange) x =>
      match a with
      | none => some x
      | some y => if y.cycle < x.cycle ∨ (y.cycle = x.cycle ∧ x.rank < y.rank) then some x else some y) none with
  | some x => x.tag
  | none => 0

/-- The first cycle at which a core may come to see a change, and the cycle at which it sees it at the latest (R121, R160). A
bounded change may be seen as soon as it is made. -/
def FlagChange.visible (x : FlagChange) (late : Bool) (cell core : Nat) : Nat :=
  match x.source with
  | .sync =>
    if x.cell = cell then (if x.core = core then x.cycle + 2 else x.cycle + 6)
    else if late then x.cycle + 48 else x.cycle
  | .push => if x.core = core then x.cycle + 2 else x.cycle + 6
  | .mover => if late then x.cycle + 48 else x.cycle
  | .link => if late then x.cycle + 48 else x.cycle

/-- The value a core sees at a cycle. -/
def FlagSt.seenAt (g : FlagSt) (late : Bool) (cell core t : Nat) : Half :=
  (g.changes.filter fun x => decide (x.visible late cell core ≤ t)).foldl applyChange 0

/-- A wait's condition (R162). -/
def reached (v target : Half) : Bool := decide ((v - target).toNat < 2 ^ 15)

def insertNat (n : Nat) : List Nat → List Nat
  | [] => [n]
  | m :: l => if n ≤ m then n :: m :: l else m :: insertNat n l

/-- The first cycle from `t` on at which the condition holds for a core, with bounded changes seen at their earliest or at
their latest. -/
def FlagSt.firstHold (g : FlagSt) (late : Bool) (cell core t : Nat) (target : Half) : Option Nat :=
  let cand := (g.changes.map fun x => max t (x.visible late cell core)).foldl (fun l n => insertNat n l) [t]
  cand.find? fun c => reached (g.seenAt late cell core c) target

/-- The queue flag of a wing core (R124, R159). -/
def queueFlag (core : Nat) : Nat := 224 + core

/-- A flag that FLAG.INC, FLAG.WRITE and the cell movers may not name (R159, R160). -/
def isQueueFlag (f : FlagRef) : Bool := decide (f.cell.val < 8) && decide (224 ≤ f.flag.val)

/-- An increment by the link complex or a cell mover, at the act cycle its cell has reached. -/
def State.flagBump (s : State) (f : FlagRef) (by_ : FlagBy) (tag : Word) : State :=
  s.flagChange f
    { write := none, add := 1, cycle := (s.cell f.cell).cycle, cell := f.cell, core := 0, source := by_, tag := tag }

/-! ## Sticky counts (R93, R148) -/

/-- Counts that fall due are made. -/
def State.countDue (cell : Nat) (s : State) (d : CountDue) : State :=
  let i := d.core * 4 + d.queue
  let s := if d.ovf = 0 then s else s.inc ((R.cellCountOvf cell).at_ i) d.ovf
  if d.inv = 0 then s else s.inc ((R.cellCountInv cell).at_ i) d.inv

/-- Make a cell's counts of instructions that completed before an act cycle (R148). -/
def State.settle (s : State) (cell now : Nat) : State :=
  let c := s.cell cell
  if c.owed.isEmpty then s
  else
    let s := s.setCell cell { c with owed := c.owed.filter fun d => decide (now ≤ d.done) }
    (c.owed.filter fun d => decide (d.done < now)).foldl (State.countDue cell) s

/-- Every count that a cell still owes is made: what has been issued ends as it would. -/
def State.settleAll (s : State) (cell : Nat) : State :=
  s.settle cell ((s.cell cell).owed.foldl (fun m d => max m (d.done + 1)) 0)

/-- Every count that the cells of some rows owe is made. -/
def State.settleRows (s : State) (rows : Nat) : State :=
  ((s.cells.map (·.1)).filter fun c => bitAt rows (c / 8)).foldl State.settleAll s

/-- A queue's counts, made when the instruction completes at cycle `done_` (R148); an overflow in a work act sets OVERFLOW in the
verdict (R191). -/
def State.sticky (s : State) (cell core queue : Nat) (a : Option ActiveAct) (c : Counts) (done_ : Nat) : State :=
  let x := s.cell cell
  let s := if c.ovf = 0 ∧ c.inv = 0 then s
    else s.setCell cell { x with owed := x.owed ++ [⟨core, queue, done_, c.ovf, c.inv⟩] }
  match a with
  | some x => if c.ovf ≠ 0 ∧ x.desc.type = 1 then s.cause vOVERFLOW else s
  | none => s

/-- A collective group's counts (R94, R274). -/
def State.stickyGroup (s : State) (g : Nat) (a : Option ActiveAct) (c : Counts) : State :=
  let s := if c.ovf = 0 then s else s.inc (R.collGCountOvf.at_ g) c.ovf
  let s := if c.inv = 0 then s else s.inc (R.collGCountInv.at_ g) c.inv
  match a with
  | some x => if c.ovf ≠ 0 ∧ x.desc.type = 1 then s.cause vOVERFLOW else s
  | none => s

/-! ## Step records of scale slots (R190, R191) -/

/-- What an instruction that names a slot records in a work act: the largest finite magnitude of the values it presents, SEEN,
INF, NAN, and OVF when elements overflowed or a value is infinite; setting OVF sets the overflow cause (R191). -/
def State.recordSlot (s : State) (cell slot : Nat) (a : Option ActiveAct) (vals : List Num) (ovf : Nat) : State :=
  match a with
  | none => s
  | some x =>
    if slot = 0xFFF ∨ x.desc.type ≠ 1 then s
    else
      let c := s.cell cell
      let r := AMap.get c.records slot SlotRec.empty
      let inf := vals.any Num.isInf
      let hit := inf || ovf != 0
      let amax := (vals.filter Num.isFin).foldl (fun m v => if m.magLe v then v.abs else m) r.amax
      let r : SlotRec :=
        { amax := amax, seen := true, inf := r.inf || inf, nan := r.nan || vals.any Num.isNan,
          ovf := r.ovf || hit }
      let s := s.setCell cell { c with records := AMap.put c.records slot r }
      if hit then s.cause vOVERFLOW else s

end Sys2Proof.Machine
end

