-- ==== Sys2Proof/Machine/Mem.lean ====
section
/-! DEFINITION. Accesses to Tiers 1 and 2 (R206 to R223, R305 to R309): the checks of an access, reading lines with their error
correction and poison, writing lines, marks, waits, and the interleave-key lock. -/

namespace Sys2Proof.Machine

open Sys2Proof

/-- Who reads, as MEMORY UNCORRECTABLE codes it (R463). -/
def Requester.code : Requester → Nat
  | .cellMover => 0
  | .linkComplex => 1
  | .remote => 2
  | .host => 3
  | .snapshot => 4
  | .region => 5
  | .scrub => 6

/-- Who reads, and what MEMORY UNCORRECTABLE tells of its command (R463, R470, R472). -/
structure Reader where
  who  : Requester
  info : EvInfo

/-- A requester that is no command. -/
def Requester.plain (who : Requester) : Reader := ⟨who, {}⟩

/-- The module's own controllers (Prompter, call sheets, snapshot list, firmware): the spec gives them no code of their own (log 89). -/
def ctlReader : Reader := Requester.host.plain

/-- What a tier access breaks (R208, R305). -/
inductive AccessErr where
  | misaligned | window
  deriving DecidableEq, Repr

/-- Lines, one tier, the mapped window, and no copy at ALT (R208, R305). -/
def State.checkAccess (s : State) (off len : Nat) : Option AccessErr :=
  if off % 64 ≠ 0 ∨ len % 64 ≠ 0 ∨ len = 0 then some .misaligned
  else if tierOf off = 0 ∨ tierOf (off + len - 1) ≠ tierOf off then some .window
  else if tierOf off = 3 ∧ s.t3Bytes < off - TIER3 + len then some .window
  else if tierOf off ≠ 3 ∧ s.inAlt off len then some .window
  else none

/-- A tier's first use locks its interleave key (R214). -/
def State.lockKey (s : State) (off : Nat) : State :=
  match tierOf off with
  | 1 => if s.flagReg R.memIlStatusLocked1 then s else s.set R.memIlStatusLocked1 1
  | 2 => if s.flagReg R.memIlStatusLocked2 then s else s.set R.memIlStatusLocked2 1
  | _ => s

/-- Lines of a range that the host may hold (R402): device lines of the CXL.mem range. -/
def State.tracked (s : State) (l : List Nat) (off len : Nat) : List Nat :=
  let base := TIER2 + s.get R.memHdmBase * 2 ^ 30
  l.filter fun d => decide (base + 64 * d + 64 > off ∧ base + 64 * d < off + len)

/-- A page of a range waits for its resync (R306). -/
def State.resyncing (s : State) (off len : Nat) : Bool :=
  s.mem.resync.any fun p => decide (off / 4096 ≤ p ∧ p ≤ (off + len - 1) / 4096)

/-- Whether an access to these bytes must wait (R215, R306, R309, R402): a tier being filled, a page being settled, a line being
back-invalidated, or, for a write, a page being resynced. -/
def State.mustWait (s : State) (write : Bool) (off len : Nat) : Bool :=
  (tierOf off == 1 && s.mem.rekey1) || (tierOf off == 2 && s.mem.rekey2) ||
    (s.mem.settle.any fun p => decide (off / 4096 ≤ p ∧ p ≤ (off + len - 1) / 4096)) ||
    (write && s.resyncing off len) || !(s.tracked s.host.biWait off len).isEmpty

/-- From when on a write that must wait is held by a resync, where it is. -/
def State.heldSince (s : State) (held : Bool) : Option DWord := if held then some s.time else none

/-- A write that has waited is tried again (R306): where the resync that held it is over, its wait is counted; where one holds it now,
the wait is dated. -/
def State.resyncWait (s : State) (held : Bool) (since : Option DWord) : Option DWord × State :=
  match since with
  | none => (s.heldSince held, s)
  | some t => if held then (some t, s) else (none, s.inc R.commitResyncWaitNs (s.time - t).toNat)

/-- BISnpInv for a tracked device line. -/
def State.snoopOut (s : State) (d : Nat) : State :=
  ((({ s with host := { s.host with
      snoop := s.host.snoop.filter (fun x => decide (x ≠ d)), biWait := s.host.biWait ++ [d] } } : State).inc
    R.hostBiSnoops 1)).emit (.biSnp d)

/-- Back-invalidate the lines of an access that the host may hold (R402). -/
def State.backInvalidate (s : State) (off len : Nat) : State :=
  (s.tracked s.host.snoop off len).foldl (fun s d =>
    s.snoopOut d) s

/-- The module's own controllers use a tier too (R214), and ask for the lines the host may hold (R402). -/
def State.touch (s : State) (off len : Nat) : State := (s.lockKey off).backInvalidate off len

/-- One line fails: counted in the stack that holds it, at `ph`; first offset recorded, event raised (R221). -/
def State.uncorrectable (s : State) (who : Reader) (off ph : Nat) : State :=
  let s := s.inc R.memUncCount 1
  let s := if s.flagReg R.memUncFirstValid then s
    else (s.set2 R.memUncFirstLo R.memUncFirstHi off).set R.memUncFirstValid 1
  let s := if tierOf off = 1 ∨ tierOf off = 2 then s.inc (R.stackUncorrectable (s.interleave ph).1) 1 else s
  s.raise 0x0302 pgMEM { who.info with detail := who.who.code, addr := some off }

/-- One corrected line (R220) in a stack, a channel and a DRAM row: counted; the sixteenth in a row of one scrub period remaps the row
to a spare, and the last spare of a channel raises SPARES EXHAUSTED. -/
def State.correctedIn (s : State) (k ch dram : Nat) : State :=
  let s := s.inc (R.stackCorrected k) 1
  let row := (k * 32 + ch) * 2 ^ 40 + dram
  let n := AMap.get s.mem.rows row 0 + 1
  if n < 16 then s.setMem { s.mem with rows := AMap.put s.mem.rows row n }
  else
    let left := AMap.get s.mem.spares (k * 32 + ch) 64
    if left = 0 then s.setMem { s.mem with rows := AMap.del s.mem.rows row }
    else
      let s := s.setMem { s.mem with
        rows := AMap.del s.mem.rows row, spares := AMap.put s.mem.spares (k * 32 + ch) (left - 1) }
      let s := if left - 1 < s.get (R.stackSparesMin k) then s.set (R.stackSparesMin k) (left - 1) else s
      if left = 1 then s.raise 0x0306 (pgSTACK k) { detail := ch } else s

/-- A line at a physical offset is corrected, and written back corrected (R220). -/
def State.corrected (s : State) (ph : Nat) : State :=
  let (k, ch, a) := s.interleave ph
  (s.setMem { s.mem with errs := AMap.del s.mem.errs (ph / 64) }).correctedIn k ch (a / Config.rowBytes)

/-- The logic dies find symbols in error in lines of a logical range, each given by its index (R219): they stay in the line until it
is corrected or written. -/
def State.meetErrs (s : State) (off : Nat) (ecc : EccErrs) : State :=
  ecc.foldl (fun (s : State) e =>
    if e.2 = 0 then s
    else s.setMem { s.mem with errs := AMap.put s.mem.errs (s.place false (off + 64 * e.1) / 64) e.2 }) s

/-- What a read of lines delivers: bytes, and the indices of its poisoned lines. -/
structure LineRead where
  data   : List Byte
  poison : List Nat
  deriving DecidableEq, Repr, Inhabited

/-- The compressed region whose allotment holds an offset where only the logic dies may read and write: its map, and, but between
a REGION RESET and the next PAGE WRITE, all of it (R226, R230). -/
def State.regionAt (s : State) (off : Nat) : Option MRegion :=
  s.mem.regions.find? fun r =>
    decide (r.base ≤ off ∧ off < r.base + r.size) && !(r.loose && decide (r.base + ceilDiv (8 * r.pages) 131072 * 131072 ≤ off))

def State.setRegion (s : State) (r : MRegion) : State :=
  s.setMem { s.mem with regions := s.mem.regions.map fun x => if x.index = r.index then r else x }

/-- A line that pages of a compressed region have overwritten (R230): its bytes are unspecified (R226). -/
def State.staleAt (s : State) (ph : Nat) : Bool := s.mem.stale.any fun r => decide (r.1 ≤ ph ∧ ph < r.1 + r.2)

/-- One line at a physical offset `ph` of a logical offset `off` (R219, R221, R223). A pattern of six symbols in error or more may go
undetected or be miscorrected: whether it is seen, and the bytes, are free values. -/
def State.readLine (s : State) (who : Reader) (off ph : Nat) : List Byte × Bool × State :=
  let errs := AMap.get s.mem.errs (ph / 64) 0
  let data := Memory.readN s.mem.bytes ph 64
  if s.stackDown (s.interleave ph).1 then
    let (b, s) := s.drawBytes 64
    (b, true, s.uncorrectable who off ph)
  else if s.mem.poison.contains (ph / 64) then
    let (b, s) := s.drawBytes 64
    (b, true, s.uncorrectable who off ph)
  else if (s.regionAt ph).isSome ∨ s.staleAt ph then
    let (b, s) := s.drawBytes 64
    (b, false, s)
  else if errs = 0 then (data, false, s)
  else if errs ≤ 3 then (data, false, s.corrected ph)
  else
    let (b, s) := s.drawBytes 64
    if errs ≤ 5 then (b, true, s.uncorrectable who off ph)
    else
      let (seen, s) := s.drawBool
      if seen then (b, true, s.uncorrectable who off ph) else (b, false, s)

/-- `n` lines from a logical offset (R209, R305): the committed copy of a versioned range. -/
def State.readLines (who : Reader) (off : Nat) : Nat → Nat → List Byte → List Nat → State → LineRead × State
  | 0, _, data, po, s => (⟨data, po⟩, s)
  | n + 1, i, data, po, s =>
    let o := off + 64 * i
    let (b, bad, s) := s.readLine who o (s.place false o)
    State.readLines who off n (i + 1) (data ++ b) (if bad then po ++ [i] else po) s

/-- A read of whole lines; `ecc` gives symbols in error that it meets. -/
def State.tierRead (s : State) (who : Reader) (off len : Nat) (ecc : EccErrs) : LineRead × State :=
  State.readLines who off (len / 64) 0 [] [] ((s.lockKey off).meetErrs off ecc)

/-- A far stack is down (R223). -/
def State.anyDown (s : State) : Bool := (List.range 16).any fun k => s.stackDown (8 + k)

/-- A write of a range reaches a stack that is down: it is dropped, and the step that makes it is skipped (R223). -/
def State.touchesDown (s : State) (off len : Nat) : Bool :=
  s.anyDown && (List.range (ceilDiv (off % 64 + len) 64)).any fun i =>
    s.stackDown (s.interleave (s.place true (off / 64 * 64 + 64 * i))).1

/-- A write that a step makes, before it lands. -/
def State.stepTouch (s : State) (a : Option ActiveAct) (off len : Nat) : State :=
  if s.touchesDown off len then s.causeIn a vCOMMAND else s

/-- A line that a read finds other than clean. -/
def State.oddLine (s : State) (ph : Nat) : Bool :=
  s.mem.poison.contains (ph / 64) || AMap.get s.mem.errs (ph / 64) 0 != 0 || s.stackDown (s.interleave ph).1

/-- The module's own controllers are about to read bytes that software placed (R178, R497): what their lines do is what a read of any
line does; they are corrected, or they fail (R220, R221). -/
def State.visit (s : State) (off len : Nat) : State :=
  let s := s.touch off len
  if s.mem.poison.isEmpty && s.mem.errs.isEmpty && !s.anyDown then s
  else (List.range (ceilDiv (off % 64 + len) 64)).foldl (fun (s : State) i =>
    let o := off / 64 * 64 + 64 * i
    if s.oddLine (s.place false o) then (s.readLine ctlReader o (s.place false o)).2.2 else s) s

/-- A byte as the module's own controllers read it, at a logical and a physical offset: of a line that fails or carries a poison mark,
of a region's allotment, and of a line that the host has not given back yet (log 90), a free value. -/
def State.peekByte (s : State) (down : Bool) (off ph : Nat) : Byte :=
  if s.mem.poison.contains (ph / 64) || decide (4 ≤ AMap.get s.mem.errs (ph / 64) 0) || (s.regionAt ph).isSome || s.staleAt ph ||
      (!s.host.biWait.isEmpty && !(s.tracked s.host.biWait off 1).isEmpty) || (down && s.stackDown (s.interleave ph).1) then Config.badByte ph
  else Memory.read s.mem.bytes ph

/-- Bytes as they stand in the committed copies: how the module's own controllers read tables and images that software placed
whole (R178, R497), after a visit. -/
def State.peek (s : State) (off len : Nat) : List Byte :=
  let down := s.anyDown
  (List.range len).map fun i => s.peekByte down (off + i) (s.place false (off + i))

/-- A write of a versioned page marks it (R306). -/
def State.markPage (s : State) (off : Nat) : State :=
  match s.rangeOf off with
  | none => s
  | some _ =>
    let p := off / 4096
    if s.mem.marks.contains p then s else s.setMem { s.mem with marks := s.mem.marks ++ [p] }

/-- A physical range without one line. -/
def cutLine (ph : Nat) (r : Nat × Nat) : List (Nat × Nat) :=
  if r.1 ≤ ph ∧ ph < r.1 + r.2 then
    [(r.1, ph - r.1), (ph + 64, r.1 + r.2 - (ph + 64))].filter fun x => decide (0 < x.2)
  else [r]

/-- A write by offset reaches a line: in an allotment it leaves the region's pages undefined (R226); outside one, or where R230 lets
it serve as memory, the line holds what is written. -/
def State.meetRegion (s : State) (ph : Nat) : State :=
  match s.regionAt ph with
  | some r => s.setRegion { r with undef := true }
  | none => if s.staleAt ph then s.setMem { s.mem with stale := s.mem.stale.flatMap (cutLine ph) } else s

/-- One line written whole at a physical offset (R209): its poison mark is cleared, or set where the data carries one; a stack that is
down drops it (R221, R223). -/
def State.putLine (s : State) (ph : Nat) (data : List Byte) (poison : Bool) : State :=
  if s.stackDown (s.interleave ph).1 then s
  else
    let s := s.meetRegion ph
    let po := s.mem.poison.filter fun l => decide (l ≠ ph / 64)
    s.setMem { s.mem with
      bytes := Memory.writeN s.mem.bytes ph data, poison := if poison then po ++ [ph / 64] else po,
      errs := AMap.del s.mem.errs (ph / 64) }

/-- One line written whole. -/
def State.writeLine (s : State) (off : Nat) (data : List Byte) (poison : Bool) : State :=
  (s.markPage off).putLine (s.place true off) data poison

/-- The poisoned lines that are left after the first line of an access. -/
def nextLines (poison : List Nat) : List Nat := poison.filterMap fun i => if i = 0 then none else some (i - 1)

def State.writeLines : Nat → Nat → List Byte → List Nat → State → State
  | 0, _, _, _, s => s
  | n + 1, off, data, po, s =>
    State.writeLines n (off + 64) (data.drop 64) (nextLines po)
      (s.writeLine off (data.take 64) (po.contains 0))

/-- The logic die reads a line of which only a part is written: one that it corrects stays corrected, one that fails stays so with a
poison mark (R219 to R221), and one that pages have overwritten holds unspecified bytes (R230). -/
def State.mergeLine (s : State) (ph : Nat) : State :=
  let line := ph / 64
  let errs := AMap.get s.mem.errs line 0
  let s := if s.staleAt ph ∧ (s.regionAt ph).isNone then
      let (b, s) := s.drawBytes 64
      s.setMem { s.mem with bytes := Memory.writeN s.mem.bytes (64 * line) b }
    else s
  let s := s.meetRegion (64 * line)
  if errs = 0 then s
  else if errs ≤ 3 then s.corrected ph
  else
    let s := s.setMem { s.mem with errs := AMap.del s.mem.errs line }
    if s.mem.poison.contains line then s else s.setMem { s.mem with poison := s.mem.poison ++ [line] }

/-- Some bytes of one line: the others stand, and so does its poison mark, which only a full write clears (R221). -/
def State.pokeLine (s : State) (off : Nat) (data : List Byte) : State :=
  let ph := s.place true off
  let s := s.markPage off
  if s.stackDown (s.interleave ph).1 then s
  else
    let s := s.mergeLine ph
    s.setMem { s.mem with bytes := Memory.writeN s.mem.bytes ph data }

/-- Bytes read by lines: the data, and the poisoned lines, counted from the line that holds its first byte `skew` bytes in. -/
structure SpanRead where
  data   : List Byte
  poison : List Nat
  skew   : Nat
  deriving DecidableEq, Repr, Inhabited

/-- Any of it is poisoned. -/
def SpanRead.bad (r : SpanRead) : Bool := !r.poison.isEmpty

/-- Bytes `i` to `i + n - 1` touch a poisoned line. -/
def SpanRead.badAt (r : SpanRead) (i n : Nat) : Bool :=
  r.poison.any fun l => decide (64 * l < r.skew + i + n ∧ r.skew + i < 64 * l + 64)

/-- Bytes with no poison. -/
def SpanRead.clean (b : List Byte) : SpanRead := ⟨b, [], 0⟩

/-- Bytes that need not be whole lines, read by lines (R208, R221). -/
def State.readSpan (s : State) (who : Reader) (off len : Nat) (ecc : EccErrs) : SpanRead × State :=
  let lo := off / 64 * 64
  let (r, s) := s.tierRead who lo (ceilDiv (off + len) 64 * 64 - lo) ecc
  (⟨slice r.data (off - lo) len, r.poison, off - lo⟩, s)

/-- Bytes written line by line: whole lines, and parts of lines at their ends. -/
def State.writeParts : Nat → Nat → List Byte → List Nat → State → State
  | 0, _, _, _, s => s
  | n + 1, off, data, po, s =>
    let k := min (64 - off % 64) data.length
    State.writeParts n (off + k) (data.drop k) (nextLines po)
      (if k = 64 then s.writeLine off (data.take k) (po.contains 0) else s.pokeLine off (data.take k))

/-- A write of any bytes at once: whole lines as lines, others part by part. -/
def State.writeSpan (s : State) (off : Nat) (data : List Byte) (poison : List Nat) : State :=
  if off % 64 = 0 ∧ data.length % 64 = 0 then State.writeLines (data.length / 64) off data poison s
  else State.writeParts (ceilDiv (off % 64 + data.length) 64) off data poison s

/-- The host physical address of a Tier 3 offset (R207). -/
def State.t3Host (s : State) (off : Nat) : Nat := s.get2 R.memT3HostGibLo R.memT3HostGibHi * 2 ^ 30 + (off - TIER3)

/-- Bytes written to host memory, each poisoned line with the CXL poison indication (R221, R399). -/
def State.hostPut (s : State) (addr : Nat) (data : List Byte) (poison : List Nat) : State :=
  if poison.isEmpty then s.emit (.hostWrite addr data false)
  else (List.range (ceilDiv data.length 64)).foldl (fun (s : State) i =>
    s.emit (.hostWrite (addr + 64 * i) (slice data (64 * i) 64) (poison.contains i))) s

/-- A write at once or held until it need not wait; into the Tier 3 window it goes to host memory while the link is up (R207,
R398). -/
def State.tierWrite (s : State) (off : Nat) (data : List Byte) (poison : List Nat) : State :=
  let s := s.touch off data.length
  if tierOf off = 3 then
    if s.get R.hostLinkRate = 0 ∨ s.t3Bytes < off - TIER3 + data.length then s
    else s.hostPut (s.t3Host off) data poison
  else if s.mustWait true off data.length then
    s.setMem { s.mem with waiting := s.mem.waiting ++ [.write off data poison (s.heldSince (s.resyncing off data.length))] }
  else s.writeSpan off data poison

/-- A write that a step makes (R223). -/
def State.stepWrite (s : State) (a : Option ActiveAct) (off : Nat) (data : List Byte) (poison : List Nat) : State :=
  (s.stepTouch a off data.length).tierWrite off data poison

/-- What is kept for one step (R231, R268, R296): groups that have raised FROZEN DROP, regions that have raised ALLOTMENT FULL, ranges
that a PERMUTE and updates have written. -/
def State.forgetStep (s : State) : State :=
  let s : State := { s with upd := { s.upd with frozenRaised := [] } }
  s.setMem { s.mem with permuted := [], updated := [], regions := s.mem.regions.map fun r => { r with fullRaised := false } }

/-! ## Shards of parameter groups (R268, R284, R299) -/

/-- Moments a rule keeps. -/
def UGroup.hasM (g : UGroup) : Bool := decide (2 ≤ g.rule)
def UGroup.hasV (g : UGroup) : Bool := decide (g.rule = 3) || (decide (g.rule = 8) && decide (g.fallback = 3))

/-- The ranges of a group's shard: (offset, bytes). -/
def UGroup.places (g : UGroup) : List (Nat × Nat) :=
  let n := g.shardLen
  let block := fun (f : Byte) => if fmtBlock f = 0 then 0 else n / fmtBlock f
  [(g.master, 4 * n)] ++ (if g.hasM then [(g.mom1, n + n / 32)] else []) ++ (if g.hasV then [(g.mom2, n + n / 32)] else []) ++
    (if g.workEn then [(g.work, planeBytes g.workFmt n + block g.workFmt)] else [])

def overlaps (a la b lb : Nat) : Bool := decide (0 < la ∧ 0 < lb ∧ a < b + lb ∧ b < a + la)

/-- Those of some written ranges that lie in a shard in which a range lies too. -/
def State.inShardOf (s : State) (x : Nat × Nat) (l : List (Nat × Nat)) : List (Nat × Nat) :=
  let meets := fun (a b : Nat × Nat) => overlaps a.1 a.2 b.1 b.2
  let shards := s.upd.groups.filter fun g => g.valid && g.places.any (meets x)
  l.filter fun y => shards.any fun g => g.places.any (meets y)

/-- Undefined data in ranges of the pending version. -/
def State.spoilRanges (s : State) (l : List (Nat × Nat)) : State :=
  l.foldl (fun (s : State) x =>
    let (b, s) := s.drawBytes x.2
    s.tierWrite x.1 b []) s

/-- A PERMUTE writes a range, or an update does (`upd`): where the other has written the same shard in this step, the data of both is
undefined (R268). -/
def State.shardWrite (s : State) (upd : Bool) (a : Option ActiveAct) (off : Nat) (data : List Byte) : State :=
  let x := (off, data.length)
  let other := s.inShardOf x (if upd then s.mem.permuted else s.mem.updated)
  let s := s.setMem (if upd then { s.mem with updated := s.mem.updated ++ [x] } else { s.mem with permuted := s.mem.permuted ++ [x] })
  if other.isEmpty then s.stepWrite a off data []
  else
    let (b, s) := (s.spoilRanges other).drawBytes data.length
    s.stepWrite a off b []

/-- Lines copied between physical offsets, read as any line is (R219 to R223): one that fails or carries a poison mark leaves a poisoned
one; `off` is the logical offset of the first. -/
def State.copyLines (off src dst : Nat) : Nat → State → State
  | 0, s => s
  | n + 1, s =>
    let (b, bad, s) := s.readLine ctlReader off src
    State.copyLines (off + 64) (src + 64) (dst + 64) n (s.putLine dst b bad)

/-- Copy one 4 KiB page of a range from its committed copy into its pending one (R306). -/
def State.copyPage (s : State) (r : VRange) (page : Nat) : State :=
  let off := page * 4096
  State.copyLines off (r.committed + (off - r.base)) (r.pending + (off - r.base)) 64 (s.touch off 4096)

/-- The bytes of a table wholly in Tiers 1 and 2 (R497). -/
def inTiers12 (off len : Nat) : Bool := decide (off + len ≤ TIER3)

/-- Zero a tier (R215, R442): no poison, no compressed page. -/
def State.zeroTier (s : State) (tier : Nat) : State :=
  let (lo, hi) := if tier = 1 then (0, TIER2) else (TIER2, TIER3)
  s.setMem { s.mem with
    bytes := Memory.clear s.mem.bytes lo hi,
    poison := s.mem.poison.filter fun l => decide (64 * l < lo) || decide (hi ≤ 64 * l),
    errs := s.mem.errs.filter fun e => decide (64 * e.1 < lo) || decide (hi ≤ 64 * e.1),
    stale := s.mem.stale.filter fun r => decide (r.1 < lo) || decide (hi ≤ r.1),
    regions := s.mem.regions.map fun r => if r.tier2 = (tier == 2) then { r with map := [], drawn := [], undef := false, loose := false } else r }

/-! ## Trace (R174 to R177) -/

/-- The bytes of a trace record (R176). -/
def State.traceBytes (s : State) (type : Nat) (tag : Word) (place : Nat) (act d0 d1 : Nat) : List Byte :=
  wordsLe [s.time.toNat % 2 ^ 32, s.time.toNat / 2 ^ 32, tag.toNat, place + type * 2 ^ 20, act % 2 ^ 16,
    s.stepCount % 2 ^ 32, d0 % 2 ^ 32, d1 % 2 ^ 32]

/-- A trace record, when tracing is on and its type is enabled. It waits for the traffic of the commands to leave room (log 96). -/
def State.trace (s : State) (type : Nat) (tag : Word) (place : Nat) (act d0 d1 : Nat) : State :=
  if s.flagReg R.cmdTraceCtrlEn && bitAt (s.get R.cmdTraceCtrlTypes) (type - 1) then
    { s with traced := s.traced ++ [s.traceBytes type tag place act d0 d1] }
  else s

/-- A record that waited goes to the ring, unless the ring is full and stops (R174). -/
def State.traceWrite (s : State) (b : List Byte) : State :=
  let size := 2 ^ s.get R.cmdTraceSize
  let wr := s.get2 R.cmdTraceWrptrLo R.cmdTraceWrptrHi
  if wr + 32 > size ∧ s.flagReg R.cmdTraceCtrlStopOnFull then s
  else
    let wr := if wr + 32 > size then 0 else wr
    let s := s.tierWrite (s.get2 R.cmdTraceBaseLo R.cmdTraceBaseHi + wr) b []
    let wr := if wr + 32 = size ∧ !s.flagReg R.cmdTraceCtrlStopOnFull then 0 else wr + 32
    s.set2 R.cmdTraceWrptrLo R.cmdTraceWrptrHi wr

/-- Every record that waits goes to the ring, in order. -/
def State.traceOut (s : State) : State := s.traced.foldl State.traceWrite { s with traced := [] }

/-- Word 3 of a trace record for a command (R176). -/
def tracePlace (cell core queue group : Nat) : Nat := cell + core * 2 ^ 7 + queue * 2 ^ 12 + group * 2 ^ 16

/-- Word 3 of a module-level record (R176). -/
def traceModule : Nat := 2 ^ 15

end Sys2Proof.Machine
end

