-- ==== Sys2Proof/Machine/Engine.lean ====
section
/-! DEFINITION. Issue of an engine command (R152, R155 to R157), refusal (R113, R132), and the windows of commands in flight: what
a wrong count makes undefined (R105, R107, R116, R122, R139, R166, R495) and what check mode reports (R167 to R169). -/

namespace Sys2Proof.Machine

open Sys2Proof

/-! ## Regions and windows -/

def Region.meets (a b : Region) : Bool :=
  decide (a.space = b.space) && a.unit == b.unit && decide (a.lo < b.lo + b.len) && decide (b.lo < a.lo + a.len)

/-- The common part of two regions that meet. -/
def Region.inter (a b : Region) : Region :=
  let lo := max a.lo b.lo
  { a with lo := lo, len := min (a.lo + a.len) (b.lo + b.len) - lo }

def lsRegion (cell core lo len : Nat) : Region := ⟨.ls, cell * 32 + core, lo, len⟩
def csRegion (cell lo len : Nat) : Region := ⟨.cs, cell, lo, len⟩
/-- Accumulator bytes: tile × 2,048 + element × 4 (R182 HAZ_ADDR). -/
def accRegion (cell core elem n : Nat) : Region := ⟨.acc, cell * 32 + core, elem * 4, n * 4⟩
/-- Bytes of a tier, by physical offset. -/
def tierRegion (ph len : Nat) : Region := ⟨.tier, 0, ph, len⟩
def ftqRegion (cell core seq : Nat) : Region := ⟨.ftq, cell * 32 + core, seq, 1⟩

/-- The private tile whose first write falls at a cycle (R124). -/
def privRegion (cell core first : Nat) : Region := ⟨.priv, cell * 32 + core, first, 1⟩

def freeWords (k n : Nat) : List Word := (List.range n).map fun i => Config.freeWord (k + i)

/-- Physical regions of a run of tier bytes, for a read or a write (R305): page by page where a versioned range is met. -/
def State.tierRegions (s : State) (write : Bool) (off len : Nat) : List Region :=
  if s.mem.ranges.any fun r => decide (r.base < off + len ∧ off < r.base + r.len) then
    (List.range ((off + len - 1) / 4096 + 1 - off / 4096)).map fun i =>
      let lo := max off ((off / 4096 + i) * 4096)
      tierRegion (s.place write lo) (min (off + len) ((off / 4096 + i + 1) * 4096) - lo)
  else [tierRegion off len]

/-- The windows in the tiers stand beside those of the 128 cells, under this number. -/
def TIERS : Nat := 128

/-- The cell a region lies in. -/
def Region.cell (r : Region) : Nat :=
  match r.space with
  | .cs => r.unit
  | .tier => TIERS
  | _ => r.unit / 32

/-- Undefined data in a region (R16). -/
def State.scramble (s : State) (r : Region) : State :=
  match r.space with
  | .ls =>
    let (b, s) := s.drawBytes r.len
    s.lsWrite (r.unit / 32) (r.unit % 32) r.lo b
  | .cs =>
    let (b, s) := s.drawBytes r.len
    s.csWrite r.unit r.lo b
  | .acc =>
    let n := r.len / 4
    let w := freeWords s.free n
    ({ s with free := s.free + n }).accWrite (r.unit / 32) (r.unit % 32) (r.lo / 4) w
  | .ftq =>
    let k := s.core (r.unit / 32) (r.unit % 32)
    let w := freeWords s.free 512
    ({ s with free := s.free + 512 }).setCore (r.unit / 32) (r.unit % 32)
      { k with ftq := k.ftq.map fun (e : FtqEntry) => if e.seq = r.lo then { e with bits := w } else e }
  | .priv =>
    let k := s.core (r.unit / 32) (r.unit % 32)
    let w := freeWords s.free 512
    ({ s with free := s.free + 512 }).setCore (r.unit / 32) (r.unit % 32)
      { k with priv := k.priv.map fun (p : PrivTile) => if p.first = r.lo then { p with bits := w } else p }
  | .tier => s

def State.scrambleAll (s : State) (l : List Region) : State := l.foldl State.scramble s

/-- What `n` places hold after two writes whose windows meet: where both fall in one cycle, one of the two values (R105, R107);
else, within the windows, undefined (R116, R495). Which holds of a place is not specified, so it is drawn. -/
def mixed {α : Type} (k n : Nat) (later earlier free : Nat → α) : List α :=
  (List.range n).map fun i =>
    if Config.freeBool (k + 2 * i) then (if Config.freeBool (k + 2 * i + 1) then later i else earlier i) else free (k + 2 * i)

/-- Two writes have met in a region: `old` holds the earlier one's values, `s` the later one's. -/
def State.mix (old s : State) (r : Region) : State :=
  let t : State := { s with free := s.free + 2 * r.len }
  let c := r.unit / 32
  let k := r.unit % 32
  match r.space with
  | .ls => t.lsWrite c k r.lo
      (mixed s.free r.len (fun i => s.lsByte c k (r.lo + i)) (fun i => old.lsByte c k (r.lo + i)) Config.freeByte)
  | .cs => t.csWrite r.unit r.lo
      (mixed s.free r.len (fun i => s.csByte r.unit (r.lo + i)) (fun i => old.csByte r.unit (r.lo + i)) Config.freeByte)
  | .acc =>
    let e := r.lo / 4
    t.accWrite c k e (mixed s.free (r.len / 4) (fun i => s.accGet c k (e + i)) (fun i => old.accGet c k (e + i)) Config.freeWord)
  | _ => s.scramble r

/-- A region keeps what `old` holds: the earlier command, which writes after the later one has written, has the last word. -/
def State.keep (old s : State) (r : Region) : State :=
  let c := r.unit / 32
  let k := r.unit % 32
  match r.space with
  | .ls => s.lsWrite c k r.lo (old.lsRead c k r.lo r.len)
  | .cs => s.csWrite r.unit r.lo (old.csRead r.unit r.lo r.len)
  | .acc => s.accWrite c k (r.lo / 4) ((List.range (r.len / 4)).map fun i => old.accGet c k (r.lo / 4 + i))
  | _ => s

/-- Pairs of regions that meet, as their common parts. -/
def meetsOf (a b : List Region) : List Region :=
  a.flatMap fun x => b.filterMap fun y => if x.meets y then some (x.inter y) else none

/-- A region as check mode tracks it (R168): whole 64-byte lines, and whole queue entries. -/
def Region.wide (r : Region) : Region :=
  match r.space with
  | .ftq | .priv => r
  | _ => if r.len = 0 then r else { r with lo := r.lo / 64 * 64, len := (ceilDiv (r.lo + r.len) 64 - r.lo / 64) * 64 }

/-- Two commands of one engine of one core. -/
def Win.sameEngine (a b : Win) : Bool := a.cell == b.cell && a.core == b.core && a.eng == b.eng && decide (a.eng < 4)

/-- The cells a command's windows lie in, its own first. -/
def Win.cells (x : Win) : List Nat := (x.cell :: (x.reads ++ x.writes).map Region.cell).eraseDups

/-- The reader that a wait makes see a flag (R162, R253): a core, or a communication queue. -/
def Win.reader (x : Win) : Nat :=
  match x.op with
  | some (.comm g) => 4096 + g
  | _ => x.cell * 32 + x.core

/-- Command `x` reads before what `w` writes has completed, or before a wait of its core has seen the flag (R122, R166, R168
kinds 0 and 3). -/
def readsEarly (w x : Win) : Bool :=
  match w.flagged with
  | none => decide (x.issue < w.visible) && (decide (w.issue ≤ x.issue) || decide (w.wrFrom ≤ x.rdUntil))
  | some _ => decide (w.issue ≤ x.rdUntil) && !(w.landed && w.seen.contains x.reader)

/-- Command `x` writes into the read window of `w` (R116, R139, R495; R168 kind 1). A flagged command reads until it has landed. -/
def writesIntoRead (w x : Win) : Bool :=
  if w.flagged.isSome then !w.landed else decide (w.issue < x.visible ∧ x.wrFrom ≤ w.rdUntil)

/-- A RELEASE takes an entry before a reader of it has completed (R145). -/
def releasesEarly (w x : Win) : Bool := decide (w.issue ≤ x.issue ∧ x.issue < w.visible)

/-- What `x` writes too early of what `w` reads: a queue entry before the reader completes, anything else inside the read window,
which one engine's own commands never do. -/
def warOf (meet : List Region → List Region → List Region) (w x : Win) : List Region :=
  (meet x.writes w.reads).filter fun r =>
    if r.space = .ftq then releasesEarly w x else writesIntoRead w x && !w.sameEngine x

/-- The write windows of `x` and `w` meet (R105, R107, R116, R495). A flagged command writes until it has landed. -/
def writesTogether (w x : Win) : Bool :=
  if w.flagged.isSome then !w.landed else decide (w.wrFrom < x.visible ∧ x.wrFrom < w.visible)

/-- `x`, the later command, completes before `w` (R168 kind 2). -/
def completesFirst (w x : Win) : Bool := w.flagged.isNone && x.flagged.isNone && decide (x.visible < w.visible)

/-- What `x` writes together with `w`: of one engine's own commands only where the later one completes first. -/
def wawOf (meet : List Region → List Region → List Region) (w x : Win) : List Region :=
  if writesTogether w x && (!w.sameEngine x || completesFirst w x) then meet x.writes w.writes else []

/-- What `x`, which has written before `w` begins to write, leaves to `w`. -/
def lastWordOf (meet : List Region → List Region → List Region) (w x : Win) : List Region :=
  if !writesTogether w x && completesFirst w x then meet x.writes w.writes else []

/-- 64-byte lines of a region, and queue entries (R168). -/
def Region.lines (r : Region) : List Nat :=
  if r.len = 0 then []
  else match r.space with
    | .ftq | .priv => [r.lo % 8]
    | .tier => []
    | _ => (List.range ((r.lo + r.len - 1) / 64 - r.lo / 64 + 1)).map fun i => (r.lo / 64 + i) * 64

def Space.code : Space → Nat
  | .ls => 0
  | .acc => 1
  | .cs => 2
  | .ftq | .priv | .tier => 3

/-- One hazard (R169): capture, count, event, verdict, trace. -/
def State.hazard (s : State) (kind : Nat) (a b : Win) (space : Space) (line : Nat) (act : Option ActiveAct) : State :=
  let (e, l) := if b.issue < a.issue then (b, a) else (a, b)
  let addr := line % 2 ^ 20 + space.code * 2 ^ 20
  let s := s.inc R.cmdHazCount 1
  let s :=
    if s.hazHeld then s
    else
      let s := (s.set R.cmdHazTagEarly e.tag.toNat).set R.cmdHazTagLate l.tag.toNat
      let s := ((s.set R.cmdHazWhereCell l.cell).set R.cmdHazWhereCore l.core).set R.cmdHazWhereKind kind
      let s := (s.set R.cmdHazWhereEngEarly e.eng).set R.cmdHazWhereEngLate l.eng
      let s := ((s.set R.cmdHazAddrOffset (line % 2 ^ 20)).set R.cmdHazAddrSpace (space.code % 2)).set
        R.cmdHazAddrSpaceHi (space.code / 2)
      { s with hazHeld := true }
  let s := s.raise 0x0205 pgCMD
    { tag := e.tag, tag2 := l.tag, cell := l.cell, core := l.core, queue := l.queue, detail := addr + kind * 2 ^ 22,
      act := act }
  let s := s.trace 6 l.tag (tracePlace l.cell l.core l.queue 0) ((act.map (·.desc.act)).getD 0) e.tag.toNat
    (addr + kind * 2 ^ 22)
  s.causeIn act vCOMMAND

/-- The hazards of two commands, one for each line. -/
def State.hazards (s : State) (kind : Nat) (a b : Win) (act : Option ActiveAct) (l : List Region) : State :=
  (l.flatMap fun r => r.lines.map fun n => (r.space, n)).eraseDups.foldl (fun s x => s.hazard kind a b x.1 x.2 act) s

/-- Regions that meet as check mode sees them. -/
def wideMeets (a b : List Region) : List Region := meetsOf (a.map Region.wide) (b.map Region.wide)

def State.checkMode (s : State) : Bool := s.flagReg R.cmdCheckEn

/-- The windows that lie in a cell, or in the tiers. -/
def State.winsOf (s : State) (cell : Nat) : List Win := if cell = TIERS then s.mem.wins else (s.cell cell).wins

def State.setWins (s : State) (cell : Nat) (l : List Win) : State :=
  if cell = TIERS then s.setMem { s.mem with wins := l } else s.setCell cell { s.cell cell with wins := l }

/-- A change to every window. -/
def State.mapWins (s : State) (f : Win → Win) : State :=
  { s with
    cells := s.cells.map fun c => (c.1, { c.2 with wins := c.2.wins.map f }), mem := { s.mem with wins := s.mem.wins.map f } }

def State.anyWin (s : State) (f : Win → Bool) : Bool := s.mem.wins.any f || s.cells.any fun c => c.2.wins.any f

/-- The windows of a flagged command have landed, in every cell that it touches; its flag has been incremented. -/
def State.landWins (s : State) (op : Owner) (f : FlagRef) : State :=
  let v := (s.flag f).value
  s.mapWins fun w => if w.op = some op ∧ !w.landed then { w with landed := true, value := v } else w

/-- A window of a flagged command under way was touched by another engine (R495). -/
def State.spoiledOp (s : State) (op : Owner) : Bool :=
  s.anyWin fun w => decide (w.op = some op) && w.spoiled && !w.landed

/-- An act's landed windows in the tiers end with it: what comes after it comes after its flags. -/
def State.dropTierWins (s : State) (rows : Nat) : State :=
  s.setMem { s.mem with wins := s.mem.wins.filter fun w => !(w.landed && bitAt rows (w.cell / 8)) }

/-- The part of a command's windows that lies in a cell, or in the tiers. -/
def Win.within (x : Win) (c : Nat) : Win :=
  { x with reads := x.reads.filter fun r => r.cell == c, writes := x.writes.filter fun r => r.cell == c }

/-- A window as another cell counts it: the act cycles of one act, or, where the cells are in different acts, from now on. -/
def State.rebase (s : State) (x : Win) (c : Nat) : Win :=
  if c = x.cell ∨ c = TIERS ∨ (s.actOfCell c).map (·.desc.act) = (s.actOfCell x.cell).map (·.desc.act) then x
  else
    let t := (s.cell c).cycle
    { x with issue := t, rdUntil := t, wrFrom := t, visible := t + 1 }

/-- The read regions that are undefined for command `x`. `skip` says which windows its reads may ignore (R117). -/
def earlyReads (ws : List Win) (x : Win) (skip : Win → Bool) : List Region :=
  ws.flatMap fun w => if skip w then [] else if readsEarly w x then meetsOf x.reads w.writes else []

/-- The read regions of a command that are undefined, in every cell that it touches and in the tiers. -/
def State.earlyOf (s : State) (x : Win) (skip : Win → Bool) : List Region :=
  x.cells.flatMap fun c => earlyReads (s.winsOf c) ((s.rebase x c).within c) skip

/-- What check mode reports of a command beside an earlier one (R168). -/
def State.scoreboard (s : State) (w x : Win) (skip : Win → Bool) (act : Option ActiveAct) : State :=
  if !s.checkMode then s
  else
    let s := if skip w || !readsEarly w x then s
      else s.hazards (if w.flagged.isSome then 3 else 0) w x act (wideMeets x.reads w.writes)
    (s.hazards 1 w x act (warOf wideMeets w x)).hazards 2 w x act (wawOf wideMeets w x ++ lastWordOf wideMeets w x)

/-- What a command's writes spoil of an earlier one: a flagged command under way as a whole, the results of any other whose source
they reach. -/
def State.spoilEarlier (s : State) (w x : Win) : State :=
  let war := warOf meetsOf w x
  if war.isEmpty ∧ (wawOf meetsOf w x).isEmpty then s
  else if w.op.isSome ∧ !w.landed then
    s.mapWins fun v => if v.op = w.op ∧ v.tag = w.tag ∧ !v.landed then { v with spoiled := true } else v
  else if war.isEmpty then s else s.scrambleAll w.results

/-- A command meets the windows of every cell it touches, each cell for what of both lies in it. -/
def State.conflicts (s : State) (x : Win) (skip : Win → Bool) (act : Option ActiveAct) : State :=
  x.cells.foldl (fun s c =>
    let y := (s.rebase x c).within c
    (s.winsOf c).foldl (fun s w => (s.scoreboard w y skip act).spoilEarlier w y) s) s

/-- A flagged command that writes together with another is spoiled itself (R495). -/
def State.meetsWrites (s : State) (x : Win) : Bool :=
  x.cells.any fun c => (s.winsOf c).any fun w => !(wawOf meetsOf w ((s.rebase x c).within c)).isEmpty

/-- What a command's written regions hold once it has written: `old` is the state before. A flagged command writes when it lands. -/
def State.spoilWrites (old s : State) (x : Win) : State :=
  if x.flagged.isSome then s
  else (s.winsOf x.cell).foldl (fun s w =>
    (lastWordOf meetsOf w x).foldl (State.keep old) ((wawOf meetsOf w x).foldl (State.mix old) s)) s

/-- A command enters the windows of every cell it touches: in each stands what lies in it. -/
def State.addWin (s : State) (x : Win) : State :=
  x.cells.foldl (fun s c => s.setWins c (s.winsOf c ++ [(s.rebase x c).within c])) s

/-! ## Queues -/

def CoreSt.queue (k : CoreSt) : Nat → EngQ
  | 0 => k.mat
  | 1 => k.vec
  | 2 => k.mov
  | _ => k.syn

def CoreSt.setQueue (k : CoreSt) (q : Nat) (e : EngQ) : CoreSt :=
  match q with
  | 0 => { k with mat := e }
  | 1 => { k with vec := e }
  | 2 => { k with mov := e }
  | _ => { k with syn := e }

/-- What one engine command would do at issue cycle `t`: occupancy, what it reads and until when (`more`: regions with a read
window of their own), what it writes and when. -/
structure Plan where
  refuse  : Option Nat
  detail  : Nat := 0
  addr    : Option Nat := none
  occ     : Nat → Nat
  reads   : List Region := []
  rdUntil : Nat → Nat := fun t => t
  more    : List (Region × (Nat → Nat)) := []
  writes  : List Region := []
  results : Nat → List Region := fun _ => writes
  wrFrom  : Nat → Nat := fun t => t
  visible : Nat → Nat
  flagged : Option FlagRef := none
  eng     : Nat
  skip    : Win → Bool := fun _ => false

/-- A command as it runs: issue cycle, act, and the state as it reads it (undefined where it reads early). -/
structure Run where
  t    : Nat
  act  : ActiveAct
  view : State
  win  : Win

/-- An event of late issue is raised once per act and cell (R156, R157). -/
def State.raiseOnce (s : State) (a : ActiveAct) (cell code : Nat) (e : EvInfo) : State :=
  match s.acts.find? fun b => decide (b.desc.act = a.desc.act) with
  | none => s
  | some b =>
    if b.once.contains (cell, code) then s
    else (s.setAct { b with once := b.once ++ [(cell, code)] }).raise code (pgCELL cell) e

/-- The head of the queue leaves it (R152): its arrival cycle (0 where it stood there before act cycle 0). A command behind the
head, or not in the queue yet, does not. -/
def EngQ.take (e : EngQ) (tag : Word) : Option (Nat × EngQ) :=
  match e.held with
  | (g, a) :: l => if g = tag then some (a, { e with held := l }) else none
  | [] => none

/-- Late issue (R156): counted by its cause, verdict bad, event once per act and cell, trace. -/
def State.late (s : State) (a : ActiveAct) (i : Issue) (q t due avail free : Nat) : State :=
  let info : EvInfo := { tag := i.tag, cell := i.cell, core := i.core, queue := q, act := some a }
  let place := tracePlace i.cell i.core q 0
  let s :=
    if due < avail then
      let s := s.inc (R.cellStarved i.cell) (avail - due)
      let s := s.raiseOnce a i.cell 0x0206 { info with detail := avail - due }
      (s.trace 7 i.tag place a.desc.act t due).causeIn (some a) vCOMMAND
    else s
  let from_ := max due avail
  if from_ < free then
    let s := s.inc (R.cellSlip i.cell) (free - from_)
    let s := s.raiseOnce a i.cell 0x0207 { info with detail := free - from_ }
    (s.trace 8 i.tag place a.desc.act t due).causeIn (some a) vCOMMAND
  else s

/-- A refused command: no effect, event with its tag, count, verdict; STORE RANGE unless another rule names another event (R59,
R80, R113, R208, R246, R290). -/
def State.refuseCmd (s : State) (a : Option ActiveAct) (i : Issue) (q code detail : Nat) (addr : Option Nat) : State :=
  let info : EvInfo :=
    { tag := i.tag, cell := i.cell, core := i.core, queue := q, act := a, detail := detail, addr := addr }
  let s := match code with
    | 0x0108 => s.raise code pgCUE info
    | 0x0201 => (s.inc (R.cellStoreRange i.cell) 1).raise code pgCMD { info with severe := true }
    | 0x0303 => (s.inc R.memWindowRange 1).raise code pgMEM info
    | 0x0504 => ((s.inc R.collRefused 1).set R.collRefusedLast detail).raise code pgCOLL info
    | 0x0622 => ((s.inc R.updRefused 1).set R.updRefusedLast detail).raise code pgUPD info
    | _ => (s.inc (R.cellStoreRange i.cell) 1).raise code (pgCELL i.cell) info
  s.causeIn a vCOMMAND

/-- A cell reaches an act cycle: the counts of what has completed before it are made (R148). -/
def State.reach (s : State) (cell t : Nat) : State :=
  let now := max (s.cell cell).cycle t
  let s := s.settle cell now
  s.setCell cell { s.cell cell with cycle := now }

/-- Issue one command of queue `q` (R152 to R157): it leaves the head of its queue, takes its gate opening, issues at its due cycle
or late, holds its engine, and, unless refused, enters the windows and has its effect. A command whose act is not active, whose
core discards, that is not at the head of its queue, or whose gate has no opening does not issue: it stands where it is. -/
def State.issue (s : State) (q : Nat) (i : Issue) (plan : State → Nat → Plan) (onRefuse : ActiveAct → State → State)
    (eff : Run → State → State) : State :=
  match s.actOfCell i.cell with
  | none => s
  | some a =>
    let k := s.core i.cell i.core
    if !s.dataOn ∨ k.discarded ∨ (k.wait.isSome ∧ q = 3) then s
    else
      let e := k.queue q
      if i.gate ∧ q ≠ 3 ∧ e.gates.isEmpty then s
      else
        match e.take i.tag with
        | none => s
        | some (avail, e) =>
        let e := if i.gate ∧ q ≠ 3 then { e with base := e.gates.headD 0, gates := e.gates.drop 1 } else e
        let due := e.base + i.offset
        let t := max due (max avail e.free)
        let p := plan s t
        let badGate : Bool := i.gate && q == 3
        let occ := if badGate then 1 else p.occ t
        let sampled := (s.get R.cmdTraceSample) ≤ 1 ∨ e.issued % s.get R.cmdTraceSample = 0
        let e := { e with free := t + occ, issued := e.issued + 1,
                          lastDone := max e.lastDone (if p.refuse.isSome || badGate then t + occ else p.visible t) }
        let s := (s.setCore i.cell i.core (k.setQueue q e)).reach i.cell t
        let s := s.late a i q t due avail (k.queue q).free
        let s := if sampled then s.trace 3 i.tag (tracePlace i.cell i.core q 0) a.desc.act t due else s
        let s := if q = 0 then s.inc (R.cellMatrixBusy i.cell) occ
          else if q = 1 then s.inc (R.cellVecBusy i.cell) occ else s
        match (if badGate then some 0x0202 else p.refuse) with
        | some code => onRefuse a (s.refuseCmd (some a) i q code p.detail p.addr)
        | none =>
          let w : Win :=
            { tag := i.tag, op := if p.flagged.isSome then some (.mover s.nextReq) else none, eng := p.eng, cell := i.cell, core := i.core, queue := q, issue := t, reads := p.reads,
              rdUntil := p.rdUntil t, writes := p.writes, wrFrom := p.wrFrom t, visible := p.visible t,
              flagged := p.flagged, landed := false, spoiled := false, results := p.results t, value := 0, seen := [] }
          let extra := p.more.map fun m => { w with reads := [m.1], rdUntil := m.2 t, writes := [] }
          let early := (w :: extra).flatMap fun x => s.earlyOf x p.skip
          let view := s.scrambleAll early
          let s := { s with free := view.free }
          let w := { w with spoiled := !early.isEmpty || (w.flagged.isSome && s.meetsWrites w) }
          let s := (w :: extra).foldl (fun s x => s.conflicts x p.skip (some a)) s
          let s := State.spoilWrites s (eff { t := t, act := a, view := view, win := w } s) w
          (w :: extra).foldl (fun s x => if x.reads.isEmpty ∧ x.writes.isEmpty then s else s.addWin x) s

end Sys2Proof.Machine
end

