-- ==== Sys2Proof/Machine/Operands.lean ====
section
/-! DEFINITION. Operand forms of the engines: elements of a tensor in the local store with their block or tensor scales (R75, R77,
R82, R112), accumulator and queue elements, broadcasts and immediates (R130), and writing elements into a destination
(R131, R138) with its rounding (R88, R89) and its scale slot (R187). -/

namespace Sys2Proof.Machine

open Sys2Proof

/-- One element as a source supplies it: its format byte, its code, its exact value. -/
structure Elem where
  fmt  : Byte
  code : Nat
  val  : Num
  deriving DecidableEq, Repr, Inhabited

/-- Bytes of a store from an address on. -/
def lsFrom (v : State) (cell core a : Nat) : Nat → Byte := fun i => v.lsByte cell core (a + i)
def csFrom (v : State) (cell a : Nat) : Nat → Byte := fun i => v.csByte cell (a + i)

/-- The F32 scale word of a tensor-scaled operand (R77, R112). -/
def tensorScale (v : State) (cell core : Nat) (fmt : Byte) (scl : Nat) : Num :=
  if fmtTensorScaled fmt then f32 (BitVec.ofNat 32 (leNat (v.lsRead cell core scl 4))) else .ofNat 1

/-- `n` elements from a plane `rd` with scale bytes `sc`. -/
def elemsOf (fmt : Byte) (rd sc : Nat → Byte) (ts : Num) (n : Nat) : List Elem :=
  (readValues fmt rd sc ts n).zipIdx.map fun p => ⟨fmt, elemCode fmt rd p.2, p.1⟩

/-- `n` elements of a local-store tensor. -/
def lsElems (v : State) (cell core addr : Nat) (fmt : Byte) (scl n : Nat) : List Elem :=
  elemsOf fmt (lsFrom v cell core addr) (lsFrom v cell core scl) (tensorScale v cell core fmt scl) n

def f32Elem (w : Word) : Elem := ⟨0x00, w.toNat, f32 w⟩

/-- `n` accumulator elements from element `e` on. -/
def accElems (v : State) (cell core e n : Nat) : List Elem :=
  (List.range n).map fun i => f32Elem (v.accGet cell core (e + i))

/-- Scale bytes that `n` elements of a block format have. -/
def scaleBytes (fmt : Byte) (n : Nat) : Nat :=
  if fmtBlock fmt ≠ 0 then ceilDiv n (fmtBlock fmt) else if fmtTensorScaled fmt then 4 else 0

/-- Regions of a local-store tensor of `n` elements: its plane and its scales. -/
def lsRegions (cell core addr : Nat) (fmt : Byte) (scl n : Nat) : List Region :=
  lsRegion cell core addr (planeBytes fmt n) ::
    (if scaleBytes fmt n = 0 then [] else [lsRegion cell core scl (scaleBytes fmt n)])

/-- Inside the local store. -/
def lsInside (addr len : Nat) : Bool := decide (addr + len ≤ LSBYTES)

/-- An operand format byte that a command carries: F21 has no memory form and is STORE RANGE (R112); any other invalid byte is
FORMAT INVALID at run time (R80, R462). -/
def fmtRefuse (b : Byte) : Option Nat :=
  if b.toNat % 16 = 7 then some 0x0202 else if fmtValid b then none else some 0x0201

/-- DETAIL of FORMAT INVALID for a command at run time (R462). -/
def fmtDetail (b : Byte) : Nat := b.toNat + 3 * 2 ^ 8

/-- The bits a destination tensor may take: the scale word or bytes inside the store, words aligned (R112, R187). -/
def sclOk (fmt : Byte) (scl n : Nat) : Bool :=
  scaleBytes fmt n == 0 || (scl % 4 == 0 && lsInside scl (scaleBytes fmt n))

/-- What R187 refuses: a slot that cannot take the conversion. -/
def State.slotRefused (s : State) (fmt : Byte) (slot : Nat) : Bool :=
  if slot = 0xFFF then fmtTensorScaled fmt
  else if s.get R.scaleSlots ≤ slot then true
  else match s.scale.slots[slot]? with
    | none => true
    | some x =>
      if !x.valid then true
      else if fmtTensorScaled fmt then
        match s.scale.recipes[x.recipe]? with
        | none => true
        | some r => decide (bitsOf r.fmt.toNat 0 6 ≠ bitsOf fmt.toNat 0 6)
      else false

/-- The rounding seed a command names (R89): entry `seed` of its program's seed table; a free value of the image and the index where
the table has no such entry. -/
def State.seedOf (s : State) (a : ActiveAct) (seed : Nat) : Nat :=
  let p := s.prog a.desc.program
  match p.bind fun p => p.seeds[seed]? with
  | some d => d.toNat
  | none => (Config.missingSeed ((p.map Program.image).getD []) seed).toNat

/-- The rounding of element `k` of a command (R89): committed-step count, pass and FIRST. -/
def State.rounding (s : State) (a : ActiveAct) (fmt : Byte) (seed pass first : Nat) (k : Nat) : RMode :=
  roundOf fmt (s.seedOf a seed) s.stepCount pass (first + k)

/-- Elements encoded for a destination format (R83, R135): an element whose source is the same unscaled format keeps its bits
when `raw` is set. -/
def encodeElems (fmt : Byte) (ts : Num) (m : Nat → RMode) (raw : Bool) (l : List Elem) : Encoded :=
  let e := encodeValues fmt ts m (l.map (·.val))
  if raw ∧ fmtScaling fmt = 0 then
    { e with codes := (e.codes.zip l).map fun p =>
        if bitsOf p.2.fmt.toNat 0 6 = bitsOf fmt.toNat 0 6 then p.2.code else p.1 }
  else e

/-- Write an encoded tensor into the local store: its plane, and its scale bytes where it has them. -/
def State.putLs (s : State) (cell core addr : Nat) (fmt : Byte) (scl : Nat) (e : Encoded) : State :=
  let s := s.lsWrite cell core addr (packCodes fmt (lsFrom s cell core addr) e.codes)
  if fmtBlock fmt ≠ 0 then s.lsWrite cell core scl (e.e8.map (BitVec.ofNat 8)) else s

end Sys2Proof.Machine
end

