-- ==== Sys2Proof/Machine/Vector.lean ====
section
/-! DEFINITION. The vector engine (R129 to R147): sources, operations, destinations, reductions, queue-head streams, and what RELEASE
needs of them. -/

namespace Sys2Proof.Machine

open Sys2Proof

/-- The operations of R134. -/
inductive VOp where
  | add | mul | fma | min | max
  | cmpLt | cmpLe | cmpEq | cmpGe | cmpGt | cmpNe
  | sel | cvt | mant | expo | scale2
  | redSum | redMax | redMin | redAmax
  deriving DecidableEq, Repr

def VOp.isRed : VOp → Bool
  | .redSum => true
  | .redMax => true
  | .redMin => true
  | .redAmax => true
  | _ => false

/-- Operations whose a and b pass straight from source to destination (R135). -/
def VOp.straight : VOp → Bool
  | .sel => true
  | .cvt => true
  | _ => false

/-- The sources an operation takes (R134). -/
def VOp.sources (o : VOp) (f : VecFields) : List Operand :=
  match o with
  | .add | .mul | .min | .max | .cmpLt | .cmpLe | .cmpEq | .cmpGe | .cmpGt | .cmpNe | .scale2 => [f.a, f.b]
  | .fma => [f.a, f.b, f.c]
  | .sel => [f.a, f.b, f.c]
  | .cvt | .mant | .expo | .redSum | .redMax | .redMin | .redAmax => [f.a]

/-- Operations that may carry NEG and ABS (R134): those that R91 calls arithmetic. -/
def VOp.arith : VOp → Bool
  | .add | .mul | .fma | .scale2 => true
  | _ => false

def Src.isLs : Src → Bool
  | .ls _ _ _ => true
  | _ => false

def Src.isAcc : Src → Bool
  | .acc _ _ => true
  | _ => false

def Src.isQueue : Src → Bool
  | .queue _ => true
  | _ => false

def Src.pops : Src → Bool
  | .queue p => p
  | _ => false

/-- The oldest pushed entry that no command has claimed (R143). -/
def CoreSt.oldest (k : CoreSt) : Option FtqEntry := k.ftq.find? fun e => decide (e.state = .pushed)

def isWing (cell : Nat) : Bool := decide (cell < 8)

/-- The push format now: H16 or F32 (R124). -/
def State.ftqH16 (s : State) (cell core : Nat) : Bool :=
  match (s.core cell core).oldest with
  | some e => e.h16
  | none => s.flagReg (R.cellFtqConv cell)

/-- The limits of one source (R130): refusal code and DETAIL. -/
def srcRefuse (cell n : Nat) : Src → Option Nat × Nat
  | .none => (some 0x0202, 0)
  | .ls addr fmt scl =>
    match fmtRefuse fmt with
    | some c => (some c, if c = 0x0201 then fmtDetail fmt else 0)
    | none => (if addr % 64 = 0 ∧ lsInside addr (planeBytes fmt n) ∧ sclOk fmt scl n then none else some 0x0202, 0)
  | .acc tile elem =>
    (if !isWing cell ∧ tile ≤ 15 ∧ elem < 512 ∧ tile * 512 + elem + n ≤ 8192 then none else some 0x0202, 0)
  | .queue _ => (if isWing cell ∧ n ≤ 512 then none else some 0x0202, 0)
  | .bcast addr fmt scl p r =>
    match fmtRefuse fmt with
    | some c => (some c, if c = 0x0201 then fmtDetail fmt else 0)
    | none =>
      (if addr % 4 = 0 ∧ (p = 1 ∨ p = 16 ∨ p = 32) ∧ (r = 1 ∨ r = 16) ∧ lsInside addr (planeBytes fmt p) ∧
          sclOk fmt scl p then none else some 0x0202, 0)
  | .imm _ => (none, 0)

/-- The limits of a destination of `m` elements (R131, R187). -/
def dstRefuse (s : State) (cell m slot : Nat) : Dst → Option Nat × Nat
  | .ls addr fmt scl =>
    match fmtRefuse fmt with
    | some c => (some c, if c = 0x0201 then fmtDetail fmt else 0)
    | none =>
      (if addr % 64 = 0 ∧ lsInside addr (planeBytes fmt m) ∧
          (scaleBytes fmt m = 0 ∨ (lsInside scl (scaleBytes fmt m) ∧ (fmtTensorScaled fmt → scl % 4 = 0))) ∧
          !s.slotRefused fmt slot then none else some 0x0202, 0)
  | .acc tile elem =>
    (if !isWing cell ∧ tile ≤ 15 ∧ elem < 512 ∧ tile * 512 + elem + m ≤ 8192 ∧ !s.slotRefused 0x00 slot
      then none else some 0x0202, 0)

def bcastBytes : Src → Nat
  | .bcast _ fmt _ p _ => planeBytes fmt p
  | _ => 0

def badN (n : Nat) : Bool := decide (n < 1 ∨ 8192 < n)

/-- Results of an operation: n, or one for each segment (R146). -/
def resultCount (o : VOp) (f : VecFields) : Nat := if o.isRed then f.n / f.seg else f.n

/-- Why a vector instruction is refused (R129 to R132, R146, R187). Its arithmetic format is told by TYPE, as the load check tells it
(log 97). -/
def vecRefuse (o : VOp) (s : State) (cell : Nat) (f : VecFields) : Option Nat × Nat :=
  let src := (o.sources f).map (·.src)
  let arith := arithmeticOk f.fmt
  let shape := !badN f.n && arith && (src.filter Src.isLs).length ≤ 1 && (src.filter Src.isAcc).length ≤ 1 &&
    (src.filter Src.isQueue).length ≤ 1 && !(src.any Src.isAcc && src.any Src.isQueue) &&
    decide ((src.map bcastBytes).sum ≤ 128) && (!o.isRed || (decide (1 ≤ f.seg ∧ f.seg ≤ f.n) && f.n % f.seg == 0))
  let each := src.map (srcRefuse cell f.n) ++ [dstRefuse s cell (resultCount o f) f.slot f.dst]
  match each.find? fun r => decide (r.1 = some 0x0201) with
  | some r => r
  | none => (if shape ∧ each.all (fun r => r.1.isNone) then none else some 0x0202, 0)

/-- 16 bits or fewer per element. -/
def narrow (fmt : Byte) : Bool := decide (fmt.toNat % 16 ≠ 0)

def srcNarrow (s : State) (cell core : Nat) : Src → Bool
  | .ls _ fmt _ => narrow fmt
  | .acc _ _ => false
  | .queue _ => s.ftqH16 cell core
  | _ => true

def dstNarrow : Dst → Bool
  | .ls _ fmt _ => narrow fmt
  | .acc _ _ => false

/-- Lanes (R139). -/
def vecLanes (o : VOp) (s : State) (i : Issue) (f : VecFields) : Nat :=
  if narrow f.fmt && (o.sources f).all (fun x => srcNarrow s i.cell i.core x.src) && dstNarrow f.dst then 64 else 32

/-- Occupancy (R121, R132): as though n were 1 where it lies outside 1 to 8,192. -/
def vecOcc (o : VOp) (s : State) (i : Issue) (f : VecFields) : Nat :=
  ceilDiv (if badN f.n then 1 else f.n) (vecLanes o s i f)

def srcRegions (s : State) (cell core n : Nat) : Src → List Region
  | .ls addr fmt scl => lsRegions cell core addr fmt scl n
  | .acc tile elem => [accRegion cell core (tile * 512 + elem) n]
  | .queue _ => match (s.core cell core).oldest with
    | some e => [ftqRegion cell core e.seq]
    | none => []
  | _ => []

def bcastRegions (cell core : Nat) : Src → List Region
  | .bcast addr fmt scl p _ => lsRegions cell core addr fmt scl p
  | _ => []

def dstRegions (cell core m : Nat) : Dst → List Region
  | .ls addr fmt scl =>
    lsRegion cell core addr (planeBytes fmt m) ::
      (if fmtBlock fmt ≠ 0 then [lsRegion cell core scl (scaleBytes fmt m)] else [])
  | .acc tile elem => [accRegion cell core (tile * 512 + elem) m]

/-- The scale word a tensor-scaled destination reads. -/
def dstReads (cell core : Nat) : Dst → List Region
  | .ls _ fmt scl => if fmtTensorScaled fmt then [lsRegion cell core scl 4] else []
  | .acc _ _ => []

def vecPlan (o : VOp) (i : Issue) (f : VecFields) (s : State) (_t : Nat) : Plan :=
  let r := vecRefuse o s i.cell f
  let c := vecOcc o s i f
  let src := (o.sources f).map (·.src)
  { refuse := r.1, detail := r.2, occ := fun _ => c, eng := 1,
    reads := src.flatMap (srcRegions s i.cell i.core f.n) ++ dstReads i.cell i.core f.dst,
    rdUntil := fun t => t + 3 + c,
    more := (src.flatMap (bcastRegions i.cell i.core)).map fun x => (x, fun t => t + 3),
    writes := dstRegions i.cell i.core (resultCount o f) f.dst,
    wrFrom := fun t => t + 6,
    visible := fun t => t + 6 + c }

/-- The elements of a source (R130). -/
def srcElems (v : State) (cell core n : Nat) : Src → List Elem
  | .none => []
  | .ls addr fmt scl => lsElems v cell core addr fmt scl n
  | .acc tile elem => accElems v cell core (tile * 512 + elem) n
  | .queue _ =>
    match (v.core cell core).oldest with
    | some e =>
      (e.bits.take n).map fun w =>
        if e.h16 then ⟨0x01, w.toNat % 2 ^ 16, Fmt.H16.value (w.toNat % 2 ^ 16)⟩ else f32Elem w
    | none => (freeWords v.free n).map f32Elem
  | .bcast addr fmt scl p r =>
    let pat := lsElems v cell core addr fmt scl p
    (List.range n).map fun i => pat.getD (i / r % p) default
  | .imm w => List.replicate n (f32Elem w)

/-- The arithmetic format (R129). -/
def arithFmt (b : Byte) : Fmt := (fmtType b).getD .F32

/-- An element in the arithmetic format, by nearest even (R130), and whether the conversion overflowed. -/
def toArith (f : Fmt) (e : Elem) : Num × Bool :=
  let r := f.round .nearest e.val
  (f.value r.1, r.2)

/-- ABS first, then NEG (R134). -/
def modify (o : VOp) (m : Operand) (x : Num) : Num :=
  if o.arith then
    let x := if m.abs then x.abs else x
    if m.neg then x.neg else x
  else x

/-- floor(log2) of a finite nonzero magnitude. -/
def expoOf (n d : Nat) : Int := floorLog2 n d

def ofInt (x : Int) : Num := .fin (decide (x < 0)) x.natAbs 1

def mantNum : Num → Num
  | .fin s n d => if n = 0 then .fin s 0 1 else (Num.fin s n d).scale (-(expoOf n d))
  | x => x

def expoNum : Num → Num
  | .fin _ n d => if n = 0 then .inf true else ofInt (expoOf n d)
  | .inf _ => .inf false
  | .nan => .nan

/-- Rounded to an integer by nearest even. -/
def roundInt : Num → Int
  | .fin s n d =>
    let q := roundUnits .nearest n d 0
    if s then -(q : Int) else q
  | _ => 0

/-- Powers beyond this give the same overflow or zero in every arithmetic format. -/
def clampPow (k : Int) : Int := max (-1024) (min 1024 k)

/-- SCALE2 (R136): value and whether it is invalid. -/
def scale2Num (a b : Num) : Num × Bool :=
  match a, b with
  | .nan, _ => (.nan, false)
  | _, .nan => (.nan, false)
  | .inf s, .fin _ _ _ => (.inf s, false)
  | .fin s n _, .inf false => if n = 0 then (.nan, true) else (.inf s, false)
  | .inf s, .inf false => (.inf s, false)
  | .inf _, .inf true => (.nan, true)
  | .fin s _ _, .inf true => (.fin s 0 1, false)
  | .fin s n d, .fin t m e => ((Num.fin s n d).scale (clampPow (roundInt (.fin t m e))), false)

def truth (b : Bool) : Num := if b then .ofNat 1 else .zero

/-- The exact result of one element and whether it is invalid (R134 to R136, R91). -/
def vecElem (o : VOp) (a b c : Num) : Num × Bool :=
  match o with
  | .add => a.add b
  | .mul => a.mul b
  | .fma => fmaNum a b c
  | .min => (minNum a b, false)
  | .max => (maxNum a b, false)
  | .cmpLt => (truth (a.lt b), false)
  | .cmpLe => (truth (a.lt b || a.eq b), false)
  | .cmpEq => (truth (a.eq b), false)
  | .cmpGe => (truth (b.lt a || a.eq b), false)
  | .cmpGt => (truth (b.lt a), false)
  | .cmpNe => (truth (!a.eq b), false)
  | .mant => (mantNum a, false)
  | .expo => (expoNum a, false)
  | .scale2 => scale2Num a b
  | _ => (a, false)

/-- The combining operation of a reduction, one rounding to F32 (R146). -/
def redCombine (o : VOp) (a b : Num × Counts) : Num × Counts :=
  match o with
  | .redSum =>
    let r := finish .F32 (a.1.add b.1)
    (Fmt.F32.value r.1, (a.2.add b.2).add r.2)
  | .redMin => (minNum a.1 b.1, a.2.add b.2)
  | .redAmax => (maxNum a.1.abs b.1.abs, a.2.add b.2)
  | _ => (maxNum a.1 b.1, a.2.add b.2)

/-- One level of the tree: neighbours combine, a last odd value moves up (R146). -/
def redLevel (o : VOp) : List (Num × Counts) → List (Num × Counts)
  | a :: b :: l => redCombine o a b :: redLevel o l
  | l => l

def redTree (o : VOp) : Nat → List (Num × Counts) → Num × Counts
  | 0, l => l.headD (.zero, .zero)
  | k + 1, l =>
    match l with
    | [x] => x
    | [] => (.zero, .zero)
    | _ => redTree o k (redLevel o l)

/-- Segments of S elements, one result each. -/
def redSegments (o : VOp) (seg : Nat) : Nat → List (Num × Counts) → List (Num × Counts)
  | 0, _ => []
  | k + 1, l =>
    let r := redTree o 14 (l.take seg)
    (match o with
      | .redAmax => (r.1.abs, r.2)
      | _ => r) :: redSegments o seg k (l.drop seg)

/-- What an instruction computes: elements for the destination, its counts, and how many of them are overflows of a source's conversion
(R87), which a slot's record takes (R190). -/
structure VecResult where
  elems  : List Elem
  counts : Counts
  conv   : Nat
  deriving Inhabited

def sumCounts (l : List Counts) : Counts := l.foldl Counts.add .zero

/-- The element results in the arithmetic format, or, for SEL and CVT, the elements as they stand in their sources. Each source that
overflows on its way into the arithmetic format counts (DESIGN CHOICE, log 63: R93 does not say whether an element with several
such sources counts once). -/
def vecResult (o : VOp) (v : State) (i : Issue) (f : VecFields) : VecResult :=
  let af := arithFmt f.fmt
  let get := fun (x : Operand) => srcElems v i.cell i.core f.n x.src
  match o with
  | .cvt => ⟨get f.a, .zero, 0⟩
  | .sel =>
    let c := (get f.c).map (toArith af)
    ⟨((c.zip ((get f.a).zip (get f.b))).map fun p => if p.1.1.isZero then p.2.2 else p.2.1),
      ⟨(c.filter Prod.snd).length, 0⟩, (c.filter Prod.snd).length⟩
  | _ =>
    if o.isRed then
      let w := (get f.a).map fun e =>
        let r := Fmt.F32.round .nearest e.val
        (Fmt.F32.value r.1, Counts.of r.2 false)
      let r := redSegments o f.seg (resultCount o f) w
      let q := r.map fun x => (finish af (x.1, false), x.2)
      ⟨q.map fun x => ⟨f.fmt, x.1.1, af.value x.1.1⟩, sumCounts (q.map fun x => x.1.2.add x.2), (w.map fun x => x.2.ovf).sum⟩
    else
      let arg := fun (x : Operand) => (get x).map fun e => let r := toArith af e; (modify o x r.1, r.2)
      let src := o.sources f
      let none_ : List (Num × Bool) := List.replicate f.n (.zero, false)
      let a := arg f.a
      let b := if 2 ≤ src.length then arg f.b else none_
      let c := if 3 ≤ src.length then arg f.c else none_
      let r := (a.zip (b.zip c)).map fun p =>
        let q := finish af (vecElem o p.1.1 p.2.1.1 p.2.2.1)
        let n := boolNat p.1.2 + boolNat p.2.1.2 + boolNat p.2.2.2
        (q.1, q.2.add ⟨n, 0⟩, n)
      ⟨r.map fun x => ⟨f.fmt, x.1, af.value x.1⟩, sumCounts (r.map (·.2.1)), (r.map (·.2.2)).sum⟩

/-- A destination region that is exactly a stream's: the same plane with elements of the same width, or the same scale bytes of
the same block size (R133). -/
def inPlace (o : VOp) (f : VecFields) (x : Src) (d r : Region) : Bool :=
  match x, f.dst with
  | .ls addr fmt scl, .ls daddr dfmt dscl =>
    decide (d = r ∧ addr = daddr ∧ planeBytes fmt 8 = planeBytes dfmt 8 ∧ resultCount o f = f.n) &&
      (r.lo == addr || (fmtBlock fmt == fmtBlock dfmt && scl == dscl))
  | _, _ => false

/-- An overlap of destination and sources other than the same region in place (R133). -/
def badOverlap (o : VOp) (s : State) (i : Issue) (f : VecFields) : Bool :=
  let dst := dstRegions i.cell i.core (resultCount o f) f.dst
  ((o.sources f).map (·.src)).any fun x =>
    (srcRegions s i.cell i.core f.n x ++ bcastRegions i.cell i.core x).any fun r =>
      dst.any fun d => d.meets r && !inPlace o f x d r

/-- Write the results to the destination with their conversion, counts and slot record (R131, R190). -/
def vecWrite (o : VOp) (r : Run) (i : Issue) (f : VecFields) (x : VecResult) (s : State) : State :=
  match f.dst with
  | .ls addr fmt scl =>
    let ts := tensorScale r.view i.cell i.core fmt scl
    let e := encodeElems fmt ts (s.rounding r.act fmt f.seed f.pass f.first) o.straight x.elems
    let s := s.putLs i.cell i.core addr fmt scl e
    let s := s.sticky i.cell i.core 1 (some r.act) (x.counts.add ⟨e.ovf, 0⟩) r.win.visible
    s.recordSlot i.cell f.slot (some r.act) (x.elems.map (·.val)) (x.conv + e.ovf)
  | .acc tile elem =>
    let e := encodeElems 0x00 (.ofNat 1) (fun _ => .nearest) o.straight x.elems
    let s := s.accWrite i.cell i.core (tile * 512 + elem) (e.codes.map (BitVec.ofNat 32))
    let s := s.sticky i.cell i.core 1 (some r.act) (x.counts.add ⟨e.ovf, 0⟩) r.win.visible
    s.recordSlot i.cell f.slot (some r.act) (x.elems.map (·.val)) (x.conv + e.ovf)

/-- A command that finds no pushed, unclaimed entry (R145): counted; in check mode a hazard of kind 3 (R168). -/
def State.emptyClaim (s : State) (w : Win) (a : ActiveAct) : State :=
  let s := s.inc (R.cellFtqEmptyClaim w.cell) 1
  if s.checkMode then s.hazard 3 { w with tag := 0, issue := 0 } w .ftq 0 (some a) else s

/-- Any vector instruction but RELEASE. -/
def vecExec (o : VOp) (i : Issue) (f : VecFields) (s : State) : Host.Outcome State Fault Refusal :=
  done <| s.issue 1 i (vecPlan o i f) (fun _ s => s) fun r s =>
    let src := (o.sources f).map (·.src)
    let queue := src.any Src.isQueue
    let k := s.core i.cell i.core
    let s := if queue ∧ k.oldest.isNone then
        { (s.emptyClaim r.win r.act) with free := s.free + f.n } else s
    let bad := badOverlap o r.view i f
    let s := vecWrite o r i f (vecResult o r.view i f) s
    let s := if bad then s.scrambleAll (dstRegions i.cell i.core (resultCount o f) f.dst) else s
    if src.any Src.pops then
      let k := s.core i.cell i.core
      match k.oldest with
      | some e =>
        s.setCore i.cell i.core { k with ftq := k.ftq.map fun (x : FtqEntry) =>
          if x.seq = e.seq then { x with state := .claimed, freeAt := some r.win.visible } else x }
      | none => s
    else s

def execAdd (i : Issue) (f : VecFields) (s : State) : Host.Outcome State Fault Refusal := vecExec .add i f s
def execMul (i : Issue) (f : VecFields) (s : State) : Host.Outcome State Fault Refusal := vecExec .mul i f s
def execFma (i : Issue) (f : VecFields) (s : State) : Host.Outcome State Fault Refusal := vecExec .fma i f s
def execMin (i : Issue) (f : VecFields) (s : State) : Host.Outcome State Fault Refusal := vecExec .min i f s
def execMax (i : Issue) (f : VecFields) (s : State) : Host.Outcome State Fault Refusal := vecExec .max i f s
def execCmpLt (i : Issue) (f : VecFields) (s : State) : Host.Outcome State Fault Refusal := vecExec .cmpLt i f s
def execCmpLe (i : Issue) (f : VecFields) (s : State) : Host.Outcome State Fault Refusal := vecExec .cmpLe i f s
def execCmpEq (i : Issue) (f : VecFields) (s : State) : Host.Outcome State Fault Refusal := vecExec .cmpEq i f s
def execCmpGe (i : Issue) (f : VecFields) (s : State) : Host.Outcome State Fault Refusal := vecExec .cmpGe i f s
def execCmpGt (i : Issue) (f : VecFields) (s : State) : Host.Outcome State Fault Refusal := vecExec .cmpGt i f s
def execCmpNe (i : Issue) (f : VecFields) (s : State) : Host.Outcome State Fault Refusal := vecExec .cmpNe i f s
def execSel (i : Issue) (f : VecFields) (s : State) : Host.Outcome State Fault Refusal := vecExec .sel i f s
def execCvt (i : Issue) (f : VecFields) (s : State) : Host.Outcome State Fault Refusal := vecExec .cvt i f s
def execMant (i : Issue) (f : VecFields) (s : State) : Host.Outcome State Fault Refusal := vecExec .mant i f s
def execExpo (i : Issue) (f : VecFields) (s : State) : Host.Outcome State Fault Refusal := vecExec .expo i f s
def execScale2 (i : Issue) (f : VecFields) (s : State) : Host.Outcome State Fault Refusal := vecExec .scale2 i f s
def execRedSum (i : Issue) (f : VecFields) (s : State) : Host.Outcome State Fault Refusal := vecExec .redSum i f s
def execRedMax (i : Issue) (f : VecFields) (s : State) : Host.Outcome State Fault Refusal := vecExec .redMax i f s
def execRedMin (i : Issue) (f : VecFields) (s : State) : Host.Outcome State Fault Refusal := vecExec .redMin i f s
def execRedAmax (i : Issue) (f : VecFields) (s : State) : Host.Outcome State Fault Refusal := vecExec .redAmax i f s

/-! ## RELEASE and drain (R142, R145) -/

/-- The flag a flagged command names must lie in the act's rows and be no queue flag (R160). -/
def flagRefused (s : State) (cell : Nat) (f : FlagRef) : Bool :=
  isQueueFlag f || (match s.actOfCell cell with
    | some a => !bitAt a.desc.rows (f.cell / 8)
    | none => true)

def releaseRefused (s : State) (cell : Nat) : ReleaseTo → Bool
  | .group g _ => !isWing cell || (match s.actOfCell cell with
    | some a => !bitAt a.desc.groups g
    | none => true)
  | .remote _ off f => !isWing cell || off % 64 != 0 || flagRefused s cell f

def releasePlan (i : Issue) (d : ReleaseTo) (s : State) (_t : Nat) : Plan :=
  let entry := match (s.core i.cell i.core).oldest with
    | some e => [ftqRegion i.cell i.core e.seq]
    | none => []
  { refuse := if releaseRefused s i.cell d then some 0x0202 else none, occ := fun _ => 1, eng := 1,
    reads := entry, rdUntil := fun t => t, writes := entry, wrFrom := fun t => t + 1, visible := fun t => t + 1 }

/-- The bytes of an entry as the link complex drains them: row by row in the push format. -/
def FtqEntry.payload (e : FtqEntry) : List Byte :=
  e.bits.flatMap fun w => natLe (if e.h16 then 2 else 4) w.toNat

end Sys2Proof.Machine
end

