-- ==== Sys2Proof/Machine/Movers.lean ====
section
/-! DEFINITION. The core mover (R118, R121, R495): local copies with transpose and conversion, transfers through port A, tile load
and tile store. -/

namespace Sys2Proof.Machine

open Sys2Proof

/-- The port-A wait (R121): bank of the first line, core, issue cycle. -/
def portAWait (cs core t : Nat) : Nat := (cs / 64 + (32 - core % 32) + (32 - t % 32)) % 32

/-- A format byte with elements of a width in bits, for moving bare elements. -/
def widthFmt (bits : Nat) : Option Byte :=
  match bits with
  | 4 => some 0x06
  | 6 => some 0x05
  | 8 => some 0x03
  | 16 => some 0x01
  | 32 => some 0x00
  | _ => none

/-- Rows of one transposed block (R118): 32, or 64 for 4-bit and 6-bit elements; columns are 32. -/
def blockRows (fmt : Byte) : Nat := if fmt.toNat % 16 = 5 ∨ fmt.toNat % 16 = 6 then 64 else 32

/-- Where element `j` of a transposed run comes from: block by block, column-major in the block. R118 gives no layout of a run of
several blocks: here one block follows another, row by row before and column by column after (DESIGN CHOICE, log 64). -/
def transposeFrom (rows j : Nat) : Nat :=
  let b := rows * 32
  j / b * b + j % b % rows * 32 + j % b / rows

def transposed {α : Type} (rows : Nat) (d : α) (l : List α) : List α :=
  let a := l.toArray
  (List.range l.length).map fun j => a.getD (transposeFrom rows j) d

/-- Bytes moved: on the wider side of a conversion (R121). -/
def copyBytes (bytes : Nat) (conv : Option Conv) : Nat :=
  match conv with
  | none => bytes
  | some v => max (planeBytes v.srcFmt v.count) (planeBytes v.dstFmt v.count)

/-- A copy converts: its two formats differ, or it scales (R83, R118). -/
def converts (conv : Option Conv) : Bool :=
  conv.any fun v => fmtScaling v.dstFmt != 0 || bitsOf v.srcFmt.toNat 0 6 != bitsOf v.dstFmt.toNat 0 6

/-- Refusal of one format byte of a conversion. -/
def convFmts (v : Conv) : Option Nat × Nat :=
  match fmtRefuse v.srcFmt, fmtRefuse v.dstFmt with
  | some c, _ => (some c, if c = 0x0201 then fmtDetail v.srcFmt else 0)
  | _, some c => (some c, if c = 0x0201 then fmtDetail v.dstFmt else 0)
  | none, none => (none, 0)

/-- A place of `n` elements in a store of `size` bytes, with its scales. -/
def placeOk (size addr : Nat) (fmt : Byte) (scl n : Nat) : Bool :=
  addr % 64 == 0 && decide (addr + planeBytes fmt n ≤ size) &&
    (scaleBytes fmt n == 0 || (scl % 4 == 0 && decide (scl + scaleBytes fmt n ≤ (if fmtTensorScaled fmt then LSBYTES else size))))

/-- Why a copy is refused (R113, R118, R187). -/
def copyRefuse (s : State) (srcSize dstSize src dst bytes : Nat) (conv : Option Conv) : Option Nat × Nat :=
  match conv with
  | none =>
    (if src % 64 = 0 ∧ dst % 64 = 0 ∧ src + bytes ≤ srcSize ∧ dst + bytes ≤ dstSize then none else some 0x0202, 0)
  | some v =>
    match convFmts v with
    | (some c, d) => (some c, d)
    | (none, _) =>
      (if placeOk srcSize src v.srcFmt v.srcScl v.count && placeOk dstSize dst v.dstFmt v.dstScl v.count &&
          !s.slotRefused v.dstFmt v.slot then none else some 0x0202, 0)

/-- Elements and block rows of a transpose; `none` where the run is not whole blocks, which is refused as a transpose R118 does not
list (DESIGN CHOICE, log 64). -/
def transposeOf (bytes elem : Nat) (conv : Option Conv) : Option (Byte × Nat) :=
  match conv with
  | some v => if v.count % (blockRows v.srcFmt * 32) = 0 then some (v.srcFmt, v.count) else none
  | none =>
    match widthFmt elem with
    | none => none
    | some fmt => if bytes * 8 % (blockRows fmt * 32 * elem) = 0 then some (fmt, bytes * 8 / elem) else none

/-- A place in the local store or the cell store. -/
inductive Place where
  | ls (addr : Nat)
  | cs (addr : Nat)
  deriving DecidableEq, Repr

def Place.from (p : Place) (v : State) (cell core : Nat) : Nat → Byte :=
  match p with
  | .ls a => lsFrom v cell core a
  | .cs a => csFrom v cell a

def Place.scales (p : Place) (v : State) (cell core scl : Nat) : Nat → Byte :=
  match p with
  | .ls _ => lsFrom v cell core scl
  | .cs _ => csFrom v cell scl

def Place.put (p : Place) (s : State) (cell core : Nat) (l : List Byte) : State :=
  match p with
  | .ls a => s.lsWrite cell core a l
  | .cs a => s.csWrite cell a l

def Place.putScales (p : Place) (s : State) (cell core scl : Nat) (l : List Byte) : State :=
  match p with
  | .ls _ => s.lsWrite cell core scl l
  | .cs _ => s.csWrite cell scl l

def Place.region (p : Place) (cell core len : Nat) : Region :=
  match p with
  | .ls a => lsRegion cell core a len
  | .cs a => csRegion cell a len

def Place.sclRegion (p : Place) (cell core scl len : Nat) : Region :=
  match p with
  | .ls _ => lsRegion cell core scl len
  | .cs _ => csRegion cell scl len

/-- Regions of one side: its plane and its scales; the scale word of a tensor-scaled side lies in the local store. -/
def sideRegions (p : Place) (cell core bytes : Nat) (side : Option (Byte × Nat × Nat)) : List Region :=
  match side with
  | none => [p.region cell core bytes]
  | some (fmt, scl, n) =>
    p.region cell core (planeBytes fmt n) ::
      (if fmtTensorScaled fmt then [lsRegion cell core scl 4]
       else if scaleBytes fmt n = 0 then [] else [p.sclRegion cell core scl (scaleBytes fmt n)])

def srcSide (conv : Option Conv) : Option (Byte × Nat × Nat) := conv.map fun v => (v.srcFmt, v.srcScl, v.count)
def dstSide (conv : Option Conv) : Option (Byte × Nat × Nat) := conv.map fun v => (v.dstFmt, v.dstScl, v.count)

/-- Written regions: a tensor scale word is only read. -/
def dstWrites (p : Place) (cell core bytes : Nat) (conv : Option Conv) : List Region :=
  match conv with
  | some v => if fmtTensorScaled v.dstFmt then [p.region cell core (planeBytes v.dstFmt v.count)]
    else sideRegions p cell core bytes (dstSide conv)
  | none => sideRegions p cell core bytes none

def dstWord (cell core : Nat) (conv : Option Conv) : List Region :=
  match conv with
  | some v => if fmtTensorScaled v.dstFmt then [lsRegion cell core v.dstScl 4] else []
  | none => []

/-- A conversion: the elements read, encoded into the destination, counted and recorded (R83, R135, R190). -/
def convMove (i : Issue) (src dst : Place) (v : Conv) (rows : Option Nat) (r : Run) (s : State) : State :=
  let e := elemsOf v.srcFmt (src.from r.view i.cell i.core) (src.scales r.view i.cell i.core v.srcScl)
    (tensorScale r.view i.cell i.core v.srcFmt v.srcScl) v.count
  let e := match rows with
    | some n => transposed n default e
    | none => e
  let ts := tensorScale r.view i.cell i.core v.dstFmt v.dstScl
  let c := encodeElems v.dstFmt ts (s.rounding r.act v.dstFmt v.seed v.pass v.first) true e
  let s := dst.put s i.cell i.core (packCodes v.dstFmt (dst.from s i.cell i.core) c.codes)
  let s := if fmtBlock v.dstFmt ≠ 0 then dst.putScales s i.cell i.core v.dstScl (c.e8.map (BitVec.ofNat 8)) else s
  let s := s.sticky i.cell i.core 2 (some r.act) ⟨c.ovf, 0⟩ r.win.visible
  s.recordSlot i.cell v.slot (some r.act) (e.map (·.val)) c.ovf

/-- A move without conversion: bits unchanged (R91), transposed where asked. -/
def rawMove (i : Issue) (src dst : Place) (bytes : Nat) (tr : Option (Byte × Nat)) (r : Run) (s : State) : State :=
  let rd := src.from r.view i.cell i.core
  match tr with
  | none => dst.put s i.cell i.core ((List.range bytes).map rd)
  | some (fmt, n) =>
    let l := transposed (blockRows fmt) 0 ((List.range n).map (elemCode fmt rd))
    dst.put s i.cell i.core (packCodes fmt (dst.from s i.cell i.core) l)

/-- A destination that overlaps its own source, but for a plain copy onto itself, is undefined (DESIGN CHOICE, log 64: R133 says so of
the vector engine and R118 is silent). -/
def execLocalCopy (i : Issue) (f : CopyFields) (s : State) : Host.Outcome State Fault Refusal :=
  let src := Place.ls f.src
  let dst := Place.ls f.dst
  let m := ceilDiv (copyBytes f.bytes f.conv) 64
  let tr := if f.transpose then transposeOf f.bytes f.elem f.conv else none
  let late := (if f.transpose then 12 else 8) + (if converts f.conv then 4 else 0)
  let plan := fun (s : State) (_ : Nat) =>
    let r := copyRefuse s LSBYTES LSBYTES f.src f.dst f.bytes f.conv
    let r := if r.1.isNone ∧ f.transpose ∧ tr.isNone then (some 0x0202, 0) else r
    ({ refuse := r.1, detail := r.2, occ := fun _ => max 1 m, eng := 2,
       reads := sideRegions src i.cell i.core f.bytes (srcSide f.conv) ++ dstWord i.cell i.core f.conv,
       rdUntil := fun t => t + 3 + m,
       writes := dstWrites dst i.cell i.core f.bytes f.conv,
       wrFrom := fun t => t, visible := fun t => t + late + m } : Plan)
  done <| s.issue 2 i plan (fun _ s => s) fun r s =>
    let clash := !(meetsOf r.win.writes r.win.reads).isEmpty && !(f.src == f.dst && f.conv.isNone && !f.transpose)
    let s := match f.conv with
      | some v => convMove i src dst v (tr.map fun x => blockRows x.1) r s
      | none => rawMove i src dst f.bytes tr r s
    if clash then s.scrambleAll r.win.writes else s

def execCellStoreTransfer (i : Issue) (f : CsFields) (s : State) : Host.Outcome State Fault Refusal :=
  let src := if f.toCell then Place.ls f.ls else Place.cs f.cs
  let dst := if f.toCell then Place.cs f.cs else Place.ls f.ls
  let m := ceilDiv (copyBytes f.bytes f.conv) 64
  let late := 12 + (if converts f.conv then 4 else 0)
  let plan := fun (s : State) (_ : Nat) =>
    let r := copyRefuse s (if f.toCell then LSBYTES else CSBYTES) (if f.toCell then CSBYTES else LSBYTES)
      (if f.toCell then f.ls else f.cs) (if f.toCell then f.cs else f.ls) f.bytes f.conv
    ({ refuse := r.1, detail := r.2, occ := fun t => max 1 (portAWait f.cs i.core t + m), eng := 2,
       reads := sideRegions src i.cell i.core f.bytes (srcSide f.conv) ++ dstWord i.cell i.core f.conv,
       rdUntil := fun t => t + portAWait f.cs i.core t + 3 + m,
       writes := dstWrites dst i.cell i.core f.bytes f.conv,
       wrFrom := fun t => t + portAWait f.cs i.core t,
       visible := fun t => t + late + portAWait f.cs i.core t + m } : Plan)
  done <| s.issue 2 i plan (fun _ s => s) fun r s =>
    match f.conv with
    | some v => convMove i src dst v none r s
    | none => rawMove i src dst f.bytes none r s

/-- F32 data into an accumulator tile, row by row. -/
def execTileLoad (i : Issue) (tile src : Nat) (s : State) : Host.Outcome State Fault Refusal :=
  let plan := fun (_ : State) (_ : Nat) =>
    ({ refuse := if src % 64 = 0 ∧ src + 2048 ≤ LSBYTES ∧ tile ≤ 15 then none else some 0x0202,
       occ := fun _ => 32, eng := 2, reads := [lsRegion i.cell i.core src 2048], rdUntil := fun t => t + 35,
       writes := [accRegion i.cell i.core (tile * 512) 512], wrFrom := fun t => t, visible := fun t => t + 40 } : Plan)
  done <| s.issue 2 i plan (fun _ s => s) fun r s =>
    let rd := lsFrom r.view i.cell i.core src
    s.accWrite i.cell i.core (tile * 512) ((List.range 512).map fun e => BitVec.ofNat 32 (elemCode 0x00 rd e))

/-- An accumulator tile into any format: its 512 elements row by row, block scales along the rows. A block of 32 is two consecutive
rows of 16 (DESIGN CHOICE, log 65: R74 and R118 do not say how blocks of 32 lie in rows of 16). -/
def execTileStore (i : Issue) (f : TileStoreFields) (s : State) : Host.Outcome State Fault Refusal :=
  let v : Conv := ⟨0x00, f.dstFmt, 512, 0, f.dstScl, f.slot, f.seed, f.first, f.pass⟩
  let m := ceilDiv (planeBytes f.dstFmt 512) 64
  let late := 11 + (if f.dstFmt.toNat % 16 = 0 then 0 else 4)
  let dst := Place.ls f.dst
  let plan := fun (s : State) (_ : Nat) =>
    let r := match convFmts v with
      | (some c, d) => (some c, d)
      | (none, _) =>
        (if placeOk LSBYTES f.dst f.dstFmt f.dstScl 512 && decide (f.tile ≤ 15) && !s.slotRefused f.dstFmt f.slot
          then none else some 0x0202, 0)
    ({ refuse := r.1, detail := r.2, occ := fun _ => max 1 m, eng := 2,
       reads := accRegion i.cell i.core (f.tile * 512) 512 :: dstWord i.cell i.core (some v),
       rdUntil := fun t => t + 3 + m, writes := dstWrites dst i.cell i.core 0 (some v),
       wrFrom := fun t => t, visible := fun t => t + late + m } : Plan)
  done <| s.issue 2 i plan (fun _ s => s) fun r s =>
    let e := accElems r.view i.cell i.core (f.tile * 512) 512
    let ts := tensorScale r.view i.cell i.core f.dstFmt f.dstScl
    let c := encodeElems f.dstFmt ts (s.rounding r.act f.dstFmt f.seed f.pass f.first) true e
    let s := s.putLs i.cell i.core f.dst f.dstFmt f.dstScl c
    let s := s.sticky i.cell i.core 2 (some r.act) ⟨c.ovf, 0⟩ r.win.visible
    s.recordSlot i.cell f.slot (some r.act) (e.map (·.val)) c.ovf

end Sys2Proof.Machine
end

