-- ==== Sys2Proof/Machine/Send.lean ====
section
/-! DEFINITION. Sending on the Hyhel links: arbitration (R248, R249), credits and the retry buffer (R340, R342, R343), the ledger
(R344), control words (R337), flits (R335, R336), point-to-point routes (R244, R245, R350, R351) and the remote accesses that use them
(R246). -/

namespace Sys2Proof.Machine

open Sys2Proof

/-- The port is up (R371). -/
def State.portIsUp (s : State) (p : Nat) : Bool := s.get (R.portStateState p) == 2

/-- Up, and taking new flits (R357). -/
def State.portUp (s : State) (p : Nat) : Bool := s.portIsUp p && !(s.port p).quiesce

/-- Lanes are in use while a port is up or retrains. -/
def State.portLive (s : State) (p : Nat) : Bool := s.get (R.portStateState p) == 2 || s.get (R.portStateState p) == 3

/-- The allotment code of a port in force (R348, R349). -/
def State.allot (s : State) (p : Nat) : Nat :=
  bitsOf (s.word (R.linkAllot0.addr + 4 * (p / 8))).toNat (4 * (p % 8)) 4

def portList : List Nat := List.range 32

/-- Trained ports of a torus direction 0 to 5, or of code 6. -/
def State.portsOf (s : State) (dir : Nat) : List Nat := portList.filter fun p => s.portUp p && s.allot p == dir

/-- Trained torus ports. -/
def State.torusPorts (s : State) : List Nat := portList.filter fun p => s.portUp p && decide (s.allot p < 6)

/-! ## Flits -/

/-- The pool of a flit (R342): by VC, or by group on VCs 2 to 5. -/
def vcPool (vc group : Nat) : Nat :=
  match vc with
  | 0 => 0
  | 1 => 1
  | 6 => 2
  | 7 => 3
  | _ => 4 + group

def hdrOf (f : Flit) (word lo w : Nat) : Nat := bitsOf ((cwWords f.hdr).getD word 0) lo w

def flitVc (f : Flit) : Nat := hdrOf f 0 0 3
def flitKind (f : Flit) : Nat := hdrOf f 0 3 4
def flitPoison (f : Flit) : Bool := hdrOf f 0 7 1 == 1
def flitGroup (f : Flit) : Nat := hdrOf f 0 8 4
def flitLast (f : Flit) : Bool := hdrOf f 0 12 1 == 1
def flitLen (f : Flit) : Nat := hdrOf f 0 16 9
def flitChunk (f : Flit) : Nat := hdrOf f 1 0 16
def flitStage (f : Flit) : Nat := hdrOf f 1 16 2
def flitRing (f : Flit) : Nat := hdrOf f 1 18 1
def flitDest (f : Flit) : Nat := hdrOf f 1 0 14
def flitSrc (f : Flit) : Nat := hdrOf f 1 14 14
def flitOffset (f : Flit) : Nat := hdrOf f 2 0 32 + 2 ^ 32 * hdrOf f 3 0 32
def flitCredPool (f : Flit) : Nat := hdrOf f 4 0 5
def flitCredCount (f : Flit) : Nat := hdrOf f 4 5 11
def flitReqId (f : Flit) : Nat := hdrOf f 5 0 16
def flitFmt (f : Flit) : Nat := hdrOf f 5 16 8
def flitPool (f : Flit) : Nat := vcPool (flitVc f) (flitGroup f)

/-- A header with its CRC; no credit is returned yet (R335). -/
def mkHdr (vc kind : Nat) (poison : Bool) (group : Nat) (last : Bool) (len w1 off w5 : Nat) : CtlWord :=
  cwSeal [vc + kind * 8 + boolNat poison * 128 + group * 256 + boolNat last * 4096 + len * 65536, w1, off % 2 ^ 32,
    off / 2 ^ 32, 0x1F, w5, 0]

/-- The CREDIT fields of a header replaced. -/
def withCredit (w : CtlWord) (pool count : Nat) : CtlWord :=
  let l := cwWords w
  cwSeal ((l.take 4) ++ [pool + count * 32] ++ ((l.drop 5).take 2))

/-- A point-to-point flit (R335, R336). -/
def p2pFlit (kind : Nat) (poison last : Bool) (dest src off req : Nat) (payload : List Byte) : Flit :=
  { hdr := mkHdr 6 kind poison 0 last payload.length (dest + src * 2 ^ 14) off req, payload := payload }

/-- A control flit with one control word (R337). -/
def ctlFlit (vc : Nat) (w : CtlWord) : Flit :=
  { hdr := mkHdr vc 1 false 0 false 32 0 0 0, payload := wordsLe (cwWords w) }

/-- An idle flit (R336, R343). -/
def idleFlit : Flit := ⟨mkHdr 0 0 false 0 false 0 0 0 0, []⟩

/-- A flit of this module's own. -/
def TxFlit.mine (f : Flit) : TxFlit := ⟨f, none, false, 0⟩

/-! ## Credits and frames -/

/-- The pool at `q` changed. -/
def PortSt.setPool (x : PortSt) (q : Nat) (f : Pool → Pool) : PortSt :=
  { x with pools := x.pools.zipIdx.map fun p => if p.2 = q then f p.1 else p.1 }

def PortSt.pool (x : PortSt) (q : Nat) : Pool := x.pools.getD q Pool.empty

def wrap32 (n : Nat) : Nat := n % 2 ^ 32

/-- The first pool with slots to give back (R343). -/
def PortSt.owedPool (x : PortSt) : Option Nat := (List.range 20).find? fun q => (x.pool q).freed != 0

/-- The history of credits returned, by frame, over the last 4,096 frames (R344). -/
def PortSt.note (x : PortSt) (frame : Nat) : PortSt :=
  { x with history := (x.history ++ [(frame, x.pools.map Pool.credOut)]).drop (x.history.length + 1 - 4096) }

/-- The payload of a ledger flit (R344): SENT and CRED_IN of each pool, G, and their CRC. -/
def PortSt.ledger (x : PortSt) : List Byte :=
  let g := (x.nextRx + 2 ^ 32 - 1) % 2 ^ 32
  let b := wordsLe (x.pools.map Pool.sent ++ x.pools.map Pool.credIn ++ [g])
  b ++ natLe 4 (crc32c b)

/-- The ledger flit with the counts as they stand when it is sent. -/
def PortSt.ledgerFlit (x : PortSt) : Flit := ⟨mkHdr 0 8 false 0 false 168 0 0 0, x.ledger⟩

/-- The retry buffer is full (R340): the port sends nothing. -/
def PortSt.full (x : PortSt) : Bool := decide (409 ≤ x.retry.length)

/-- One frame with one flit, which carries credits back (R343), kept until it is acknowledged (R340); the slot it held is the caller's to free. -/
def State.sendFrame (s : State) (p : Nat) (e : TxFlit) : State :=
  let x := s.port p
  let (f, x) := match (if x.reinit then none else x.owedPool) with
    | some q =>
      let n := min (x.pool q).freed 2047
      ({ e.flit with hdr := withCredit e.flit.hdr q n },
        x.setPool q fun y => { y with freed := y.freed - n, credOut := wrap32 (y.credOut + n) })
    | none => (e.flit, x)
  let x := x.note x.nextTx
  let x := { x with retry := x.retry ++ [(x.nextTx, { e with flit := f, origin := none })], nextTx := wrap32 (x.nextTx + 1) }
  (s.setPort p x).emit (.flit p f)

/-- A flit goes with a credit of its pool (R343). -/
def State.spend (s : State) (p : Nat) (e : TxFlit) : State :=
  let x := s.port p
  (s.setPort p (x.setPool (flitPool e.flit) fun y => { y with avail := y.avail - 1, sent := wrap32 (y.sent + 1) })).sendFrame p e

/-- The port may send frames that are not idle: up, not quiescing, and no reinitialisation runs (R346, R357). -/
def State.maySend (s : State) (p : Nat) : Bool := s.portUp p && !(s.port p).full && !(s.port p).reinit

/-- What goes before any other frame: OP 5 of a reinitialisation that had no room (R346), with a credit once the sequence has ended; the
ledger of the last boundary, in the first frame after it (R344). -/
def State.sendDue (s : State) (p : Nat) (op5 : Flit) : State :=
  let x := s.port p
  if x.owesOp5 && !x.full && s.portUp p && (x.reinit || (x.pool 0).avail != 0) then
    let s := s.setPort p { x with owesOp5 := false }
    if x.reinit then s.sendFrame p (.mine op5) else s.spend p (.mine op5)
  else if x.ledgerDue && s.maySend p && (x.pool 0).avail != 0 then (s.setPort p { x with ledgerDue := false }).spend p (.mine x.ledgerFlit)
  else s

/-- A control word with this module's number and time (R337). -/
def State.ctlWord (s : State) (type hops : Nat) (body : List Nat) : CtlWord :=
  let c := if s.flagReg R.mgmtChipValid then some (s.get R.mgmtChipNumber) else none
  cwSeal ([type + hops * 2 ^ 8 + c.getD 0 * 2 ^ 16 + (if c.isSome then 2 ^ 30 else 0), s.time.toNat % 2 ^ 32,
    s.time.toNat / 2 ^ 32] ++ body)

/-- A lane command (R338, R361). -/
def laneWord (s : State) (op lane frame : Nat) : CtlWord := s.ctlWord 8 0 [op + lane * 16, frame]

def State.op5 (s : State) : Flit := ctlFlit 0 (laneWord s 5 0 0)

/-- Slots given back to the peer at once in idle flits (R343). -/
def State.returnCredits (p : Nat) : Nat → State → State
  | 0, s => s
  | n + 1, s =>
    let s := s.sendDue p s.op5
    let x := s.port p
    if x.owedPool.isNone ∨ !s.maySend p then s
    else State.returnCredits p n (s.sendFrame p (.mine idleFlit))

/-- A received flit's slot is freed (R343). A flit held from before a retrain returns no credit. -/
def State.freeSlot (s : State) (p q : Nat) : State :=
  s.setPort p ((s.port p).setPool q fun y =>
    if y.old ≠ 0 then { y with old := y.old - 1 }
    else if y.held = 0 then y
    else { y with held := y.held - 1, freed := y.freed + 1 })

/-- A flit has left the module: the slot that it held at the port it came in on is free, and its credit goes back. -/
def State.leave (s : State) (o : Option (Nat × Nat)) : State :=
  match o with
  | some x => State.returnCredits x.1 20 (s.freeSlot x.1 x.2)
  | none => s

/-! ## Arbitration (R248, R249) -/

/-- The weight of VC 2 to 7: its quantum is as many flits of 512 bytes. -/
def State.vcWeight (s : State) (vc : Nat) : Nat :=
  s.get ([R.collVcWeightW2, R.collVcWeightW3, R.collVcWeightW4, R.collVcWeightW5, R.collVcWeightW6, R.collVcWeightW7].getD (vc - 2)
    R.collVcWeightW7)

/-- The flit of a VC that may go now, by its place in the queue: one of a pool with credit, oldest first; groups that share a VC take
turns after the one served last. -/
def PortSt.ready (x : PortSt) (vc : Nat) : Option Nat :=
  let may := fun (e : TxFlit) => flitVc e.flit == vc && (x.pool (flitPool e.flit)).avail != 0
  if 2 ≤ vc ∧ vc ≤ 5 then
    let last := AMap.get x.lastGroup vc 15
    (List.range 16).findSome? fun i => x.txq.findIdx? fun e => may e && flitGroup e.flit == (last + 1 + i) % 16
  else x.txq.findIdx? may

/-- The weighted deficit round robin of VCs 2 to 7: the VC in turn sends while its quantum lasts; one with nothing to send, or no
credit, forfeits its round. -/
def State.roundRobin (s : State) : Nat → PortSt → Option (Nat × PortSt)
  | 0, _ => none
  | n + 1, x =>
    match (if x.left = 0 then none else x.ready x.turn) with
    | some i => some (i, { x with left := x.left - 1, lastGroup := AMap.put x.lastGroup x.turn (flitGroup (x.txq.getD i default).flit) })
    | none =>
      let vc := if x.turn = 7 then 2 else x.turn + 1
      State.roundRobin s n { x with turn := vc, left := s.vcWeight vc }

/-- The next flit of a port: VC 0 first, then VC 1, then the round robin. -/
def State.pick (s : State) (x : PortSt) : Option (Nat × PortSt) :=
  match x.ready 0 with
  | some i => some (i, x)
  | none => match x.ready 1 with
    | some i => some (i, x)
    | none => s.roundRobin 8 x

/-- Flits that wait for a credit or for the retry buffer go as soon as they may, after what must go before them (log 92). -/
def State.pumpLoop (p : Nat) : Nat → State → State
  | 0, s => s
  | n + 1, s =>
    let s := s.sendDue p s.op5
    if !s.maySend p || (s.port p).owesOp5 || (s.port p).ledgerDue then s
    else
      match s.pick (s.port p) with
      | none => s
      | some (i, x) =>
        let e := x.txq.getD i default
        State.pumpLoop p n (((s.setPort p { x with txq := x.txq.eraseIdx i }).spend p e).leave e.origin)

def State.pump (s : State) (p : Nat) : State := State.pumpLoop p ((s.port p).txq.length + 1) s

/-- A flit for a port: it goes now, or waits its turn (R343). -/
def State.sendTx (s : State) (p : Nat) (e : TxFlit) : State :=
  let x := s.port p
  (s.setPort p { x with txq := x.txq ++ [e] }).pump p

/-- A flit of this module's own. -/
def State.sendFlit (s : State) (p : Nat) (f : Flit) : State := s.sendTx p (.mine f)

def State.sendCtl (s : State) (p vc : Nat) (w : CtlWord) : State := s.sendFlit p (ctlFlit vc w)

/-- The ledger is due on a port (R344). -/
def State.oweLedger (s : State) (p : Nat) : State := (s.setPort p { s.port p with ledgerDue := true }).pump p

/-- A flit takes its slot at the receiver (R342). -/
def Pool.hold (y : Pool) : Pool := { y with held := y.held + 1, received := wrap32 (y.received + 1) }

/-- A flit takes its slot, unless its frame has counted it, with the POISON that an uncorrectable codeword of its frame gives it (R334). -/
def State.arrive (s : State) (p : Nat) (f : Flit) : Flit × State :=
  let x := (s.port p).setPool (flitPool f) fun y => if y.ahead = 0 then y.hold else { y with ahead := y.ahead - 1 }
  if x.marked.contains f.hdr then
    let w := cwWords f.hdr
    let w0 := w.getD 0 0
    ({ f with hdr := cwSeal ((w.set 0 (w0 - bitsOf w0 7 1 * 128 + 128)).take 7) },
      s.setPort p { x with marked := x.marked.erase f.hdr })
  else (f, s.setPort p x)

/-! ## Routes -/

/-- Own chip number, when set (R427). -/
def State.chip (s : State) : Option Nat :=
  if s.flagReg R.mgmtChipValid then some (s.get R.mgmtChipNumber) else none

def State.mapEntry (s : State) (chip : Nat) : Option (Nat × Nat × Nat) :=
  (s.map.entries.find? fun e => decide (e.1 = chip)).map (·.2)

def State.ownPos (s : State) : Option (Nat × Nat × Nat) :=
  if s.flagReg R.collPositionValid then some (s.get R.collPositionX, s.get R.collPositionY, s.get R.collPositionZ) else none

def State.shapeOf (s : State) : List Nat := [s.get R.collShapeX, s.get R.collShapeY, s.get R.collShapeZ]

def axisOf (p : Nat × Nat × Nat) (a : Nat) : Nat := [p.1, p.2.1, p.2.2].getD a 0

/-- The direction of the next hop (R244): the first axis that differs, the shorter way, + on a tie. -/
def nextDir (shape : List Nat) (here there : Nat × Nat × Nat) : Option Nat :=
  match [0, 1, 2].find? fun a => axisOf here a != axisOf there a with
  | none => none
  | some a =>
    let n := shape.getD a 1
    let up := (axisOf there a + n - axisOf here a) % n
    some (2 * a + (if 2 * up ≤ n then 0 else 1))

/-- The port choice of R245 among `l`. -/
def State.p2pHash (s : State) (chip off : Nat) (l : List Nat) : Nat :=
  mix64 (chip ^^^ off >>> 12 ^^^ s.get2 R.collP2pSaltLo R.collP2pSaltHi) >>> 32 % l.length

/-- The hash set of a direction, fixed when the map was applied (R350). -/
def State.hashSet (s : State) (dir : Nat) : List Nat := portList.filter fun p => s.allot p == dir && (s.port p).hashSet

/-- The port at index `j` of a set, or the next one, cyclically, that is up (R350). -/
def State.fromSet (s : State) (l : List Nat) (j : Nat) : Option Nat :=
  (l.drop j ++ l.take j).find? s.portUp

/-- The port on which a point-to-point flit for a chip and offset leaves (R244, R245, R350, R351); `none`: no working path. -/
def State.route (s : State) (chip off : Nat) : Option Nat :=
  let ex := (s.map.express.filter fun e => decide (e.2 = chip) && s.portUp e.1).map (·.1)
  if !ex.isEmpty then ex[s.p2pHash chip off ex]?
  else
    match s.ownPos, s.mapEntry chip with
    | some here, some there =>
      match nextDir s.shapeOf here there with
      | none => none
      | some d => let l := s.hashSet d; if l.isEmpty then none else s.fromSet l (s.p2pHash chip off l)
    | _, _ => none

/-- Split into pieces of at most `n`. -/
def piecesOf {α : Type} (n : Nat) : Nat → List α → List (List α)
  | 0, _ => []
  | k + 1, l => if l.isEmpty then [] else l.take n :: piecesOf n k (l.drop n)

/-- Lines of an access by flit: runs of at most 7 lines that are all poisoned or all sound (R246, R336). Each is given by its first
line, its length and its mark. -/
def lineRuns (poison : List Nat) : Nat → Nat → List (Nat × Nat × Bool) → List (Nat × Nat × Bool)
  | 0, _, l => l
  | n + 1, i, l =>
    let b := poison.contains i
    match l.getLast? with
    | some (j, k, c) => lineRuns poison n (i + 1) (if c = b ∧ k < 7 then l.dropLast ++ [(j, k + 1, c)] else l ++ [(i, 1, b)])
    | none => lineRuns poison n (i + 1) [(i, 1, b)]

/-- The write or reply flits of an access: 1 to 7 lines each (R336), each by the page path of its offset (R245). `poison` lists the
poisoned lines. -/
def State.sendLines (s : State) (kind dest src off req : Nat) (poison : List Nat) (data : List Byte) : State :=
  let n := ceilDiv data.length 64
  (lineRuns poison n 0 []).foldl (fun s r =>
    let o := off + 64 * r.1
    match s.route dest o with
    | none => s
    | some p => s.sendFlit p
        (p2pFlit kind r.2.2 (decide (r.1 + r.2.1 = n)) dest src o req (slice data (64 * r.1) (64 * r.2.1)))) s

/-! ## Lane markers (R332) -/

/-- The lane marker with its CRC-4. -/
def laneMarker (phys logical frame cmd down target : Nat) : Nat :=
  let v := phys % 16 + logical % 16 * 2 ^ 4 + frame % 2 ^ 16 * 2 ^ 8 + cmd % 16 * 2 ^ 24 + down % 16 * 2 ^ 28 +
    target % 16 * 2 ^ 32
  v + crc4 v * 2 ^ 36

/-- What the markers of a frame announce (R332): command, frames left, the lane concerned; nothing outside the 16 frames before the
switch. -/
def DirSt.announced (d : DirSt) (frame : Nat) : Nat × Nat × Nat :=
  match d.switchAt with
  | some at_ =>
    let left := (at_ + 2 ^ 32 - frame) % 2 ^ 32
    if 1 ≤ left ∧ left ≤ 16 then (if d.swap = .narrowing then 2 else 1, left - 1, d.target) else (0, 0, 0)
  | none => (0, 0, 0)

/-- The marker of a physical lane in a frame (R332, R361): a lane in use carries its logical lane; the understudy of a swap is marked
0xF while it trains and 0xE, with the lane it copies, from then on; any other lane is idle, 0xF. -/
def DirSt.marker (d : DirSt) (frame phys : Nat) : Nat :=
  let a := d.announced frame
  match (d.map.take (if d.narrow then 7 else 8)).findIdx? fun q => decide (q = phys) with
  | some k => laneMarker phys k frame a.1 a.2.1 a.2.2
  | none =>
    if d.lanes.getD phys .failed = .training ∧ d.swap ≠ .training then laneMarker phys 0xE frame 0 0 d.target
    else laneMarker phys 0xF frame 0 0 (if d.lanes.getD phys .failed = .training then d.target else 0)

end Sys2Proof.Machine
end

