-- ==== Sys2Proof/Machine/CellMover.lean ====
section
/-! DEFINITION. The cell mover (R119, R208, R221): transfers between cell stores and tiers, remote accesses and their target side
(R246), compressed regions (R226 to R231), and the completion of a flagged command (R119, R160). -/

namespace Sys2Proof.Machine

open Sys2Proof

/-! ## Starting a flagged command -/

/-- A flagged command under way. -/
def State.startMover (s : State) (i : Issue) (t : Nat) (f : FlagRef) (k : MoverKind) (landed : Bool) : State :=
  { s with
    movers := s.movers ++ [⟨s.nextReq, i.cell, i.core, i.tag, f, t, k, landed, []⟩], nextReq := s.nextReq + 1 }

/-- The trace code of the queue that a flagged command came from (R176): a RELEASE is a vector command. -/
def MoverOp.queue (m : MoverOp) : Nat :=
  match m.kind with
  | .release _ _ _ | .releaseTier3 _ => 1
  | _ => 2

/-- What the records of a flagged command tell of it (R470, R472). -/
def State.moverInfo (s : State) (m : MoverOp) : EvInfo :=
  { tag := m.tag, cell := m.cell, core := m.core, queue := m.queue, act := s.actOfCell m.cell }

/-- Why an access is refused, as the event code (R208). -/
def AccessErr.code : AccessErr → Nat
  | .misaligned => 0x0202
  | .window => 0x0303

/-- A versioned byte in the range (R59). -/
def State.versioned (s : State) (off len : Nat) : Bool :=
  s.mem.ranges.any fun r => decide (r.base < off + len ∧ off < r.base + r.len)

def State.inIntermission (s : State) (cell : Nat) : Bool :=
  match s.actOfCell cell with
  | some a => a.intermission
  | none => false

/-- A cell-store place of a cell mover. -/
def csOk (cs len : Nat) : Bool := cs % 64 == 0 && decide (cs + len ≤ CSBYTES)

/-- The plan of any cell-mover command: occupancy 1; its windows last until its flag is seen (R495). -/
def moverPlan (refuse : Option Nat) (detail : Nat) (addr : Option Nat) (reads writes : List Region) (f : FlagRef) : Plan :=
  { refuse := refuse, detail := detail, addr := addr, occ := fun _ => 1, eng := 4, reads := reads, rdUntil := fun t => t,
    writes := writes, wrFrom := fun t => t, visible := fun t => t + 1, flagged := some f }

/-- A refused cell-mover command increments its flag at once (R59, R208, R246, R290), where it names one it may (R160). -/
def refusedFlag (i : Issue) (f : FlagRef) (_ : ActiveAct) (s : State) : State :=
  if flagRefused s i.cell f then s else s.flagBump f .mover i.tag

/-! ## Tier 3 -/

/-- The Tier 3 requests of one access, a line each (R399). With the link down a read lands poisoned and a write is dropped (R398).
`cs` is where the first line lands. -/
def State.t3Issue (op cell : Nat) (write : Bool) (off cs : Nat) (data : List Byte) : Nat → State → State
  | 0, s => s
  | n + 1, s =>
    let host := s.t3Host off
    let s :=
      if s.get R.hostLinkRate = 0 then
        if write then s.causeIn (s.actOfCell cell) vCOMMAND
        else
          let (b, s) := s.drawBytes 64
          (s.csWrite cell cs b).causeIn (s.actOfCell cell) vPOISON
      else
        let id := s.nextReq
        let s := { s with nextReq := id + 1, t3 := s.t3 ++ [T3Req.mk id op cell write cs off] }
        if write then s.emit (.hostWrite host (data.take 64) false) else s.emit (.hostRead id host 64)
    State.t3Issue op cell write (off + 64) (cs + 64) (data.drop 64) n s

/-! ## Cell-mover transfers -/

def cmRefuse (s : State) (i : Issue) (f : CmFields) : Option Nat × Option Nat :=
  if flagRefused s i.cell f.flag then (some 0x0202, none)
  else match f.kind with
    | .cellCopy src _ dst len => (if csOk src len && csOk dst len then none else some 0x0202, none)
    | .tierRead off dst len =>
      match s.checkAccess off len with
      | some e => (some e.code, some off)
      | none => (if csOk dst len then none else some 0x0202, none)
    | .tierWrite off src len =>
      match s.checkAccess off len with
      | some e => (some e.code, some off)
      | none =>
        if !csOk src len then (some 0x0202, none)
        else if s.inIntermission i.cell && s.versioned off len then (some 0x0108, none)
        else (none, none)

/-- What a transfer reads and writes (R495). -/
def cmRegions (s : State) (i : Issue) : CmKind → List Region × List Region
  | .tierRead off dst len => (s.tierRegions false off len, [csRegion i.cell dst len])
  | .tierWrite off src len => ([csRegion i.cell src len], s.tierRegions true off len)
  | .cellCopy src cell dst len => ([csRegion i.cell src len], [csRegion cell dst len])

def execCellMoverTransfer (i : Issue) (f : CmFields) (s : State) : Host.Outcome State Fault Refusal :=
  let plan := fun (s : State) (_ : Nat) =>
    let r := cmRefuse s i f
    moverPlan r.1 0 r.2 (cmRegions s i f.kind).1 (cmRegions s i f.kind).2 f.flag
  done <| s.issue 2 i plan (refusedFlag i f.flag) fun r s =>
    let id := s.nextReq
    match f.kind with
    | .tierRead off dst len =>
      if tierOf off = 3 then
        State.t3Issue id i.cell false off dst [] (len / 64) (s.startMover i r.t f.flag (.tier3 (some (dst, len))) false)
      else (s.lockKey off).startMover i r.t f.flag (.tierRead [(off, dst, len)] f.ecc) true
    | .tierWrite off src len =>
      if tierOf off = 3 then
        State.t3Issue id i.cell true off src (r.view.csRead i.cell src len) (len / 64)
          (s.startMover i r.t f.flag (.tier3 none) false)
      else (s.lockKey off).startMover i r.t f.flag (.tierWrite [(off, src, len)]) true
    | .cellCopy src cell dst len => s.startMover i r.t f.flag (.cellCopy src cell dst len) true

/-! ## Remote accesses -/

/-- Where a remote access goes: refused, run here, or sent (R246). -/
def State.remoteRefuse (s : State) (chip off len : Nat) (write : Bool) (cell : Nat) : Option Nat × Nat × Option Nat :=
  if off % 64 ≠ 0 ∨ len % 64 ≠ 0 ∨ len < 64 ∨ 2 ^ 20 < len then (some 0x0202, 0, some off)
  else if (s.mapEntry chip).isNone then (some 0x0504, 1, some off)
  else if s.chip = some chip then
    if (s.checkAccess off len).isSome then (some 0x0504, 2, some off)
    else if write && s.inIntermission cell && s.versioned off len then (some 0x0108, 0, none)
    else (none, 0, none)
  else if (s.route chip off).isNone then (some 0x0504, 3, some off)
  else (none, 0, none)

/-- WINDOW RANGE is counted where the target refuses, here when the target is this module (R246). -/
def State.countTarget (s : State) (r : Option Nat × Nat × Option Nat) : State :=
  if r.1 = some 0x0504 ∧ r.2.1 = 2 then s.inc R.memWindowRange 1 else s

def remoteRefusal (s : State) (i : Issue) (f : RemoteFields) (write : Bool) : Option Nat × Nat × Option Nat :=
  if flagRefused s i.cell f.flag ∨ !csOk f.cs f.len then (some 0x0202, 0, none)
  else s.remoteRefuse f.chip f.off f.len write i.cell

def remotePlan (i : Issue) (f : RemoteFields) (write : Bool) (s : State) (_t : Nat) : Plan :=
  let r := remoteRefusal s i f write
  let reg := [csRegion i.cell f.cs f.len]
  let tier := if s.chip = some f.chip then s.tierRegions write f.off f.len else []
  moverPlan r.1 r.2.1 r.2.2 (if write then reg else tier) (if write then tier else reg) f.flag

def ownChip (s : State) : Nat := s.chip.getD 0

def execRemoteWrite (i : Issue) (f : RemoteFields) (s : State) : Host.Outcome State Fault Refusal :=
  done <| s.issue 2 i (remotePlan i f true)
    (fun a s => refusedFlag i f.flag a (s.countTarget (remoteRefusal s i f true))) fun r s =>
    let id := s.nextReq
    if s.chip = some f.chip then
      if tierOf f.off = 3 then
        State.t3Issue id i.cell true f.off f.cs (r.view.csRead i.cell f.cs f.len) (f.len / 64)
          (s.startMover i r.t f.flag (.tier3 none) false)
      else (s.lockKey f.off).startMover i r.t f.flag (.tierWrite [(f.off, f.cs, f.len)]) true
    else
      (s.startMover i r.t f.flag (.remoteWrite f.off) false).sendLines 3 f.chip (ownChip s) f.off (id % 2 ^ 16) []
        (r.view.csRead i.cell f.cs f.len)

/-- The request of a remote read, in KIND 0x4: its length in the first word of its one line (log 24). -/
def readRequest (dest src off req len : Nat) : Flit :=
  p2pFlit 4 false true dest src off req (natLe 64 len)

def execRemoteRead (i : Issue) (f : RemoteFields) (s : State) : Host.Outcome State Fault Refusal :=
  done <| s.issue 2 i (remotePlan i f false)
    (fun a s => refusedFlag i f.flag a (s.countTarget (remoteRefusal s i f false))) fun r s =>
    let id := s.nextReq
    if s.chip = some f.chip then
      if tierOf f.off = 3 then
        State.t3Issue id i.cell false f.off f.cs [] (f.len / 64)
          (s.startMover i r.t f.flag (.tier3 (some (f.cs, f.len))) false)
      else (s.lockKey f.off).startMover i r.t f.flag (.tierRead [(f.off, f.cs, f.len)] f.ecc) true
    else
      let s := s.startMover i r.t f.flag (.remoteRead f.off f.cs f.len) false
      match s.route f.chip f.off with
      | none => s
      | some p => s.sendFlit p (readRequest f.chip (ownChip s) f.off (id % 2 ^ 16) f.len)

/-! ## The target and the requester (R246) -/

/-- What the one line of a reply without data says in its first word (log 24). -/
def answerCode : RemoteAnswer → Nat
  | .data _ _ => 0
  | .accepted => 1
  | .refusedAtTarget => 2
  | .noPath => 3

/-- The answer to a requester: the lines of a read; for an accepted write or a refusal one line that says which (R336, log 24). -/
def State.answer (s : State) (chip reqId off : Nat) (a : RemoteAnswer) : State :=
  match a with
  | .data b po => s.sendLines 5 chip (ownChip s) off reqId po b
  | a => s.sendLines 5 chip (ownChip s) off reqId [] (natLe 64 (answerCode a))

/-- Tier 3 lines of a served access; `poison` lists the poisoned lines of a write. -/
def State.serveT3 (id : Nat) (write : Bool) (off : Nat) (data : List Byte) (poison : List Nat) : Nat → State → State
  | 0, s => s
  | n + 1, s =>
    let host := s.t3Host off
    let rid := s.nextReq
    let s := { s with nextReq := rid + 1, t3 := s.t3 ++ [T3Req.mk rid id 0 write 0 off] }
    let s := if write then s.emit (.hostWrite host (data.take 64) (poison.contains 0)) else s.emit (.hostRead rid host 64)
    State.serveT3 id write (off + 64) (data.drop 64) (nextLines poison) n s

/-- A remote access at its target: refused under R208, held while its bytes must wait, or served in the act class. While an
Intermission act runs a write to a pending shard is refused (R59). -/
def State.serve (s : State) (r : RemoteReq) : State :=
  if (s.checkAccess r.off r.len).isSome then
    (s.inc R.memWindowRange 1).answer r.srcChip r.reqId r.off .refusedAtTarget
  else if r.write && (s.acts.any ActiveAct.intermission) && s.versioned r.off r.len then
    (s.raise 0x0108 pgCUE {}).answer r.srcChip r.reqId r.off .refusedAtTarget
  else if tierOf r.off = 3 then
    if s.get R.hostLinkRate = 0 then
      if r.write then (s.cause vCOMMAND).answer r.srcChip r.reqId r.off .accepted
      else
        let (b, s) := s.drawBytes r.len
        s.answer r.srcChip r.reqId r.off (.data b (List.range (r.len / 64)))
    else
      let id := s.nextReq
      let s := { s with nextReq := id + 1, serves := s.serves ++ [⟨id, r.srcChip, r.reqId, r.off, r.write, [], []⟩] }
      State.serveT3 id r.write r.off r.data r.poison (r.len / 64) s
  else
    let s := s.touch r.off r.len
    if s.mustWait r.write r.off r.len then
      s.setMem { s.mem with waiting := s.mem.waiting ++ [.remote r (s.heldSince (r.write && s.resyncing r.off r.len))] }
    else if r.write then
      (State.writeLines (r.len / 64) r.off (fitBytes r.len r.data) r.poison (s.stepTouch none r.off r.len)).answer
        r.srcChip r.reqId r.off .accepted
    else
      let (x, s) := s.tierRead (Requester.plain .remote) r.off r.len r.ecc
      s.answer r.srcChip r.reqId r.off (.data x.data x.poison)

/-- Host-initiated flits of 1 to 7 lines to a chip, laid out as those of a point-to-point access (R426). -/
def State.sendHostLines (s : State) (chip off req : Nat) (poison : List Nat) (data : List Byte) : State :=
  let n := ceilDiv data.length 64
  (lineRuns poison n 0 []).foldl (fun s r =>
    let o := off + 64 * r.1
    let b := slice data (64 * r.1) (64 * r.2.1)
    match s.route chip o with
    | none => s
    | some p => s.sendFlit p
        ⟨mkHdr 7 7 r.2.2 0 (decide (r.1 + r.2.1 = n)) b.length (chip + ownChip s * 2 ^ 14) o req, b⟩) s

/-- A host-initiated access at its chip: write lines are taken, a request is answered with lines, held while they must wait (R215,
R309, R402); refused under R208 (R426). -/
def State.serveHost (s : State) (f : Flit) (write : Bool) (ecc : EccErrs) : State :=
  let off := flitOffset f
  let b := f.payload.take (flitLen f)
  let len := if write then b.length else leNat (b.take 8)
  let back := fun (s : State) (a : RemoteAnswer) => s.sendHostLines (flitSrc f) off (flitReqId f) [] (natLe 64 (answerCode a))
  if (s.checkAccess off len).isSome ∨ tierOf off = 3 then back (s.inc R.memWindowRange 1) .refusedAtTarget
  else if write then
    let po := if flitPoison f then List.range (len / 64) else []
    back (s.tierWrite off b po) .accepted
  else
    let s := s.touch off len
    if s.mustWait false off len then s.setMem { s.mem with waiting := s.mem.waiting ++ [.hostRead f] }
    else
      let (x, s) := s.tierRead (Requester.plain .host) off len ecc
      s.sendHostLines (flitSrc f) off (flitReqId f) x.poison x.data

def execRemoteAccessReceived (r : RemoteReq) (s : State) : Host.Outcome State Fault Refusal :=
  if s.dataOn then done (s.serve r) else done s

def State.dropMover (s : State) (id : Nat) : State :=
  { s with movers := s.movers.filter fun m => decide (m.id ≠ id) }

/-- The last byte has landed: the flag increments and the command is complete (R119, R158, R160). -/
def State.endMover (s : State) (m : MoverOp) : State :=
  ((s.dropMover m.id).flagBump m.flag .mover m.tag).landWins (.mover m.id) m.flag

/-- A released entry that has been drained is free (R142). -/
def State.freeEntry (s : State) (cell core seq : Nat) : State :=
  let k := s.core cell core
  s.setCore cell core { k with ftq := k.ftq.map fun (x : FtqEntry) =>
    if x.seq = seq ∧ x.freeAt = none then { x with freeAt := some (s.cell cell).cycle } else x }

/-- The offset of a remote access, while its answer is awaited (R246). -/
def MoverKind.remoteOff : MoverKind → Option Nat
  | .remoteRead off _ _ | .remoteWrite off | .release _ off _ => some off
  | _ => none

/-- What comes back for a remote access: lines land, poisoned ones undefined (R221), a target has accepted, or the access was refused, when the flag increments
at once and the verdict takes COMMAND. -/
def State.remoteReply (s : State) (reqId : Nat) (a : RemoteAnswer) : State :=
  let waits := fun (m : MoverOp) => decide (m.id % 2 ^ 16 = reqId) && !m.landed && m.kind.remoteOff.isSome
  match s.movers.find? waits with
  | none => s
  | some m =>
    let land := fun (s : State) =>
      { s with movers := s.movers.map fun (x : MoverOp) => if x.id = m.id then { x with landed := true } else x }
    let refuse := fun (s : State) (cause : Nat) =>
      let act := s.actOfCell m.cell
      let s := (s.inc R.collRefused 1).set R.collRefusedLast cause
      let s := s.raise 0x0504 pgCOLL { s.moverInfo m with detail := cause, addr := m.kind.remoteOff }
      (s.causeIn act vCOMMAND).endMover m
    match a with
    | .data b po =>
      match m.kind with
      | .remoteRead _ cs len =>
        let s := s.csWrite m.cell cs (fitBytes len b)
        let s := po.foldl (fun (s : State) i => s.scramble (csRegion m.cell (cs + 64 * i) 64)) s
        let s := if s.spoiledOp (.mover m.id) then s.scramble (csRegion m.cell cs len) else s
        land (if po.isEmpty then s else s.causeIn (s.actOfCell m.cell) vPOISON)
      | _ => s
    | .accepted => match m.kind with
      | .remoteRead _ _ _ => s
      | _ => land s
    | .refusedAtTarget => refuse s 2
    | .noPath => refuse s 3

def execRemoteReplyReceived (reqId : Nat) (a : RemoteAnswer) (s : State) : Host.Outcome State Fault Refusal :=
  done (s.remoteReply reqId a)

/-! ## Compressed regions -/

/-- Bytes of a region's page map, rounded up (R226). -/
def MRegion.mapSize (r : MRegion) : Nat := ceilDiv (8 * r.pages) 131072 * 131072

def MRegion.stacks (r : MRegion) : Nat := if r.tier2 then 16 else 8

/-- The stack a page lives in, 0 to 23 (R226). -/
def State.pageStack (s : State) (r : MRegion) (p : Nat) : Nat :=
  if r.tier2 then 8 + (mix64 (p ^^^ s.key2)) >>> 60 else (mix64 (p ^^^ s.key1)) >>> 61

/-- Lines of each stack's share beyond the map (R231). -/
def MRegion.share (r : MRegion) : Nat := (r.size - r.mapSize) / r.stacks / 64

/-- The source format of a narrowing region. -/
def MRegion.srcFmt (r : MRegion) : Byte := if r.elem = 0 then 0x00 else 0x01

/-- A narrowed page as it reads back (R228): Q8E4 in blocks of 32, widened to its source format, and how many elements the widening
overflows (R87). -/
def narrowPage (fmt : Byte) (b : List Byte) : List Byte × Nat :=
  let n := 4096 / elemBytes fmt
  let a := b.toArray
  let v := readValues fmt (fun i => a.getD i 0) (fun _ => 0) (.ofNat 1) n
  let e := encodeValues 0x23 (.ofNat 1) (fun _ => .nearest) v
  let codes := e.codes.toArray
  let scl := e.e8.toArray
  let w := readValues 0x23 (fun i => BitVec.ofNat 8 (codes.getD i 0)) (fun i => BitVec.ofNat 8 (scl.getD i 0)) (.ofNat 1) n
  let back := encodeValues fmt (.ofNat 1) (fun _ => .nearest) w
  (packCodes fmt (fun _ => 0) back.codes, back.ovf)

/-- Lines one page takes (R228). -/
def MRegion.lines (r : MRegion) (b : List Byte) : Nat :=
  if r.narrow then (if r.elem = 0 then 17 else 33)
  else
    let w := 2 ^ r.elem
    let els := piecesOf w (4096 / w) b
    if els.all (fun e => e == els.headD []) then 0
    else
      let z := (els.filter fun e => e.all (· == 0)).length
      let bytes := 8 + 4096 / (8 * w) + (4096 / w - z) * w
      let l := ceilDiv bytes 64
      if 64 ≤ l then 64 else l

/-- Pages lie in a physical range from now on: what it held is overwritten (R230). -/
def State.markStale (s : State) (lo n : Nat) : State :=
  s.setMem { s.mem with stale := (s.mem.stale.filter fun x => !(decide (lo ≤ x.1 ∧ x.1 + x.2 ≤ lo + n))) ++ [(lo, n)] }

/-- Store one page (R229, R231): new lines from its stack's share, or lost. -/
def State.storePage (s : State) (who : EvInfo) (idx p : Nat) (b : List Byte) (undef : Bool) : State :=
  match s.mem.regions.find? fun r => decide (r.index = idx) with
  | none => s
  | some r =>
    let s := s.markStale r.base r.size
    let st := s.pageStack r p
    let n := r.lines b
    let used := AMap.get r.drawn st 0
    if r.share < used + n then
      let s := s.setRegion { r with map := AMap.put r.map p ⟨true, false, [], 0⟩, fullRaised := true, loose := false }
      let s := s.inc R.memAllotFull 1
      if r.fullRaised then s else s.raise 0x0304 pgMEM { who with detail := idx }
    else
      let (b, s) := if undef then s.drawBytes 4096 else (b, s)
      let x := if r.narrow && !undef then narrowPage r.srcFmt b else (b, 0)
      s.setRegion { r with map := AMap.put r.map p ⟨false, false, x.1, x.2⟩, drawn := AMap.put r.drawn st (used + n), loose := false }

/-- The stack of a page is down (R223): a write of it is dropped. -/
def State.pageDown (s : State) (idx p : Nat) : Bool :=
  (s.mem.regions.find? fun r => decide (r.index = idx)).elim false fun r => s.stackDown (s.pageStack r p)

/-- Symbols in error in the lines of a page (R219), a number a line. -/
def pageErrs (ecc : EccErrs) (k : Nat) : List Nat := (ecc.filter fun e => decide (e.1 / 64 = k)).map (·.2)

/-- A page of a region is delivered whole with the poison mark (R221): `n` lines of it counted, one event, at an offset of its stack's
share, which the spec leaves private (R226, log 73). -/
def State.pageFails (s : State) (who : EvInfo) (r : MRegion) (n : Nat) : List Byte × Bool × State :=
  let (w, s) := s.drawWord
  let off := r.base + r.mapSize + 64 * (w.toNat % ((r.size - r.mapSize) / 64))
  let s := s.inc R.memUncCount n
  let s := if s.flagReg R.memUncFirstValid then s
    else (s.set2 R.memUncFirstLo R.memUncFirstHi off).set R.memUncFirstValid 1
  let (b, s) := s.drawBytes 4096
  (b, true, s.raise 0x0302 pgMEM { who with detail := Requester.region.code, addr := some off })

/-- The lines of a page that are corrected count in the page's stack (R220), in a channel and a row that the spec leaves private. -/
def State.correctPage (s : State) (st : Nat) (errs : List Nat) : State :=
  (errs.filter fun n => decide (1 ≤ n ∧ n ≤ 3)).foldl (fun (s : State) _ =>
    let (ch, s) := s.drawWord
    let (row, s) := s.drawWord
    s.correctedIn st (ch.toNat % 32) row.toNat) s

/-- One page of a read (R221, R229, R231): bytes and whether it is poisoned. Of a lost page all 64 lines are; a line that fails stays
so until its page is written again. The overflows of a widening count in the mover queue of the core that reads (R93). -/
def State.loadPage (s : State) (who : EvInfo) (idx p : Nat) (errs : List Nat) : List Byte × Bool × State :=
  match s.mem.regions.find? fun r => decide (r.index = idx) with
  | none => (List.replicate 4096 0, false, s)
  | some r =>
    let page := AMap.get r.map p ⟨false, false, List.replicate 4096 0, 0⟩
    let st := s.pageStack r p
    let s := s.correctPage st errs
    let failing := (errs.filter fun n => decide (4 ≤ n ∧ n ≤ 5)).length
    let (seen, s) := s.drawBool
    let maybe := (errs.filter fun n => decide (6 ≤ n)).length
    let failing := if seen then failing + maybe else failing
    if page.lost then s.pageFails who r 64
    else if s.stackDown st ∨ page.poison then
      let n := max 1 (r.lines page.bytes)
      (s.inc (R.stackUncorrectable st) n).pageFails who r n
    else if failing ≠ 0 then
      let s := s.setRegion { r with map := AMap.put r.map p { page with poison := true } }
      (s.inc (R.stackUncorrectable st) failing).pageFails who r failing
    else if r.undef ∨ maybe ≠ 0 then
      let (b, s) := s.drawBytes 4096
      (b, false, s)
    else (page.bytes, false, s.sticky who.cell who.core 2 who.act ⟨page.ovf, 0⟩ (s.cell who.cell).cycle)

def regionOk (s : State) (region page count : Nat) : Bool :=
  s.mem.regions.any fun r => decide (r.index = region ∧ page + count ≤ r.pages)

def pageRefuse (s : State) (i : Issue) (f : PageFields) : Option Nat :=
  if flagRefused s i.cell f.flag then some 0x0202
  else if f.cs % 4096 ≠ 0 ∨ CSBYTES < f.cs + 4096 * f.count then some 0x0202
  else if regionOk s f.region f.page f.count then none else some 0x0303

/-- The allotment that a refused region command concerns, where there is one. -/
def regionAddr (s : State) (region : Nat) : Option Nat := (s.mem.regions.find? fun r => decide (r.index = region)).map (·.base)

def lockRegion (s : State) (region : Nat) : State :=
  match s.mem.regions.find? fun r => decide (r.index = region) with
  | some r => s.lockKey r.base
  | none => s

/-- Pages of a PAGE WRITE under way on a region, and whether a REGION RESET of it is. -/
def clashPages (s : State) (region : Nat) : List Nat :=
  s.movers.flatMap fun m => match m.kind with
    | .pageWrite r p c _ => if r = region then (List.range c).map (p + ·) else []
    | _ => []

def resetUnderWay (s : State) (region : Nat) : Bool :=
  s.movers.any fun m => match m.kind with
    | .regionReset r => decide (r = region)
    | _ => false

def execPageWrite (i : Issue) (f : PageFields) (s : State) : Host.Outcome State Fault Refusal :=
  let plan := fun (s : State) (_ : Nat) =>
    moverPlan (pageRefuse s i f) 0 (regionAddr s f.region) [csRegion i.cell f.cs (4096 * f.count)] [] f.flag
  done <| s.issue 2 i plan (refusedFlag i f.flag) fun r s =>
    let pages := (List.range f.count).map (f.page + ·)
    let under := resetUnderWay s f.region
    let s := { s with movers := s.movers.map fun (m : MoverOp) =>
      match m.kind with
      | .regionReset x => if x = f.region then { m with clash := m.clash ++ pages } else m
      | _ => m }
    let s := (lockRegion s f.region).startMover i r.t f.flag (.pageWrite f.region f.page f.count f.cs) true
    if under then
      { s with movers := s.movers.map fun (m : MoverOp) => if m.id + 1 = s.nextReq then { m with clash := pages } else m }
    else s

def execPageRead (i : Issue) (f : PageFields) (s : State) : Host.Outcome State Fault Refusal :=
  let plan := fun (s : State) (_ : Nat) =>
    moverPlan (pageRefuse s i f) 0 (regionAddr s f.region) [] [csRegion i.cell f.cs (4096 * f.count)] f.flag
  done <| s.issue 2 i plan (refusedFlag i f.flag) fun r s =>
    (lockRegion s f.region).startMover i r.t f.flag (.pageRead f.region f.page f.count f.cs f.ecc) true

def execRegionReset (i : Issue) (region : Nat) (flag : FlagRef) (s : State) : Host.Outcome State Fault Refusal :=
  let plan := fun (s : State) (_ : Nat) =>
    moverPlan (if flagRefused s i.cell flag then some 0x0202 else if regionOk s region 0 0 then none else some 0x0303)
      0 none [] [] flag
  done <| s.issue 2 i plan (refusedFlag i flag) fun r s =>
    let pages := clashPages s region
    let s := { s with movers := s.movers.map fun (m : MoverOp) =>
      match m.kind with
      | .pageWrite x p c _ => if x = region then { m with clash := (List.range c).map (p + ·) } else m
      | _ => m }
    let s := (lockRegion s region).startMover i r.t flag (.regionReset region) true
    { s with movers := s.movers.map fun (m : MoverOp) => if m.id + 1 = s.nextReq then { m with clash := pages } else m }

/-! ## Completion -/

/-- A piece of a tier read lands in a cell store (R221): poisoned lines land undefined and set POISON. -/
def State.landPiece (m : MoverOp) (ecc : EccErrs) (s : State) (x : Nat × Nat × Nat) : State :=
  let (r, s) := s.readSpan ⟨.cellMover, s.moverInfo m⟩ x.1 x.2.2 ecc
  let s := s.csWrite m.cell x.2.1 r.data
  if r.bad then s.causeIn (s.actOfCell m.cell) vPOISON else s

/-- A piece of a tier write leaves a cell store: undefined where its window was touched, or where an UPDATE WRITE meets a PERMUTE of
its shard (R268, R495). -/
def State.storePiece (m : MoverOp) (spoiled : Bool) (s : State) (x : Nat × Nat × Nat) : State :=
  let data := s.csRead m.cell x.2.1 x.2.2
  let clash := s.mem.updated.contains (x.1, x.2.2) && !(s.inShardOf (x.1, x.2.2) s.mem.permuted).isEmpty
  let (data, s) := if spoiled || clash then s.drawBytes x.2.2 else (data, s)
  ((s.lockKey x.1).stepTouch (s.actOfCell m.cell) x.1 x.2.2).writeSpan x.1 data []

/-- Whether the bytes of a flagged command must wait (R215, R306, R309, R402). -/
def State.moverWaits (s : State) (m : MoverOp) : Bool :=
  match m.kind with
  | .tierRead l _ => l.any fun x => s.mustWait false x.1 x.2.2
  | .tierWrite l => l.any fun x => s.mustWait true x.1 x.2.2
  | .release _ off (some b) => s.mustWait true off b.length
  | .pageWrite r _ _ _ => (s.mem.regions.find? fun x => decide (x.index = r)).elim false fun x => s.mustWait true x.base 64
  | .pageRead r _ _ _ _ => (s.mem.regions.find? fun x => decide (x.index = r)).elim false fun x => s.mustWait false x.base 64
  | _ => false

def State.moverInvalidates (s : State) (m : MoverOp) : State :=
  match m.kind with
  | .tierRead l _ => l.foldl (fun s x => s.touch x.1 x.2.2) s
  | .tierWrite l => l.foldl (fun s x => s.touch x.1 x.2.2) s
  | .release _ off (some b) => s.touch off b.length
  | _ => s

/-- What a flagged command moves when its last byte lands. -/
def State.moveData (s : State) (m : MoverOp) : State :=
  let bad := s.spoiledOp (.mover m.id)
  match m.kind with
  | .tierRead l ecc =>
    let s := l.foldl (State.landPiece m ecc) s
    if bad then s.scrambleAll (l.map fun x => csRegion m.cell x.2.1 x.2.2) else s
  | .tierWrite l => l.foldl (State.storePiece m bad) s
  | .cellCopy src cell dst len =>
    let s := s.csWrite cell dst (s.csRead m.cell src len)
    if bad then s.scramble (csRegion cell dst len) else s
  | .pageWrite r p c cs =>
    (List.range c).foldl (fun s k =>
      if s.pageDown r (p + k) then s.causeIn (s.actOfCell m.cell) vCOMMAND
      else s.storePage (s.moverInfo m) r (p + k) (s.csRead m.cell (cs + 4096 * k) 4096) (bad || m.clash.contains (p + k))) s
  | .pageRead r p c cs ecc =>
    let s := (List.range c).foldl (fun s k =>
      let (b, po, s) := s.loadPage (s.moverInfo m) r (p + k) (pageErrs ecc k)
      let s := s.csWrite m.cell (cs + 4096 * k) b
      if po then s.causeIn (s.actOfCell m.cell) vPOISON else s) s
    if bad then s.scramble (csRegion m.cell cs (4096 * c)) else s
  | .regionReset r =>
    match s.mem.regions.find? fun x => decide (x.index = r) with
    | none => s
    | some x =>
      let s := (s.setRegion { x with map := [], drawn := [], loose := true, undef := false }).markStale x.base x.mapSize
      (m.clash.filter fun p => (AMap.find x.map p).isSome).foldl (fun s p => s.storePage (s.moverInfo m) r p [] true) s
  | .remoteRead _ cs len | .tier3 (some (cs, len)) => if bad then s.scramble (csRegion m.cell cs len) else s
  | .release seq off (some b) =>
    ((s.stepTouch (s.actOfCell m.cell) off b.length).writeSpan off b []).freeEntry m.cell m.core seq
  | .release seq _ none => s.freeEntry m.cell m.core seq
  | .releaseTier3 seq => s.freeEntry m.cell m.core seq
  | _ => s

/-- A resync holds it: one of its writes is to a page that waits for one (R306). -/
def State.moverResyncs (s : State) (m : MoverOp) : Bool :=
  match m.kind with
  | .tierWrite l => l.any fun x => s.resyncing x.1 x.2.2
  | .release _ off (some b) => s.resyncing off b.length
  | _ => false

/-- A command whose bytes are free to move completes; one that must wait is held (R215, R306, R309). -/
def State.tryMover (s : State) (m : MoverOp) : State × Bool :=
  let s := s.moverInvalidates m
  if s.moverWaits m then (s, false) else ((s.moveData m).endMover m, true)

/-- Commands whose lines are Tier 3 requests (R399). -/
def MoverKind.viaHost : MoverKind → Bool
  | .tier3 _ | .releaseTier3 _ => true
  | _ => false

/-- The oldest such command whose requests have been answered completes. -/
def execCellMoverComplete (cell : CellId) (core : CoreId) (tag : Word) (s : State) : Host.Outcome State Fault Refusal :=
  let ready := fun (m : MoverOp) =>
    decide (m.cell = cell.val ∧ m.core = core.val ∧ m.tag = tag) &&
      (m.landed || (m.kind.viaHost && !(s.t3.any fun r => decide (r.op = m.id)))) &&
      !(s.mem.waiting.any fun w => match w with
        | .mover id _ => decide (id = m.id)
        | _ => false)
  match s.movers.find? ready with
  | none => done s
  | some m =>
    let (s, ok) := s.tryMover m
    done (if ok then s else
      s.setMem { s.mem with waiting := s.mem.waiting ++ [.mover m.id (s.heldSince (s.moverResyncs m))] })

end Sys2Proof.Machine
end

