-- ==== Sys2Proof/Machine/Update.lean ====
section
/-! DEFINITION. Parameter update (R276 to R301): schedule curves and per-step scalars, the block rules, NET updates, refusals,
frozen groups, UPDATE READ and UPDATE WRITE. -/

namespace Sys2Proof.Machine

open Sys2Proof

/-! ## Per-step scalars (R282, R283) -/

def sub32 (a b : Word) : Word × Counts := finish32 ((f32 a).add (f32 b).neg)

def one32 : Word := 0x3F800000

/-- An unsigned integer as F32, nearest even. -/
def ofNat32 (n : Nat) : Word := (toF32 (.ofNat n)).1

/-- The points of a curve. -/
def UpdSt.points (u : UpdSt) (c : Nat × Nat) : List (Nat × Word) := (u.curves.drop c.1).take c.2

def curveIn (x : Nat) : List (Nat × Word) → Word
  | [] => 0
  | [p] => p.2
  | p :: q :: l =>
    if q.1 ≤ x then curveIn x (q :: l)
    else
      let f := (div32 (ofNat32 (x - p.1)) (ofNat32 (q.1 - p.1))).1
      let dy := (sub32 q.2 p.2).1
      (fma32 f dy p.2).1

/-- A curve at a committed-step count (R282). -/
def curveAt (l : List (Nat × Word)) (x : Nat) : Word :=
  match l with
  | [] => 0
  | p :: _ => if x ≤ p.1 then p.2 else curveIn x l

/-- b^t by squaring from the most significant set bit (R283). -/
def pow32 (b : Word) (t : Nat) : Word :=
  let bits := ((List.range 32).filter fun i => decide (2 ^ i ≤ t)).reverse
  bits.foldl (fun p i =>
    let p := (mul32 p p).1
    if bitAt t i then (mul32 p b).1 else p) one32

/-- t = c - BIRTH + 1 in 32 bits. -/
def birthStep (c : Nat) (g : UGroup) : Nat := (c % 2 ^ 32 + 2 ^ 32 - g.birth % 2 ^ 32 + 1) % 2 ^ 32

def scalarsOf (u : UpdSt) (c : Nat) (g : UGroup) : Scalars :=
  let x := c % 2 ^ 32
  let b1 := curveAt (u.points g.curveB1) x
  let b2 := curveAt (u.points g.curveB2) x
  let t := birthStep c g
  { lr := curveAt (u.points g.curveLr) x, wd := curveAt (u.points g.curveWd) x, b1 := b1, b2 := b2,
    c1 := (sub32 one32 b1).1, c2 := (sub32 one32 b2).1,
    a1 := (div32 one32 (sub32 one32 (pow32 b1 t)).1).1,
    a2 := (div32 one32 (sub32 one32 (pow32 b2 t)).1).1, gradMul := g.gradMul, eps := g.eps, damp := g.damp, tol := g.tol,
    rootDue := g.rootEvery != 0 && (x + 2 ^ 32 - g.birth % 2 ^ 32) % 2 ^ 32 % g.rootEvery == 0,
    first := t == 1 }

/-- Scalars of every group, fixed for the step; a new step raises FROZEN DROP anew (R283, R296). -/
def State.deriveScalars (s : State) : State :=
  let u := s.upd
  { s with upd := { u with scalars := u.groups.map (scalarsOf u s.stepCount) } }

/-- A group's scalars in the step in progress; those of a group that a reload has brought in since are its own. -/
def State.scalarsFor (s : State) (idx : Nat) (g : UGroup) : Scalars := s.upd.scalars.getD idx (scalarsOf s.upd s.stepCount g)

/-- The 64 bytes of a scalar block (R283). -/
def scalarBlock (g : UGroup) (x : Scalars) : List Byte :=
  wordsLe ([x.lr, x.wd, x.b1, x.b2, x.c1, x.c2, x.a1, x.a2, x.gradMul, x.eps, x.damp, x.tol].map BitVec.toNat ++
    [boolNat x.rootDue + 2 * boolNat x.first + 4 * boolNat g.frozen, g.iterLimit % 256 + g.rootP % 8 * 256, 0, 0])

/-! ## The block rules (R278) -/

/-- The common part of every rule: the new weight from `u` and the committed weight. -/
def commonPart (x : Scalars) (u w0 : Word) : Word × Counts :=
  let t1 := mul32 x.wd w0
  let t2 := add32 u t1.1
  let t3 := mul32 x.lr t2.1
  let w := sub32 w0 t3.1
  (w.1, [t1.2, t2.2, t3.2, w.2].foldl Counts.add .zero)

/-- One element: new weight, first and second moments, counts. `m0`, `v0` are 0 in a group's first step (R298). -/
def blockRule (g : UGroup) (x : Scalars) (grad w0 m0 v0 : Word) : Word × Word × Word × Counts :=
  let gr := mul32 x.gradMul grad
  let r : Word × Word × Word × Counts :=
    match g.rule with
    | 1 => (gr.1, 0, 0, gr.2)
    | 2 =>
      let m := fma32 x.b1 m0 gr.1
      (m.1, m.1, 0, gr.2.add m.2)
    | _ =>
      let p := mul32 x.c1 gr.1
      let m := fma32 x.b1 m0 p.1
      let gg := mul32 gr.1 gr.1
      let q := mul32 x.c2 gg.1
      let v := fma32 x.b2 v0 q.1
      let mh := mul32 m.1 x.a1
      let vh := mul32 v.1 x.a2
      let sq := sqrt32 vh.1
      let d := add32 sq.1 x.eps
      let u := div32 mh.1 d.1
      (u.1, m.1, v.1, [gr.2, p.2, m.2, gg.2, q.2, v.2, mh.2, vh.2, sq.2, d.2, u.2].foldl Counts.add .zero)
  let w := commonPart x r.1 w0
  (w.1, r.2.1, r.2.2.1, r.2.2.2.add w.2)

/-- The format byte of moments: Q8E4 in blocks of 32 with MROUND's rounding (R284). -/
def UGroup.momFmt (g : UGroup) : Byte := BitVec.ofNat 8 (0x23 + 0x40 * g.mround)

/-- The committed elements of a moment plane, as F32 words, with the elements that overflow (R87). -/
def momWords (codes scl : List Byte) : List (Word × Bool) :=
  let a := codes.toArray
  let e := scl.toArray
  (readValues 0x23 (fun i => a.getD i 0) (fun i => e.getD i 0) (.ofNat 1) codes.length).map toF32

/-- A plane of F32 words as bytes, and back. -/
def wordsOf (b : List Byte) : List Word := (piecesOf 4 (b.length / 4 + 1) b).map fun p => BitVec.ofNat 32 (leNat p)
def bytesOfWords (l : List Word) : List Byte := l.flatMap fun w => natLe 4 w.toNat

/-- Encode `l` into a format byte's planes (R284, R285). -/
def encodePlane (fmt : Byte) (seed c first : Nat) (l : List Word) : List Byte × List Byte × Nat :=
  let e := encodeValues fmt (.ofNat 1) (fun k => roundOf fmt (seed % 2 ^ 64) c 0 (first + k)) (l.map f32)
  (packCodes fmt (fun _ => 0) e.codes, e.e8.map (BitVec.ofNat 8), e.ovf)

/-- Ranges of a NET update of `n` elements from shard element `a`: those it reads, (offset, bytes). -/
def netReads (g : UGroup) (a n : Nat) : List (Nat × Nat) :=
  let mom := fun (o : Nat) => [(o + a, n), (o + g.shardLen + a / 32, n / 32)]
  [(g.master + 4 * a, 4 * n)] ++ (if g.hasM then mom g.mom1 else []) ++ (if g.hasV then mom g.mom2 else [])

/-- Ranges that it writes. -/
def netWrites (g : UGroup) (a n : Nat) : List (Nat × Nat) :=
  let b := fmtBlock g.workFmt
  netReads g a n ++
    (if g.workEn then
      (g.work + planeBytes g.workFmt a, planeBytes g.workFmt n) ::
        (if b = 0 then [] else [(g.work + planeBytes g.workFmt g.shardLen + a / b, n / b)])
    else [])

def State.netBlocked (s : State) (g : UGroup) (a n : Nat) : Bool :=
  (netReads g a n).any fun x => s.mustWait false x.1 x.2

/-- Read one range for the link complex: a poisoned line sets POISON (R318). -/
def State.netRead (s : State) (who : EvInfo) (off len : Nat) : List Byte × State :=
  let (r, s) := (s.touch off len).readSpan ⟨.linkComplex, who⟩ off len []
  (r.data, if r.bad then s.causeIn who.act vPOISON else s)

/-- Gradient elements that are infinite or NaN. -/
def nonFinite (grad : List Word) : Nat := (grad.filter fun w => !(f32 w).isFin).length

/-- A NET update of some blocks (R286): `grad` are F32 words of the reduced share, from shard element `a` on. `told`: the command has
raised GRADIENT NONFINITE (R280). -/
def State.netUpdate (s : State) (idx : Nat) (g : UGroup) (a : Nat) (grad : List Word) (told : Bool) (cg : Nat)
    (act : Option ActiveAct) (tag : Word) : State :=
  let n := grad.length
  let x := s.scalarsFor idx g
  let bad := nonFinite grad
  let who : EvInfo := { tag := tag, group := cg, queue := 4, act := act }
  let s := if bad = 0 then s
    else
      let s := s.inc R.updNonfinite bad
      let s := if told then s
        else s.raise 0x0624 pgUPD { who with detail := idx }
      s.causeIn act vOVERFLOW
  let (mb, s) := s.netRead who (g.master + 4 * a) (4 * n)
  let mom := fun (keep : Bool) (o : Nat) (s : State) =>
    if keep && !x.first then
      let (c, s) := s.netRead who (o + a) n
      let (e, s) := s.netRead who (o + g.shardLen + a / 32) (n / 32)
      (momWords c e, s)
    else (List.replicate n ((0 : Word), false), s)
  let (m0, s) := mom g.hasM g.mom1 s
  let (v0, s) := mom g.hasV g.mom2 s
  let r := (grad.zip ((wordsOf mb).zip (m0.zip v0))).map fun p => blockRule g x p.1 p.2.1 p.2.2.1.1 p.2.2.2.1
  let wide := ((m0 ++ v0).filter (·.2)).length
  let counts := r.foldl (fun (c : Counts) y => c.add y.2.2.2) ⟨wide, 0⟩
  let c := s.stepCount
  let first := g.shardFirst + a
  let seed := g.seed.toNat
  let s := s.shardWrite true act (g.master + 4 * a) (bytesOfWords (r.map (·.1)))
  let put := fun (keep : Bool) (o k : Nat) (l : List Word) (s : State) =>
    if keep then
      let (codes, e, _) := encodePlane g.momFmt (seed + k) c first l
      (s.shardWrite true act (o + a) codes).shardWrite true act (o + g.shardLen + a / 32) e
    else s
  let s := put g.hasM g.mom1 1 (r.map (·.2.1)) s
  let s := put g.hasV g.mom2 2 (r.map (·.2.2.1)) s
  let (s, ovf) :=
    if g.workEn then
      let (codes, e, ovf) := encodePlane g.workFmt (seed + 3) c first (r.map (·.1))
      let s := s.shardWrite true act (g.work + planeBytes g.workFmt a) codes
      let s := if e.isEmpty then s
        else s.shardWrite true act (g.work + planeBytes g.workFmt g.shardLen + a / fmtBlock g.workFmt) e
      (s, ovf)
    else (s, 0)
  s.stickyGroup cg act (counts.add ⟨ovf, 0⟩)

/-! ## Refusals and frozen groups (R290, R296, R297) -/

def State.ugroup (s : State) (g : Nat) : Option UGroup :=
  if g < s.get R.updGroups then (s.upd.groups[g]?).filter (·.valid) else none

/-- The flags of a group as an act has them (R301): those in force when it started. -/
def frozenFor (a : Option ActiveAct) (idx : Nat) (g : UGroup) : Bool := a.elim g.frozen fun a => a.frozen.contains idx
def strictFor (a : Option ActiveAct) (idx : Nat) (g : UGroup) : Bool := a.elim g.strict fun a => a.strict.contains idx

/-- One discarded command of a frozen group. -/
def State.frozenDrop (s : State) (idx : Nat) (g : UGroup) (act : Option ActiveAct) (e : EvInfo) : State :=
  let s := s.inc R.updFrozenDrops 1
  let s := if s.upd.frozenRaised.contains idx then s
    else
      ({ s with upd := { s.upd with frozenRaised := s.upd.frozenRaised ++ [idx] } }).raise 0x0620 pgUPD
        { e with detail := idx, severe := strictFor act idx g, act := act }
  if strictFor act idx g then s.causeIn act vSTRICT else s

/-- The layer of a group that begins at a shard element, with its index. -/
def State.layerAt (s : State) (idx first : Nat) : Option (Nat × ULayer) :=
  let l := s.upd.layers.getD idx []
  (l.findIdx? fun y => decide (y.first = first)).map fun k => (k, l.getD k default)

/-- Bytes of a layer's state block (R292). -/
def ULayer.stateBytes (y : ULayer) : Nat := 64 + 8 * y.rows * y.rows + 8 * y.cols * y.cols

def keepsPart (g : UGroup) (part : Nat) : Bool :=
  match part with
  | 0 => true
  | 1 => g.hasM
  | 2 => g.hasV
  | 3 => g.workEn
  | 4 => decide (g.rule = 8)
  | _ => false

/-- The first failing cause of an UPDATE READ or UPDATE WRITE (R290; a length of 0 counts as misaligned, R208); 0 when none. -/
def updCause (s : State) (f : UpdFields) (write : Bool) : Nat :=
  match s.ugroup f.group with
  | none => 1
  | some g =>
    if write && g.net then 2
    else if f.part ≠ 4 ∧ (f.count = 0 ∨ f.first % 64 ≠ 0 ∨ f.count % 64 ≠ 0 ∨ g.shardLen < f.first + f.count) then 4
    else if !keepsPart g f.part || (f.part == 4 && (s.layerAt f.group f.first).isNone) then 5
    else 0

/-- The pieces of a part: (offset, bytes) in cell-store order (R288). -/
def updPieces (s : State) (f : UpdFields) : List (Nat × Nat) :=
  match s.ugroup f.group with
  | none => []
  | some g =>
    let mom := fun (o : Nat) => [(o + f.first, f.count), (o + g.shardLen + f.first / 32, f.count / 32)]
    match f.part with
    | 0 => [(g.master + 4 * f.first, 4 * f.count)]
    | 1 => mom g.mom1
    | 2 => mom g.mom2
    | 3 =>
      (g.work + planeBytes g.workFmt f.first, planeBytes g.workFmt f.count) ::
        (if fmtBlock g.workFmt = 0 then []
         else [(g.work + planeBytes g.workFmt g.shardLen + f.first / fmtBlock g.workFmt, f.count / fmtBlock g.workFmt)])
    | _ => match s.layerAt f.group f.first with
      | some (_, y) => [(y.state, y.stateBytes)]
      | none => []

/-- Pieces with their cell-store addresses, one after the other. -/
def placePieces : Nat → List (Nat × Nat) → List (Nat × Nat × Nat)
  | _, [] => []
  | cs, (off, len) :: l => if len = 0 then placePieces cs l else (off, cs, len) :: placePieces (cs + len) l

/-- The tier bytes of a part, for a read or a write. -/
def updRegions (s : State) (f : UpdFields) (write : Bool) : List Region :=
  (updPieces s f).flatMap fun x => if x.2 = 0 then [] else s.tierRegions write x.1 x.2

def updBytes (s : State) (f : UpdFields) : Nat := ((updPieces s f).map (·.2)).sum

/-- Why an update command is refused, with DETAIL and ADDR: the flag, the Intermission (R59), R290 in its order, a copy at ALT (R305),
the cell-store place. -/
def updRefuse (s : State) (i : Issue) (f : UpdFields) (write : Bool) : Option Nat × Nat × Option Nat :=
  if flagRefused s i.cell f.flag then (some 0x0202, 0, none)
  else if s.inIntermission i.cell then (some 0x0108, 0, none)
  else if updCause s f write ≠ 0 then (some 0x0622, updCause s f write, none)
  else match (updPieces s f).find? fun x => s.inAlt x.1 x.2 with
    | some x => (some 0x0303, 0, some x.1)
    | none => if !csOk f.cs (updBytes s f) then (some 0x0202, 0, none) else (none, 0, none)

def execUpdateRead (i : Issue) (f : UpdFields) (s : State) : Host.Outcome State Fault Refusal :=
  let plan := fun (s : State) (_ : Nat) =>
    let r := updRefuse s i f false
    moverPlan r.1 r.2.1 r.2.2 (updRegions s f false) [csRegion i.cell f.cs (updBytes s f)] f.flag
  done <| s.issue 2 i plan (refusedFlag i f.flag) fun r s =>
    s.startMover i r.t f.flag (.tierRead (placePieces f.cs (updPieces s f)) f.ecc) true

/-- What a write of a layer's state block tells (R295): its ROOT_OK against the committed one and the recompute that was due. -/
def State.rootReport (s : State) (i : Issue) (f : UpdFields) (rootOk : Nat) (act : Option ActiveAct) : State :=
  match s.ugroup f.group, s.layerAt f.group f.first with
  | some g, some (k, y) =>
    let x := s.scalarsFor f.group g
    let s := if x.first then s else s.visit y.state 4
    let ok0 := if x.first then 0 else leNat (s.peek y.state 4)
    let due := x.rootDue || ok0 == 0
    if rootOk = 0 ∧ due then
      let s := (s.inc R.updFallbacks 1).set R.updFallbackLastGroup f.group
      let s := s.set R.updFallbackLastLayer k
      s.raise 0x0621 pgUPD
        { tag := i.tag, cell := i.cell, core := i.core, queue := 2, detail := f.group % 1024 + k % 65536 * 1024, act := act }
    else if rootOk = 2 ∧ due then s.inc R.updDamped 1
    else s
  | _, _ => s

def execUpdateWrite (i : Issue) (f : UpdFields) (s : State) : Host.Outcome State Fault Refusal :=
  let frozen := fun (s : State) => (s.ugroup f.group).elim false (frozenFor (s.actOfCell i.cell) f.group)
  let plan := fun (s : State) (_ : Nat) =>
    let r := updRefuse s i f true
    if frozen s then moverPlan r.1 r.2.1 r.2.2 [] [] f.flag
    else moverPlan r.1 r.2.1 r.2.2 [csRegion i.cell f.cs (updBytes s f)] (updRegions s f true) f.flag
  done <| s.issue 2 i plan (refusedFlag i f.flag) fun r s =>
    match s.ugroup f.group with
    | none => s
    | some g =>
      if frozenFor (some r.act) f.group g then
        (s.frozenDrop f.group g (some r.act) { tag := i.tag, cell := i.cell, core := i.core, queue := 2 }).flagBump
          f.flag .mover i.tag
      else
        let s := if f.part = 4 then
          s.rootReport i f (leNat (r.view.csRead i.cell f.cs 4)) (some r.act) else s
        let pieces := updPieces s f
        let s := s.spoilRanges (pieces.flatMap fun x => s.inShardOf x s.mem.permuted).eraseDups
        let s := s.setMem { s.mem with updated := s.mem.updated ++ pieces }
        s.startMover i r.t f.flag (.tierWrite (placePieces f.cs pieces)) true

end Sys2Proof.Machine
end

