-- ==== Sys2Proof/Machine/Groups.lean ====
section
/-! DEFINITION. Groups and rings (R250, R251, R257), elements as flits carry them (R261, R262), and the spraying of a group's flits over
the ports of a direction (R261, R269). -/

namespace Sys2Proof.Machine

open Sys2Proof

/-! ## Groups (R251) -/

/-- The listed axes of a group, 0 to 2. -/
def State.groupAxes (s : State) (g : Nat) : List Nat :=
  let a := [s.get (R.collGDefAxis0.at_ g), s.get (R.collGDefAxis1.at_ g), s.get (R.collGDefAxis2.at_ g)]
  (a.takeWhile (· != 0)).map (· - 1)

def State.axisSize (s : State) (a : Nat) : Nat := s.shapeOf.getD a 1

/-- Axes of size 2 or more: one stage each. -/
def State.stages (s : State) (g : Nat) : List Nat := (s.groupAxes g).filter fun a => decide (2 ≤ s.axisSize a)

def State.members (s : State) (g : Nat) : Nat := (s.groupAxes g).foldl (fun n a => n * s.axisSize a) 1

def State.coord (s : State) (a : Nat) : Nat := axisOf (s.ownPos.getD (0, 0, 0)) a

/-- The rank of coordinates within a group. -/
def State.rankOf (s : State) (g : Nat) (p : Nat × Nat × Nat) : Nat :=
  (s.groupAxes g).foldr (fun a r => axisOf p a + s.axisSize a * r) 0

def State.ownRank (s : State) (g : Nat) : Nat := s.rankOf g (s.ownPos.getD (0, 0, 0))

/-- The coordinate of a rank on each listed axis, in list order. -/
def State.rankCoords (s : State) (g rank : Nat) : List (Nat × Nat) :=
  ((s.groupAxes g).foldl (fun (x : Nat × List (Nat × Nat)) a =>
    (x.1 / s.axisSize a, x.2 ++ [(a, x.1 % s.axisSize a)])) (rank, [])).2

/-- The coordinate of a rank on one axis. -/
def State.rankCoord (s : State) (g rank a : Nat) : Nat :=
  ((s.rankCoords g rank).find? fun x => x.1 == a).elim 0 (·.2)

def State.accFmt (s : State) (g : Nat) : Byte := if s.flagReg (R.collGDefAcc.at_ g) then 0x01 else 0x00

/-- Position in a directed ring (R257). -/
def ringPos (ring n q : Nat) : Nat := if ring = 0 then q else n - 1 - q

/-- The direction of a stage's ring. -/
def ringDir (axis ring : Nat) : Nat := 2 * axis + ring

/-! ## Elements on the wire -/

/-- The format that a gather may widen: Q8E4 in blocks of 32 (R262). -/
def isNarrow (fmt : Byte) : Bool := fmt.toNat % 64 == 0x23

/-- Elements of one flit: whole elements, or whole blocks with their E8 bytes, in 480 bytes (R261, R262). -/
def pieceLen (fmt : Byte) : Nat :=
  let b := fmtBlock fmt
  if b = 0 then 480 / elemBytes fmt else 480 / (planeBytes fmt b + 1) * b

/-- A CElem's code and, in a block format, its E8 above. -/
def CElem.code (fmt : Byte) (e : CElem) : Nat := if fmtBlock fmt = 0 then e.w.toNat else e.w.toNat % 256

/-- E8 bytes of the blocks of some elements. -/
def scalesOf (fmt : Byte) (l : List CElem) : List Byte :=
  if fmtBlock fmt = 0 then []
  else (piecesOf (fmtBlock fmt) (l.length + 1) l).map fun b => BitVec.ofNat 8 ((b.headD default).w.toNat / 256)

/-- Element codes in their plane. -/
def codesOf (fmt : Byte) (l : List CElem) : List Byte := packCodes fmt (fun _ => 0) (l.map (CElem.code fmt))

/-- Payload of elements: the codes, and in a block format the E8 bytes after them. -/
def packElems (fmt : Byte) (l : List CElem) : List Byte := codesOf fmt l ++ scalesOf fmt l

/-- Elements in `n` of which codes and then E8 bytes lie in some bytes; `po` says which bytes are poisoned, from a place on. -/
def cElems (fmt : Byte) (n : Nat) (po : Nat → Nat → Bool) (b : List Byte) : List CElem :=
  let a := b.toArray
  let rd := fun i => a.getD i 0
  let k := fmtBlock fmt
  let plane := planeBytes fmt n
  (List.range n).map fun i =>
    if k = 0 then ⟨BitVec.ofNat 32 (elemCode fmt rd i), po (planeBytes fmt i) (elemBytes fmt)⟩
    else
      ⟨BitVec.ofNat 32 (elemCode fmt rd i + 256 * (rd (plane + i / k)).toNat),
        po (planeBytes fmt i) 1 || po (plane + i / k) 1⟩

/-- The elements of a flit. -/
def unpackElems (fmt : Byte) (po : Bool) (b : List Byte) : List CElem :=
  let k := fmtBlock fmt
  let n := if k = 0 then b.length / elemBytes fmt else b.length / (planeBytes fmt k + 1) * k
  cElems fmt n (fun _ _ => po) b

/-- Bytes of `n` elements where they lie in a store: the plane, and the E8 bytes after it (log 62). -/
def storeBytes (fmt : Byte) (n : Nat) : Nat := planeBytes fmt n + (if fmtBlock fmt = 0 then 0 else n / fmtBlock fmt)

/-! ## Sending (R261) -/

/-- Credits of a group at a port that no flit in its queue is to take. -/
def PortSt.spare (x : PortSt) (q : Nat) : Nat :=
  (x.pool q).avail - (x.txq.filter fun e => flitPool e.flit == q).length

/-- A group's flit on a torus direction: the trained ports in rotation, those without credit passed over; `none` where none has any. -/
def State.trySpray (s : State) (g dir : Nat) (e : TxFlit) : Option State :=
  let l := s.portsOf dir
  let x := s.group g
  let k := AMap.get x.rotate dir 0 % l.length
  match (l.drop k ++ l.take k).find? fun p => (s.port p).spare (4 + g) != 0 with
  | none => none
  | some p =>
    let j := (l.findIdx? (· == p)).getD 0
    some ((s.setGroup g { x with rotate := AMap.put x.rotate dir (j + 1) }).sendTx p e)

/-- A group's flit on a torus direction, behind those of the direction that wait for a credit (R261, R269). -/
def State.sendColl (s : State) (g dir : Nat) (e : TxFlit) : State :=
  let hold := fun (s : State) => s.setGroup g { s.group g with blocked := (s.group g).blocked ++ [(dir, e)] }
  if (s.group g).blocked.any fun b => b.1 == dir then hold s else (s.trySpray g dir e).getD (hold s)

/-- A credit or a port has come: flits that waited for one try again, in order (R261, R350). -/
def State.unblock (s : State) (g : Nat) : State :=
  let x := s.group g
  x.blocked.foldl (fun (s : State) b => s.sendColl g b.1 b.2) (s.setGroup g { x with blocked := [] })

/-- A collective flit (R335). -/
def State.collFlit (s : State) (g : Nat) (kind : Nat) (po last : Bool) (chunk stage ring off w5 : Nat) (payload : List Byte) :
    Flit :=
  { hdr := mkHdr (s.get (R.collGDefVc.at_ g)) kind po g last payload.length (chunk + stage * 2 ^ 16 + ring * 2 ^ 18) off w5,
    payload := payload }

def State.setRun (s : State) (g : Nat) (r : Option CommRun) : State := s.setGroup g { s.group g with run := r }

/-- Flits of a group that still have to be accepted: waiting for a credit, for their turn, or for an acknowledgement. -/
def State.flitsOut (s : State) (g : Nat) : List TxFlit :=
  (s.group g).blocked.map (·.2) ++
    (portList.flatMap fun p => (s.port p).txq ++ (s.port p).retry.map (·.2)).filter fun e => flitPool e.flit == 4 + g

/-- Those of them that have not left the link buffers (R256). -/
def State.flitsIn (s : State) (g : Nat) : List TxFlit :=
  (s.group g).blocked.map (·.2) ++ (portList.flatMap fun p => (s.port p).txq).filter fun e => flitPool e.flit == 4 + g

/-- Every byte this member contributed has been accepted by the next hop (R256). -/
def State.accepted (s : State) (g : Nat) : Bool := (s.flitsOut g).all fun e => !e.own

/-- A group's flits are no command's any more. -/
def State.disown (s : State) (g : Nat) : State :=
  let f := fun (e : TxFlit) => if flitPool e.flit = 4 + g then { e with own := false, share := 0 } else e
  { s with ports := s.ports.map fun p => (p.1, { p.2 with txq := p.2.txq.map f, retry := p.2.retry.map fun e => (e.1, f e.2) }) }

end Sys2Proof.Machine
end

