-- ==== Sys2Proof/Machine/Collectives.lean ====
section
/-! DEFINITION. Collectives (R254 to R262): the fields of a command and what refuses it, its sources and destinations, the reduction
and the gather stage by stage, and the parameter update in the owner's port (R286). -/

namespace Sys2Proof.Machine

open Sys2Proof

/-! ## Command fields -/

def CommKind.count : CommKind → Nat
  | .reduceScatter f => f.count
  | .allReduce f => f.count
  | .allGather f => f.count
  | _ => 0

def CommKind.layout : CommKind → Option Nat
  | .reduceScatter f => some f.layout
  | .allReduce f => some f.layout
  | .allGather f => some f.layout
  | .allToAll f => some f.layout
  | .permute f => some f.layout
  | .wait _ => none

def CommKind.flagDone : CommKind → Option FlagRef
  | .reduceScatter f => some f.flagDone
  | .allReduce f => some f.flagDone
  | .allGather f => some f.flagDone
  | .allToAll f => some f.flagDone
  | .permute f => some f.flagDone
  | .wait _ => none

def CommKind.flagArrive : CommKind → Option FlagRef
  | .allGather f => f.flagArrive
  | .allToAll f => f.flagArrive
  | _ => none

def CommKind.flagProgress : CommKind → Option FlagRef
  | .reduceScatter f => f.flagProgress
  | .allReduce f => f.flagProgress
  | _ => none

/-- Symbols in error that the command's reads of the tiers meet (R219). -/
def CommKind.ecc : CommKind → EccErrs
  | .reduceScatter f => f.ecc
  | .allReduce f => f.ecc
  | .allGather f => f.ecc
  | .allToAll f => f.ecc
  | .permute f => f.ecc
  | .wait _ => []

def CommKind.src : CommKind → Option CommSrc
  | .reduceScatter f => some f.src
  | .allReduce f => some f.src
  | .allGather f => some f.src
  | .allToAll f => some f.src
  | _ => none

def CommKind.dst : CommKind → Option CommMem
  | .reduceScatter f => f.dst
  | .allReduce f => f.dst
  | .allGather f => some f.dst
  | .allToAll f => some f.dst
  | _ => none

/-- The wire format of a command's elements. -/
def State.wireFmt (s : State) (g : Nat) : CommKind → Byte
  | .allGather f => f.inFmt
  | _ => s.accFmt g

/-- The format in which elements land. -/
def State.landFmt (s : State) (g : Nat) : CommKind → Byte
  | .allGather f => f.outFmt
  | _ => s.accFmt g

/-- Elements this member contributes: its input, or for a gather its share. -/
def State.srcCount (s : State) (g : Nat) (k : CommKind) : Nat :=
  match k with
  | .allGather f => f.count / s.members g
  | _ => k.count

/-- Elements that land. -/
def State.dstCount (s : State) (g : Nat) (k : CommKind) : Nat :=
  match k with
  | .reduceScatter f => f.count / s.members g
  | _ => k.count

/-- Bytes of a command at SRC, where they are known from its fields, and at DST. -/
def State.srcBytes (s : State) (g : Nat) (k : CommKind) : Nat := storeBytes (s.wireFmt g k) (s.srcCount g k)
def State.dstBytes (s : State) (g : Nat) (k : CommKind) : Nat :=
  match k with
  | .allToAll f => s.members g * s.get (R.collGA2aCap.at_ g) * f.rowBytes
  | _ => storeBytes (s.landFmt g k) (s.dstCount g k)

/-- The places a command writes, with their lengths. -/
def State.commWrites (s : State) (g : Nat) (k : CommKind) : List (CommMem × Nat) :=
  (k.dst.map fun d => (d, s.dstBytes g k)).toList ++ (match k with
    | .allToAll f => [(f.dstCounts, 4 * s.members g), (f.dropCounts, 4 * s.members g)]
    | _ => [])

/-- The places a command reads; of an ALL-TO-ALL from a tier, whose length its counts give, the places are known when it has read
them. -/
def State.commReads (s : State) (g : Nat) (k : CommKind) : List (CommMem × Nat) :=
  (match k.src with
    | some (.ranges l) => l.map fun r => (.cell r.1 r.2.1, r.2.2)
    | some (.tier off) => [(.tier off, s.srcBytes g k)]
    | _ => []) ++ (match k with
    | .allToAll f => [(f.srcCounts, 4 * s.members g), (f.dropCounts, 4 * s.members g)]
    | _ => [])

/-- The regions of a place that a command reads, or writes. -/
def State.memRegions (s : State) (write : Bool) (m : CommMem) (len : Nat) : List Region :=
  if len = 0 then []
  else match m with
    | .cell c a => [csRegion c.val a len]
    | .tier off => s.tierRegions write off len

def memShift : CommMem → Nat → CommMem
  | .cell c a, n => .cell c (a + n)
  | .tier off, n => .tier (off + n)

/-! ## Windows of a command (R168, R170): engine 5 -/

/-- The highest act cycle that the cells of the group's act have reached: when a communication command issues. -/
def State.commCycle (s : State) (g : Nat) : Nat :=
  match s.actOfGroup g with
  | none => 0
  | some a => (s.cells.filter fun c => bitAt a.desc.rows (c.1 / 8)).foldl (fun m c => max m c.2.cycle) 0

/-- The windows of a command in the cell stores and the tiers, until its FLAG_DONE has been seen. -/
def State.commWin (s : State) (g : Nat) (k : CommKind) (tag : Word) (f : FlagRef) : Win :=
  let t := s.commCycle g
  let writes := (s.commWrites g k).flatMap fun x => s.memRegions true x.1 x.2
  { tag := tag, op := some (.comm g), eng := 5, cell := f.cell, core := 0, queue := 4, issue := t,
    reads := (s.commReads g k).flatMap fun x => s.memRegions false x.1 x.2, rdUntil := t, writes := writes, wrFrom := t, visible := t + 1,
    flagged := some f, landed := false, spoiled := false, results := writes, value := 0, seen := [] }

/-- They enter the windows of the cells they lie in. -/
def State.enterComm (s : State) (g : Nat) (k : CommKind) (tag : Word) : State :=
  match k.flagDone with
  | none => s
  | some f =>
    let w := s.commWin g k tag f
    if w.reads.isEmpty ∧ w.writes.isEmpty then s
    else (s.conflicts w (fun _ => false) (s.actOfGroup g)).addWin { w with spoiled := s.meetsWrites w }

/-! ## Stores -/

/-- A store that the link complex is to read: tracked lines are back-invalidated, and whether it need not wait (R215, R309, R402). -/
def State.readable (s : State) (m : CommMem) (len : Nat) : Bool × State :=
  match m with
  | .cell _ _ => (true, s)
  | .tier off =>
    if len = 0 then (true, s)
    else
      let s := s.touch off len
      (!s.mustWait false off len, s)

/-- Tier bytes that a communication command is to write, as far as its own fields name them. -/
def State.runWrites (s : State) (g : Nat) (r : CommRun) : List (Nat × Nat) :=
  ((s.commWrites g r.kind).filterMap fun x => match x.1 with
    | .tier off => some (off, x.2)
    | .cell _ _ => none) ++
  (match r.upd.bind fun u => (s.ugroup u.1).map fun x => (x, u.2) with
    | some (x, a) => netWrites x a (s.dstCount g r.kind)
    | none => [])

/-- Writes of commands under way, of other communication queues, of this module's DMA channels and of what waits, that have not landed:
(offset, bytes). -/
def State.writesOut (s : State) (g : Nat) : List (Nat × Nat) :=
  (s.groups.flatMap fun y => if y.1 = g then [] else (y.2.run.elim [] (s.runWrites y.1))) ++
  (s.host.dma.flatten.filterMap fun r => if r.started && !r.toHost && r.remote.isNone then some (r.modOff, r.len) else none) ++
  (s.movers.flatMap fun m => match m.kind with
    | .tierWrite l => l.map fun x => (x.1, x.2.2)
    | .release _ off (some b) => [(off, b.length)]
    | _ => []) ++
  s.mem.waiting.filterMap fun w => match w with
    | .write off d _ _ => some (off, d.length)
    | .remote r _ => if r.write then some (r.off, r.len) else none
    | _ => none

/-- The lines of a source that a write under way is still to reach, counted from the line of its first byte: a write to the pending
copy of a versioned range reaches no byte that is read. -/
def State.unsettled (s : State) (g off len : Nat) : List Nat :=
  let l := s.writesOut g
  if l.isEmpty then []
  else (List.range (ceilDiv (off % 64 + len) 64)).filter fun i =>
    let o := off / 64 * 64 + 64 * i
    (l.any fun w => overlaps o 64 w.1 w.2) && s.place true o == s.place false o

/-- What the records of a communication queue's command tell of it (R470, R472). -/
def State.commInfo (s : State) (g : Nat) (tag : Word) : EvInfo := { tag := tag, queue := 4, group := g, act := s.actOfGroup g }

/-- The same for the command under way. -/
def State.runInfo (s : State) (g : Nat) : EvInfo := s.commInfo g ((s.group g).run.elim 0 (·.tag))

/-- Bytes of a tier as the link complex reads them for a command: those not in place are undefined (R255). -/
def State.linkSpan (s : State) (g off len : Nat) : SpanRead × State :=
  let (r, s) := s.readSpan ⟨.linkComplex, s.runInfo g⟩ off len []
  let l := s.unsettled g off len
  if l.isEmpty then (r, s)
  else
    ({ r with data := r.data.zipIdx.map fun p => if l.contains ((r.skew + p.2) / 64) then Config.freeByte (s.free + p.2) else p.1 },
      { s with free := s.free + len })

/-- Bytes of a cell store as the command under way reads them: what another command is still to write is undefined (R122, R255). -/
def State.linkCell (s : State) (g c a len : Nat) : List Byte × State :=
  let ws := s.winsOf c
  let early := match ws.find? fun w => decide (w.op = some (.comm g)) && !w.landed with
    | some x => earlyReads (ws.filter fun w => decide (w.op ≠ some (.comm g))) { x with reads := [csRegion c a len] } fun _ => false
    | none => []
  let v := s.scrambleAll early
  (v.csRead c a len, { s with free := v.free })

/-- Bytes of a place as the command under way reads them. -/
def State.readMem (s : State) (g : Nat) (m : CommMem) (len : Nat) : SpanRead × State :=
  match m with
  | .cell c a => let (b, s) := s.linkCell g c a len; (.clean b, s)
  | .tier off => s.linkSpan g off len

/-- The part of a list of ranges from byte `i` on, `n` bytes long. -/
def rangePart : List (CellId × Nat × Nat) → Nat → Nat → List (CellId × Nat × Nat)
  | [], _, _ => []
  | (c, a, k) :: l, i, n =>
    if n = 0 then []
    else if k ≤ i then rangePart l (i - k) n
    else (c, a + i, min n (k - i)) :: rangePart l 0 (n - min n (k - i))

/-- Bytes of a store source. -/
def State.readSrc (s : State) (g : Nat) (x : CommSrc) (at_ len : Nat) : SpanRead × State :=
  match x with
  | .queue => (.clean [], s)
  | .tier off => s.linkSpan g (off + at_) len
  | .ranges l =>
    let (b, s) := (rangePart l at_ len).foldl (fun (x : List Byte × State) r =>
      let (b, s) := x.2.linkCell g r.1 r.2.1 r.2.2
      (x.1 ++ b, s)) ([], s)
    (.clean b, s)

/-- The link complex writes for a command of an act. -/
def State.writeMem (s : State) (act : Option ActiveAct) (m : CommMem) (at_ : Nat) (b : List Byte) : State :=
  match m with
  | .cell c a => s.csWrite c (a + at_) b
  | .tier off => s.stepWrite act (off + at_) b []

/-- Why a communication command is refused: its event, with DETAIL and ADDR. -/
structure CommRefusal where
  code   : Nat
  detail : Nat := 0
  addr   : Option Nat := none
  deriving DecidableEq, Repr

/-- What an access of the link complex to Tiers 1 and 2 breaks (R208, R255). -/
def State.tierOk (s : State) (off len : Nat) : Option AccessErr :=
  match s.checkAccess off len with
  | some e => some e
  | none => if tierOf off = 3 then some .window else none

/-- A place that a command may name: inside a cell store, or whole lines of Tier 1 or 2 (R208, R255). -/
def State.memOk (s : State) (m : CommMem) (len : Nat) : Option CommRefusal :=
  match m with
  | .cell _ a => if a + len ≤ CSBYTES then none else some { code := 0x0202 }
  | .tier off => (s.tierOk off (ceilDiv len 64 * 64)).map fun e => { code := e.code, addr := some off }

def rangesOk (l : List (CellId × Nat × Nat)) : Bool := l.all fun r => decide (r.2.1 + r.2.2 ≤ CSBYTES)

def State.srcOk (s : State) (x : CommSrc) (len : Nat) : Option CommRefusal :=
  match x with
  | .queue => none
  | .ranges l => if (l.map (·.2.2)).sum = len ∧ rangesOk l then none else some { code := 0x0202 }
  | .tier off => s.memOk (.tier off) len

/-- Elements as they land: widened or copied (R91, R262), poisoned ones undefined (R318); their code bytes, their E8 bytes, and how
many overflowed. -/
def State.landElems (s : State) (inFmt outFmt : Byte) (l : List CElem) : List Byte × List Byte × Nat × State :=
  let one := fun (e : CElem) (k : Nat) =>
    if e.po then (Config.freeWord k, false)
    else if isNarrow inFmt && fmtBlock outFmt == 0 then
      let r := ((fmtType outFmt).getD .F32).round .nearest (blockValue .Q8E4 (e.w.toNat % 256) (e.w.toNat / 256))
      (BitVec.ofNat 32 r.1, r.2)
    else (e.w, false)
  let els := l.zipIdx.map fun p => one p.1 (s.free + p.2)
  let out := els.map fun x => (⟨x.1, false⟩ : CElem)
  (codesOf outFmt out, scalesOf outFmt out, (els.filter (·.2)).length, { s with free := s.free + l.length })

/-! ## Refusals -/

/-- A refused communication command: event, count, verdict (R113 and the rules that follow it). -/
def State.refuseComm (s : State) (g : Nat) (k : CommKind) (tag : Word) (r : CommRefusal) : State :=
  let a := s.actOfGroup g
  let c := match k.flagDone with
    | some f => f.cell.val
    | none => 0
  let info : EvInfo := { s.commInfo g tag with cell := c, detail := r.detail, addr := r.addr }
  let s : State := match r.code with
    | 0x0108 => s.raise r.code pgCUE { info with cell := 0 }
    | 0x0201 => (s.inc (R.cellStoreRange c) 1).raise r.code pgCMD { info with severe := true }
    | 0x0202 => (s.inc (R.cellStoreRange c) 1).raise r.code (pgCELL c) info
    | 0x0303 => (s.inc R.memWindowRange 1).raise r.code pgMEM info
    | 0x0622 => ((s.inc R.updRefused 1).set R.updRefusedLast r.detail).raise r.code pgUPD info
    | _ => s.raise r.code pgCOLL { info with cell := 0 }
  s.causeIn a vCOMMAND

def State.bumpDone (s : State) (k : CommKind) (tag : Word) : State :=
  match k.flagDone with
  | some f => s.flagBump f .link tag
  | none => s

/-- FLAG_ARRIVE for the members not yet counted. -/
def State.bumpArrive (s : State) (k : CommKind) (tag : Word) (n : Nat) : State :=
  match k.flagArrive with
  | some f => (List.range n).foldl (fun s _ => s.flagBump f .link tag) s
  | none => s

/-- DETAIL of FORMAT INVALID for a command at run time (R462). -/
def runFormat (fmt : Byte) : Nat := fmt.toNat + 3 * 2 ^ 8

/-- What the fields break (R112's formats, R255, R257, R262, R263, R267); `none` when nothing. -/
def State.commFields (s : State) (g : Nat) (k : CommKind) : Option CommRefusal :=
  let range : Option CommRefusal := some { code := 0x0202 }
  let n := s.members g
  let whole := k.count % (64 * n) == 0 && k.count != 0 && !(decide (k.src = some .queue) && k.count % 512 != 0)
  let inOut := ((k.src.map fun x => s.srcOk x (s.srcBytes g k)).getD none).orElse fun _ =>
    (k.dst.map fun d => s.memOk d (s.dstBytes g k)).getD none
  match k with
  | .reduceScatter _ => if whole then inOut else range
  | .allReduce _ => if whole then inOut else range
  | .allGather f =>
    if !fmtValid f.inFmt then some { code := 0x0201, detail := runFormat f.inFmt }
    else if !fmtValid f.outFmt then some { code := 0x0201, detail := runFormat f.outFmt }
    else if whole && (f.inFmt == f.outFmt || (isNarrow f.inFmt && (f.outFmt.toNat % 64 == 0 || f.outFmt.toNat % 64 == 1))) then inOut
    else range
  | .allToAll f =>
    if f.rowBytes % 64 ≠ 0 ∨ f.rowBytes < 64 ∨ 16384 < f.rowBytes then range
    else
      let src : Option CommRefusal := match f.src with
        | .queue => range
        | .ranges l => if rangesOk l then none else range
        | .tier off => s.memOk (.tier off) 64
      src.orElse fun _ => (s.memOk f.dst (s.dstBytes g k)).orElse fun _ => (s.memOk f.srcCounts (4 * n)).orElse fun _ =>
        (s.memOk f.dstCounts (4 * n)).orElse fun _ => s.memOk f.dropCounts (4 * n)
  | .permute f =>
    if f.newLayout = (s.get (R.collGLayoutCommitted.at_ g) + 1) % 2 ^ 16 then none else range
  | .wait w =>
    match s.actOfGroup g with
    | some a => if bitAt a.desc.rows (w.flag.cell / 8) then none else range
    | none => range

/-- A byte of a range that a command writes is versioned (R59). -/
def State.memVersioned (s : State) (m : CommMem) (len : Nat) : Bool :=
  match m with
  | .cell _ _ => false
  | .tier off => s.versioned off len

/-- What an Intermission act refuses (R59): reductions, and writes to pending shards. The spec names no group a gradient group: every
REDUCE-SCATTER and ALL-REDUCE is taken as a reduction into one (DESIGN CHOICE, log 70). -/
def State.commInter (s : State) (g : Nat) (k : CommKind) : Bool :=
  match s.actOfGroup g with
  | none => false
  | some a => a.intermission && (match k with
    | .reduceScatter _ => true
    | .allReduce _ => true
    | .permute _ => true
    | .wait _ => false
    | _ => (s.commWrites g k).any fun x => s.memVersioned x.1 x.2)

/-- Why an UPDATE is refused (R290); 0 when it is not. -/
def State.netCause (s : State) (g count : Nat) (u : Nat × Nat) : Nat :=
  match s.ugroup u.1 with
  | none => 1
  | some x =>
    if !x.net then 2
    else if 512 < s.members g then 3
    else if u.2 % 64 ≠ 0 ∨ x.shardLen < u.2 + count / s.members g then 4
    else 0

def CommRun.start (k : CommKind) (tag : Word) : CommRun :=
  { kind := k, tag := tag, phase := .reading, stage := 0, input := [], out := [], sent := [], folded := [], upd := none,
    made := [], nonfinite := false, sentBytes := 0, progress := 0, arrived := [], blocks := [], round := 0, roundGot := 0,
    finished := false }

/-- UPDATE of a REDUCE-SCATTER: refused, by R290 or for a place at ALT (R305), when the command runs plain; dropped by a group that was
frozen when the act started; or attached (R286, R296, R301). -/
def State.attachUpdate (s : State) (g : Nat) (f : ReduceFields) (k : CommKind) (tag : Word) : Option (Nat × Nat) × State :=
  match f.update with
  | none => (none, s)
  | some u =>
    let c := s.netCause g f.count u
    if c ≠ 0 then (none, s.refuseComm g k tag { code := 0x0622, detail := c })
    else match s.ugroup u.1 with
      | none => (none, s)
      | some x =>
        let act := s.actOfGroup g
        match (netWrites x u.2 (f.count / s.members g)).find? fun r => s.inAlt r.1 r.2 with
        | some r => (none, s.refuseComm g k tag { code := 0x0303, addr := some r.1 })
        | none =>
          if frozenFor act u.1 x then (none, s.frozenDrop u.1 x act (s.commInfo g tag))
          else (some u, s)

/-! ## Chunk slots (R255) -/

/-- SLOT ERROR, of the command that `who` names (R470). -/
def State.slotError (s : State) (g slot : Nat) (who : EvInfo) : State :=
  let a := s.actOfGroup g
  let s := s.inc (R.collGSlotErrors.at_ g) 1
  let s := s.raise 0x050A pgCOLL { who with group := g, detail := slot, act := a }
  s.causeIn a vCOMMAND

/-- SLOTS of a command that takes a queue source: as many as hold its contribution. -/
def State.slotsOf (s : State) (g : Nat) (k : CommKind) : Option Nat :=
  if k.src = some .queue then some (ceilDiv (s.srcCount g k) 512) else none

/-- SLOTS of the running command. -/
def State.slotsWanted (s : State) (g : Nat) : Option Nat := (s.group g).run.bind fun r => s.slotsOf g r.kind

/-- The entries of any wing core that have been released to a group's slots and not been drained: slot, and the RELEASE. -/
def State.promises (s : State) (g : Nat) : List (Nat × EvInfo) :=
  s.cores.flatMap fun k => k.2.ftq.filterMap fun e =>
    if e.state = .released ∧ e.freeAt = none then
      match e.dest with
      | some (.group h n) =>
        if h.val = g then some (n, { tag := e.tag, cell := k.1 / 32, core := k.1 % 32, queue := 1 }) else none
      | _ => none
    else none

/-- The elements that filled slots supply. -/
def slotInput (n : Nat) (slots : AMap (List Word)) : List (Option CElem) :=
  (List.range n).map fun i => (AMap.find slots (i / 512)).bind fun l => (l[i % 512]?).map fun w => ⟨w, false⟩

/-- A command whose elements are not in the group's ACC format takes undefined data from its slots (R260). -/
def State.slotsForeign (s : State) (g : Nat) (k : CommKind) : Bool := s.wireFmt g k != s.accFmt g

/-- A command with a queue source starts: what has been released to a slot at or beyond SLOTS is a SLOT ERROR each, and is dropped. -/
def State.openSlots (s : State) (g : Nat) (k : CommKind) (tag : Word) : State :=
  match s.slotsOf g k with
  | none => s
  | some n =>
    let beyond := ((s.group g).slots.filter fun x => decide (n ≤ x.1)).map fun x => (x.1, s.commInfo g tag)
    let late := (s.promises g).filter fun x => decide (n ≤ x.1)
    let s := (beyond ++ late).foldl (fun (s : State) x => s.slotError g x.1 x.2) s
    let y := s.group g
    let kept : AMap (List Word) := y.slots.filter fun x => decide (x.1 < n)
    if s.slotsForeign g k then
      let w := freeWords s.free 512
      ({ s with free := s.free + 512 }).setGroup g { y with slots := kept.map fun (x : Nat × List Word) => (x.1, w) }
    else s.setGroup g { y with slots := kept }

/-! ## Sources -/

/-- Take what a command reads when it issues; a source that must wait is read later (R215, R309). -/
def State.readSource (s : State) (g : Nat) (r : CommRun) : State :=
  let n := s.srcCount g r.kind
  let fmt := s.wireFmt g r.kind
  let next : CommPhase := match r.kind with
    | .allGather _ => .gathering
    | _ => .reducing
  match r.kind.src with
  | none => s
  | some .queue =>
    s.setRun g (some { r with phase := next, input := slotInput n (s.group g).slots })
  | some x =>
    let len := s.srcBytes g r.kind
    let (ok, s) := match x with
      | .tier off => s.readable (.tier off) len
      | _ => (true, s)
    if !ok then s
    else
      let (b, s) := s.readSrc g x 0 len
      s.setRun g (some { r with phase := next, input := (cElems fmt n b.badAt b.data).map some })

/-! ## Pieces sent and folded (R258, R259) -/

/-- Own input elements of a piece, when all are present. -/
def presentAt (l : List (Option CElem)) (i n : Nat) : Option (List CElem) :=
  let p := (l.drop i).take n
  if p.length = n ∧ p.all Option.isSome then some (p.filterMap id) else none

/-- Offsets of the pieces of a chunk of `h` elements. -/
def pieceOffsets (step h : Nat) : List Nat := (List.range (ceilDiv h step)).map (· * step)

/-- Send one piece on a ring: `o` names the slot it still holds, `own` whether it carries this member's elements, `share` the bytes
that FLAG_PROGRESS is to count. -/
def State.sendPiece (s : State) (g axis stage n k h off : Nat) (fmt : Byte) (l : List CElem) (o : Option (Nat × Nat)) (own : Bool)
    (share : Nat) : State :=
  let ring := k / n
  let f := s.collFlit g 2 (l.any (·.po)) (decide (h ≤ off + pieceLen fmt)) k stage ring off
    (if fmtBlock fmt = 0 then 0 else fmt.toNat * 2 ^ 16) (packElems fmt l)
  s.sendColl g (ringDir axis ring) ⟨f, o, own, share⟩

/-- Chunks this member starts in a stage: its own chunk of each ring that goes first (reduce), or that it owns (gather). -/
def startChunks (gather : Bool) (n q : Nat) : List Nat :=
  [0, 1].map fun ring =>
    let p := ringPos ring n q
    ring * n + (if gather then p else (p + n - 1) % n)

/-- Elements of a chunk that a member starts, by their place in its input. -/
def startBase (gather : Bool) (n h k : Nat) : Nat := if gather then k / n * h else k * h

/-- The contribution bytes that a payload sent in a stage adds (R256): those of the first stage of a reduction. -/
def shareOf (gather : Bool) (stage : Nat) (fmt : Byte) (l : List CElem) : Nat :=
  if gather ∨ stage ≠ 0 then 0 else (packElems fmt l).length

/-- Send every start piece that is present and not yet sent. -/
def State.sendStarts (s : State) (g : Nat) (axis n q h : Nat) (gather : Bool) (fmt : Byte) : State :=
  let todo := (startChunks gather n q).flatMap fun k => (pieceOffsets (pieceLen fmt) h).map fun o => (k, o)
  todo.foldl (fun (s : State) x =>
    match (s.group g).run with
    | none => s
    | some r =>
      if r.sent.contains x then s
      else
        let m := min (pieceLen fmt) (h - x.2)
        match presentAt r.input (startBase gather n h x.1 + x.2) m with
        | none => s
        | some l =>
          let share := shareOf gather r.stage fmt l
          let s := s.setRun g (some { r with sent := r.sent ++ [x], sentBytes := r.sentBytes + share })
          s.sendPiece g axis r.stage n x.1 h x.2 fmt l none true share) s

/-- Put elements in the output. -/
def putElems (m : AMap CElem) (i : Nat) : List CElem → AMap CElem
  | [] => m
  | e :: l => putElems (AMap.put m i e) (i + 1) l

/-- Land elements where DST names them, from element `i` on: overflows of the widening count (R93), poison sets POISON (R318). -/
def State.landPieceAt (s : State) (g : Nat) (r : CommRun) (i : Nat) (l : List CElem) : State :=
  match r.kind.dst with
  | none => s
  | some d =>
    let act := s.actOfGroup g
    let outF := s.landFmt g r.kind
    let s := if l.any (·.po) then s.causeIn act vPOISON else s
    let (b, e, ovf, s) := s.landElems (s.wireFmt g r.kind) outF l
    let s := (s.stickyGroup g act ⟨ovf, 0⟩).writeMem act d (planeBytes outF i) b
    if e.isEmpty then s else s.writeMem act d (planeBytes outF (s.dstCount g r.kind) + i / fmtBlock outF) e

/-- One aligned block of 32 of the final share, when it is complete and its update need not wait, updates its shard (R286). -/
def State.netBlock (s : State) (g : Nat) (el : Nat → Option CElem) (j : Nat) : State :=
  match (s.group g).run with
  | none => s
  | some r =>
    let l := (List.range 32).filterMap fun i => el (32 * j + i)
    match r.upd.bind fun u => (s.ugroup u.1).map fun x => (u.1, x, u.2 + 32 * j) with
    | none => s
    | some (i, x, a) =>
      if r.made.contains j ∨ l.length ≠ 32 ∨ s.netBlocked x a 32 then s
      else
        let act := s.actOfGroup g
        let fmt := s.accFmt g
        let s := if l.any (·.po) then s.causeIn act vPOISON else s
        let (b, _, _, s) := s.landElems fmt fmt l
        let f := (fmtType fmt).getD .F32
        let grad := (piecesOf (elemBytes fmt) (b.length + 1) b).map fun p => (toF32 (f.value (leNat p))).1
        (s.netUpdate i x a grad r.nonfinite g act r.tag).setRun g
          (some { r with made := r.made ++ [j], nonfinite := r.nonfinite || nonFinite grad != 0 })

/-- Every block of the share that is ready. -/
def State.netBlocks (s : State) (g n : Nat) (el : Nat → Option CElem) : State :=
  (List.range (n / 32)).foldl (fun s j => s.netBlock g el j) s

/-- Take one reduce piece, which holds slot `o`: fold it with own elements and pass it on, or keep it (R258). `none`: own elements not
present. -/
def State.foldPiece (s : State) (g : Nat) (r : CommRun) (axis n q h k off : Nat) (l : List CElem) (o : Option (Nat × Nat)) :
    Option State :=
  let fmt := s.accFmt g
  match presentAt r.input (k * h + off) l.length with
  | none => none
  | some own =>
    let f := (fmtType fmt).getD .F32
    let sums := (l.zip own).map fun p =>
      let x := portAdd f p.1.w.toNat p.2.w.toNat
      (({ w := BitVec.ofNat 32 x.1, po := p.1.po || p.2.po } : CElem), x.2)
    let counts := sums.foldl (fun (c : Counts) x => c.add x.2) Counts.zero
    let els := sums.map (·.1)
    let s := s.stickyGroup g (s.actOfGroup g) counts
    let ring := k / n
    let r := { r with folded := r.folded ++ [(k, off)] }
    if ringPos ring n q = k % n then
      let r := { r with out := putElems r.out (ring * h + off) els }
      let s := s.setRun g (some r)
      let s := if r.stage + 1 = (s.stages g).length then s.netBlocks g (2 * h) (AMap.find r.out) else s
      some (s.leave o)
    else
      let share := shareOf false r.stage fmt els
      some ((s.setRun g (some { r with sentBytes := r.sentBytes + share })).sendPiece g axis r.stage n k h off fmt els o true share)

/-- Take one gather piece: keep it and pass it on until the ring is done (R259). -/
def State.keepPiece (s : State) (g : Nat) (r : CommRun) (axis n q h k off : Nat) (l : List CElem) (final : Bool)
    (o : Option (Nat × Nat)) : State :=
  let ring := k / n
  let s := s.setRun g (some { r with out := putElems r.out (k * h + off) l })
  let s := if final then s.landPieceAt g r (k * h + off) l else s
  if (ringPos ring n q + 1) % n = k % n then s.leave o
  else s.sendPiece g axis r.stage n k h off (s.wireFmt g r.kind) l o false 0

/-- Whether a piece with a chunk belongs to the reduce phase of the stage still: this member is not its start and has not folded it. -/
def wantsFold (r : CommRun) (n q k off : Nat) : Bool :=
  ringPos (k / n) n q != (k % n + 1) % n && !(r.folded.contains (k, off))

/-- Try one arrived flit of a reduction or a gather; `none` when its time has not come. -/
def State.tryFlit (s : State) (g : Nat) (f : Flit) (o : Option (Nat × Nat)) : Option State :=
  match (s.group g).run with
  | none => none
  | some r =>
    let st := s.stages g
    let axis := st.getD r.stage 0
    let n := s.axisSize axis
    let q := s.coord axis
    if flitStage f ≠ r.stage then none
    else
      let fmt := s.wireFmt g r.kind
      let l := unpackElems fmt (flitPoison f) f.payload
      let k := flitChunk f
      let off := flitOffset f
      match r.phase with
      | .reducing =>
        let h := r.input.length / (2 * n)
        if wantsFold r n q k off then s.foldPiece g r axis n q h k off l o else none
      | .gathering =>
        let h := r.input.length / 2
        if (AMap.find r.out (k * h + off)).isSome then none
        else some (s.keepPiece g r axis n q h k off l (r.stage == 0) o)
      | _ => none

/-! ## Stages (R258, R259) -/

/-- The output of a stage when it is complete. -/
def outputOf (out : AMap CElem) (n : Nat) : Option (List CElem) :=
  if out.length = n then some (out.map (·.2)) else none

/-- A reduced share is complete: what is left of a NET update runs, DST takes it, or the gather begins (R259, R286). -/
def State.finishReduce (s : State) (g : Nat) : State :=
  match (s.group g).run with
  | none => s
  | some r =>
    let share := r.input.filterMap id
    match r.kind with
    | .allReduce _ =>
      if (s.stages g).isEmpty then (s.landPieceAt g r 0 share).setRun g (some { r with phase := .landed })
      else s.setRun g (some { r with phase := .gathering, stage := (s.stages g).length - 1, out := [], sent := [], folded := [] })
    | _ =>
      let s := if r.upd.isSome then s.netBlocks g share.length fun i => share[i]? else s
      match (s.group g).run with
      | none => s
      | some r =>
        if r.upd.isSome ∧ 32 * r.made.length < share.length then s.setRun g (some { r with phase := .finishing })
        else (s.landPieceAt g r 0 share).setRun g (some { r with phase := .landed })

/-- Own share of a gather stage, in its output. -/
def ownOut (out : AMap CElem) (n q : Nat) (own : List CElem) : AMap CElem :=
  let h := own.length / 2
  putElems (putElems out (q * h) (own.take h)) ((n + ringPos 1 n q) * h) (own.drop h)

/-- Advance a command whose stage is complete. -/
def State.advance (s : State) (g : Nat) : State :=
  match (s.group g).run with
  | none => s
  | some r =>
    let st := s.stages g
    let m := r.input.length
    match r.phase with
    | .reducing =>
      if st.isEmpty then
        if (presentAt r.input 0 m).isSome then s.finishReduce g else s
      else
        match outputOf r.out (m / s.axisSize (st.getD r.stage 0)) with
        | none => s
        | some l =>
          let r := { r with input := l.map some, out := [], sent := [], folded := [] }
          if r.stage + 1 < st.length then s.setRun g (some { r with stage := r.stage + 1 })
          else (s.setRun g (some r)).finishReduce g
    | .finishing => s.finishReduce g
    | .gathering =>
      match presentAt r.input 0 m with
      | none => s
      | some own =>
        if st.isEmpty then (s.landPieceAt g r 0 own).setRun g (some { r with phase := .landed })
        else
          let n := s.axisSize (st.getD r.stage 0)
          let q := s.coord (st.getD r.stage 0)
          let h := m / 2
          let fresh := (AMap.find r.out (q * h)).isNone
          let s := if fresh ∧ r.stage = 0 then
            (s.landPieceAt g r (q * h) (own.take h)).landPieceAt g r ((n + ringPos 1 n q) * h) (own.drop h) else s
          let r := { r with out := if fresh then ownOut r.out n q own else r.out }
          match outputOf r.out (n * m) with
          | none => s.setRun g (some r)
          | some l =>
            let r := { r with input := l.map some, sent := [], folded := [] }
            if r.stage = 0 then s.setRun g (some { r with phase := .landed })
            else s.setRun g (some { r with stage := r.stage - 1, out := [] })
    | _ => s

/-- The start pieces of the stage under way that can go. -/
def State.startStage (s : State) (g : Nat) : State :=
  match (s.group g).run with
  | none => s
  | some r =>
    let st := s.stages g
    let axis := st.getD r.stage 0
    let n := s.axisSize axis
    let fmt := s.wireFmt g r.kind
    if st.isEmpty then s
    else match r.phase with
      | .reducing => s.sendStarts g axis n (s.coord axis) (r.input.length / (2 * n)) false fmt
      | .gathering => s.sendStarts g axis n (s.coord axis) (r.input.length / 2) true fmt
      | _ => s

end Sys2Proof.Machine
end

