-- ==== Sys2Proof/Machine/Exchange.lean ====
section
/-! DEFINITION. ALL-TO-ALL (R263 to R265) and PERMUTE (R267, R268). -/

namespace Sys2Proof.Machine

open Sys2Proof

/-! ## Flits to a rank -/

/-- Word 5 of a flit of these commands: the rank it goes to, from 1 on, and bit 15 for a PERMUTE (log 62). -/
def rankWord (permute : Bool) (rank : Nat) : Nat := rank + 1 + boolNat permute * 2 ^ 15
def flitRouted (f : Flit) : Bool := flitReqId f != 0
def flitRank (f : Flit) : Nat := flitReqId f % 2 ^ 15 - 1
def flitPermute (f : Flit) : Bool := bitAt (flitReqId f) 15

/-- The way to a rank (R265): the first listed axis on which it differs, the direction of the shorter way, and the stage. -/
def State.hopTo (s : State) (g rank : Nat) : Option (Nat × Nat × Nat) :=
  ((s.rankCoords g rank).find? fun x => s.coord x.1 != x.2).map fun x =>
    let n := s.axisSize x.1
    let ring := if 2 * ((x.2 + n - s.coord x.1) % n) ≤ n then 0 else 1
    (x.1, ring, ((s.stages g).findIdx? (· == x.1)).getD 0)

/-- Bytes to another rank, a flit a piece (place, length, poison); its offset counts on from `off`. -/
def State.sendTo (s : State) (g rank : Nat) (permute : Bool) (chunk off : Nat) (l : List (Nat × Nat × Bool)) (b : List Byte) : State :=
  match s.hopTo g rank with
  | none => s
  | some (a, ring, st) =>
    l.zipIdx.foldl (fun (s : State) x =>
      s.sendColl g (ringDir a ring)
        ⟨s.collFlit g 2 x.1.2.2 (decide (x.2 + 1 = l.length)) chunk st ring (off + x.1.1) (rankWord permute rank)
          (slice b x.1.1 x.1.2.1), none, true, 0⟩) s

/-- A flit for another rank passes on; its slot is free when it has left. -/
def State.passOn (s : State) (g : Nat) (f : Flit) (o : Option (Nat × Nat)) : State :=
  match s.hopTo g (flitRank f) with
  | none => s.leave o
  | some (a, ring, _) => s.sendColl g (ringDir a ring) ⟨f, o, false, 0⟩

/-- A place in the tiers that a command finds, as it runs, may not be accessed (R208, log 62): counted, raised, bad for the verdict. -/
def State.commAccess (s : State) (g off : Nat) (r : CommRun) (e : AccessErr) : State :=
  s.refuseComm g r.kind r.tag { code := e.code, addr := some off }

/-! ## ALL-TO-ALL -/

/-- The counts table (R263): 32-bit counts. -/
def countsOf (n : Nat) (b : List Byte) : List Nat := (List.range n).map fun i => u32Of b (4 * i)

/-- Rows of one rank that are sent (R263): where they begin in SRC, and how many. -/
def a2aRows (counts : List Nat) (cap d : Nat) : Nat × Nat := ((counts.take d).sum, min (counts.getD d 0) cap)

/-- Pieces of a block of `len` bytes, as flits carry it; `po` says which bytes are poisoned. -/
def blockPieces (po : Nat → Nat → Bool) (len : Nat) : List (Nat × Nat × Bool) :=
  (List.range (ceilDiv len 480)).map fun i => (480 * i, min 480 (len - 480 * i), po (480 * i) (min 480 (len - 480 * i)))

/-- Bytes of a block: its count and CAP rows. -/
def State.blockBytes (s : State) (g : Nat) (f : A2aFields) : Nat := 4 + s.get (R.collGA2aCap.at_ g) * f.rowBytes

/-- The pieces of a block follow one another and fill it. -/
def wholeBlock (size : Nat) (m : AMap (List Byte × Bool)) : Bool :=
  m.foldl (fun e p => if p.1 = e then e + p.2.1.length else e) 0 == size

/-- A whole block lands (R256, R263): rows in source-rank order, and their count; poisoned pieces undefined (R318). -/
def State.a2aLand (s : State) (g : Nat) (f : A2aFields) (src : Nat) : State :=
  match (s.group g).run with
  | none => s
  | some r =>
    let m := AMap.get r.blocks src []
    let size := s.blockBytes g f
    if !wholeBlock size m then s
    else
      let act := s.actOfGroup g
      let (b, s) := m.foldl (fun (x : List Byte × State) p =>
        let (b, s) := if p.2.2 then x.2.drawBytes p.2.1.length else (p.2.1, x.2)
        (x.1 ++ b, s)) ([], s)
      let s := if m.any (·.2.2) then s.causeIn act vPOISON else s
      let s := (s.writeMem act f.dst (src * (size - 4)) (b.drop 4)).writeMem act f.dstCounts (4 * src) (b.take 4)
      let made := r.made ++ [src]
      s.setRun g (some { r with
        blocks := AMap.del r.blocks src, made := made, phase := if made.length = s.members g then .landed else r.phase })

/-- A piece of a rank's block has come; its place says where it belongs, whatever order it comes in. -/
def State.a2aTake (s : State) (g : Nat) (f : A2aFields) (src off : Nat) (b : List Byte) (po : Bool) : State :=
  match (s.group g).run with
  | none => s
  | some r =>
    let m := AMap.put (AMap.get r.blocks src []) off (b, po)
    (s.setRun g (some { r with blocks := AMap.put r.blocks src m })).a2aLand g f src

/-- Rows of SRC; those that lie nowhere are undefined. -/
def State.a2aRead (s : State) (g : Nat) (f : A2aFields) (run : CommRun) (at_ len : Nat) : SpanRead × State :=
  let off := match f.src with
    | .tier off => off + at_
    | _ => 0
  let bad := match f.src with
    | .tier _ => s.tierOk off (ceilDiv len 64 * 64)
    | _ => none
  if len = 0 then (.clean [], s)
  else match bad with
  | some e =>
    let (b, s) := (s.commAccess g off run e).drawBytes len
    (.clean b, s)
  | none =>
    let (r, s) := s.readSrc g f.src at_ len
    let (more, s) := s.drawBytes (len - r.data.length)
    ({ r with data := r.data ++ more }, s)

/-- ALL-TO-ALL blocks go out (R263): for each rank, its count and CAP rows, zero rows after the counted ones; drops counted. Sources
that must wait are read later. -/
def State.a2aStart (s : State) (g : Nat) (f : A2aFields) (r : CommRun) : State :=
  let n := s.members g
  let cap := s.get (R.collGA2aCap.at_ g)
  let act := s.actOfGroup g
  let (c, s) := s.readable f.srcCounts (4 * n)
  let (d, s) := s.readable f.dropCounts (4 * n)
  if !(c && d) then s
  else
    let counts := countsOf n (s.readMem g f.srcCounts (4 * n)).1.data
    let rowsAt := fun (d : Nat) => ((a2aRows counts cap d).1 * f.rowBytes, (a2aRows counts cap d).2 * f.rowBytes)
    let (ok, s) := match f.src with
      | .tier off => (List.range n).foldl (fun (x : Bool × State) d =>
          let y := x.2.readable (.tier (off + (rowsAt d).1)) (rowsAt d).2
          (x.1 && y.1, y.2)) (true, s)
      | _ => (true, s)
    if !ok then s
    else
      let (cb, s) := s.readMem g f.srcCounts (4 * n)
      let (db, s) := s.readMem g f.dropCounts (4 * n)
      let s := if cb.bad || db.bad then s.causeIn act vPOISON else s
      let counts := countsOf n cb.data
      let rowsAt := fun (d : Nat) => ((a2aRows counts cap d).1 * f.rowBytes, (a2aRows counts cap d).2 * f.rowBytes)
      let drops := counts.map (· - cap)
      let s := if drops.sum = 0 then s
        else
          let s := s.inc (R.collGDrops.at_ g) drops.sum
          s.setGroup g { s.group g with drops := (s.group g).drops + drops.sum }
      let old := countsOf n db.data
      let s := s.writeMem act f.dropCounts 0 (wordsLe ((old.zip drops).map fun p => (p.1 + p.2) % 2 ^ 32))
      let s := s.setRun g (some { r with phase := .exchanging })
      (List.range n).foldl (fun (s : State) d =>
        let (rows, s) := s.a2aRead g f r (rowsAt d).1 (rowsAt d).2
        let block := natLe 4 (a2aRows counts cap d).2 ++ fitBytes (cap * f.rowBytes) rows.data
        let l := blockPieces (fun i n => rows.badAt (i - 4) (n - (4 - i))) block.length
        if d = s.ownRank g then l.foldl (fun (s : State) p => s.a2aTake g f d p.1 (slice block p.1 p.2.1) p.2.2) s
        else s.sendTo g d false (s.ownRank g) 0 l block) s

/-! ## PERMUTE -/

/-- The moves (R267): source, destination offset, chip, bytes, round. -/
def State.moveList (s : State) (f : PermuteFields) : List (Nat × Nat × Nat × Nat × Nat) :=
  (List.range f.moves).map fun i =>
    let b := s.peek (f.moveList + 32 * i) 32
    (u64Of b 0, u64Of b 8, u32Of b 16 % 2 ^ 14, u32Of b 20, u16Of b 24)

/-- The bytes this member is to receive in a round. -/
def State.inBytes (s : State) (f : PermuteFields) (round : Nat) : Nat :=
  if round < f.rounds then leNat (s.peek (f.inBytes + 4 * round) 4) else 0

/-- Bytes of a round land (R267): those beyond IN_BYTES, and those of a round that is over, are dropped. -/
def State.permTake (s : State) (g : Nat) (p : PermuteFields) (round off : Nat) (po : Bool) (b : List Byte) : State :=
  match (s.group g).run with
  | none => s
  | some r =>
    let act := s.actOfGroup g
    let room := if round = r.round then s.inBytes p round - r.roundGot else 0
    let n := min b.length room
    let s := if n < b.length then
        (s.raise 0x0507 pgCOLL { s.commInfo g r.tag with detail := round }).causeIn act vCOMMAND
      else s
    if n = 0 then s
    else
      let s := s.setRun g (some { r with roundGot := r.roundGot + n, folded := r.folded ++ [(off, n)] })
      match s.tierOk off b.length with
      | some e => s.commAccess g off r e
      | none =>
        let (b, s) := if po then s.drawBytes n else (b.take n, s)
        let s := if po then s.causeIn act vPOISON else s
        s.shardWrite false act off b

/-- Own moves of the round go out (R267), once none of their sources must wait; a move to this module is made here. -/
def State.sendRound (s : State) (g : Nat) (f : PermuteFields) (r : CommRun) : State :=
  let moves := (s.moveList f).filter fun m => decide (m.2.2.2.2 = r.round)
  let (ok, s) := moves.foldl (fun (x : Bool × State) m =>
    let y := x.2.readable (.tier m.1) m.2.2.2.1
    (x.1 && y.1, y.2)) (true, s)
  if !ok then s
  else
    moves.foldl (fun (s : State) m =>
      let (src, dst, chip, bytes, _) := m
      if bytes = 0 then s
      else
        let (b, s) := match s.tierOk src bytes with
          | some e =>
            let (b, s) := (s.commAccess g src r e).drawBytes bytes
            (SpanRead.clean b, s)
          | none => s.linkSpan g src bytes
        let l := (lineRuns b.poison (ceilDiv bytes 64) 0 []).map fun x => (64 * x.1, min (64 * x.2.1) (bytes - 64 * x.1), x.2.2)
        if s.chip = some chip then
          l.foldl (fun (s : State) x => s.permTake g f r.round (dst + x.1) x.2.2 (slice b.data x.1 x.2.1)) s
        else
          match s.mapEntry chip with
          | none => s
          | some there => s.sendTo g (s.rankOf g there) true r.round dst l b.data)
      (s.setRun g (some { r with phase := .exchanging }))

/-- Finished bits go on (R267): a rank's bit for a round on the + rings of some stages (axis, stage). -/
def State.sendBit (s : State) (g rank round : Nat) (l : List (Nat × Nat)) : State :=
  l.foldl (fun (s : State) x =>
    s.sendColl g (ringDir x.1 0) (.mine (s.collFlit g 9 false true round x.2 0 0 (rankWord true rank) []))) s

def State.noteBit (s : State) (g rank round : Nat) : State :=
  s.setGroup g { s.group g with doneBits := (s.group g).doneBits ++ [(round, rank)] }

/-- A finished bit that has come goes round its ring, up to the member before the one it is from, and onto the rings of the later
stages: every member gets it once. -/
def State.takeBit (s : State) (g : Nat) (f : Flit) : State :=
  let rank := flitRank f
  let j := flitStage f
  let l := ((s.stages g).zipIdx).filter fun x =>
    if x.2 = j then (s.coord x.1 + 1) % s.axisSize x.1 != s.rankCoord g rank x.1 else decide (j < x.2)
  (s.noteBit g rank (flitChunk f)).sendBit g rank (flitChunk f) l

/-- Whether this member has finished its round: everything received, own moves accepted (R267). -/
def State.roundDone (s : State) (g : Nat) (p : PermuteFields) (r : CommRun) : Bool :=
  r.phase == .exchanging && decide (r.round < p.rounds) && r.roundGot == s.inBytes p r.round && s.accepted g

/-- Finished with a round: its bit goes out (R267). -/
def State.tellRound (s : State) (g : Nat) : State :=
  match (s.group g).run with
  | some r =>
    match r.kind with
    | .permute p =>
      if !r.finished && s.roundDone g p r then
        let rank := s.ownRank g
        ((s.setRun g (some { r with finished := true })).noteBit g rank r.round).sendBit g rank r.round (s.stages g).zipIdx
      else s
    | _ => s
  | none => s

/-- The AND of a round's finished bits: every member has sent its own. -/
def State.allFinished (s : State) (g round : Nat) : Bool :=
  (List.range (s.members g)).all fun k => (s.group g).doneBits.contains (round, k)

/-- They are used up. -/
def State.useBits (s : State) (g round : Nat) : State :=
  s.setGroup g { s.group g with
    doneBits := (List.range (s.members g)).foldl (fun l k => l.erase (round, k)) (s.group g).doneBits }

/-! ## Arrivals -/

/-- Take a flit addressed to this rank, when its command is under way and its round has come; else it waits. -/
def State.tryRouted (s : State) (g : Nat) (f : Flit) (o : Option (Nat × Nat)) : Option State :=
  match (s.group g).run with
  | none => none
  | some r =>
    match r.kind with
    | .allToAll a =>
      if flitPermute f || r.made.contains (flitChunk f) then none
      else some ((s.a2aTake g a (flitChunk f) (flitOffset f) f.payload (flitPoison f)).leave o)
    | .permute p =>
      if flitPermute f && decide (flitChunk f ≤ r.round ∧ r.round < p.rounds) then
        some ((s.permTake g p (flitChunk f) (flitOffset f) (flitPoison f) f.payload).leave o)
      else none
    | _ => none

end Sys2Proof.Machine
end

