-- ==== Sys2Proof/Machine/Comm.lean ====
section
/-! DEFINITION. Communication queues at work: issue (R253, R254, R266), arriving flits (R258, R267, R269), the flags of a command
(R256), its end, and abandonment (R271). -/

namespace Sys2Proof.Machine

open Sys2Proof

/-! ## Work -/

/-- A command reads what it reads when it issues, as soon as nothing of it must wait. -/
def State.readComm (s : State) (g : Nat) : State :=
  match (s.group g).run with
  | some r =>
    if r.phase ≠ .reading then s
    else match r.kind with
      | .allToAll f => s.a2aStart g f r
      | .permute f => s.sendRound g f r
      | _ => s.readSource g r
  | none => s

/-- An arrived flit is taken when its time has come. -/
def State.takeEarly (g : Nat) (s : State) (x : Nat × Flit) : State :=
  let o := some (x.1, 4 + g)
  match (if flitRouted x.2 then s.tryRouted g x.2 o else s.tryFlit g x.2 o) with
  | none => s
  | some s => s.setGroup g { s.group g with early := (s.group g).early.erase x }

/-- One round of a group's work: read a source that waited, advance, send starts, take the flits whose time has come. -/
def State.pumpOnce (s : State) (g : Nat) : State :=
  let s := ((s.readComm g).advance g).startStage g
  (s.group g).early.foldl (State.takeEarly g) s

/-- The group's work as far as it goes. -/
def State.pumpColl (s : State) (g : Nat) : State :=
  let n := (s.group g).early.length + 8
  ((List.range n).foldl (fun (s : State) _ => s.pumpOnce g) (s.unblock g)).tellRound g

/-! ## Issue -/

/-- A command of a communication queue starts, or is refused (R59, R113, R255, R257, R266, R267). -/
def State.startComm (s : State) (g : Nat) (k : CommKind) (tag : Word) : State :=
  let committed := s.get (R.collGLayoutCommitted.at_ g)
  let go := fun (u : Option (Nat × Nat)) (s : State) =>
    let stage := match k with
      | .allGather _ => (s.stages g).length - 1
      | _ => 0
    let s := (s.openSlots g k tag).setRun g (some { CommRun.start k tag with upd := u, stage := stage })
    (s.enterComm g k tag).pumpColl g
  if s.commInter g k then
    ((s.refuseComm g k tag { code := 0x0108 }).bumpDone k tag).bumpArrive k tag (s.members g)
  else if (match k.layout with
    | some l => l != committed
    | none => false) then
    (s.refuseComm g k tag { code := 0x0506, detail := (k.layout.getD 0) % 2 ^ 16 + committed * 2 ^ 16 }).bumpDone k tag
  else if !s.flagReg (R.collGDefValid.at_ g) then s.refuseComm g k tag { code := 0x0202 }
  else match s.commFields g k with
    | some r => s.refuseComm g k tag r
    | none =>
      match k with
      | .reduceScatter f => let (u, s) := s.attachUpdate g f k tag; go u s
      | .permute f =>
        let s := (s.visit f.moveList (32 * f.moves)).visit f.inBytes (4 * f.rounds)
        let limit := s.get (R.collGRoundKib.at_ g) * 1024
        match (List.range f.rounds).find? fun n => decide (limit < s.inBytes f n) with
        | some n => (s.refuseComm g k tag { code := 0x0507, detail := n }).bumpDone k tag
        | none => go none s
      | _ => go none s

/-- The command at the head of a group's queue issues when the one before it has ended (R253), in an act that includes the group. Any
other command does not issue: it stands where it is. -/
def State.issueComm (s : State) (g : Nat) (k : CommKind) (tag : Word) : State :=
  match s.actOfGroup g, (s.group g).held with
  | some a, t :: l =>
    let x := s.group g
    if !s.dataOn ∨ x.abandoned ∨ x.run.isSome ∨ t ≠ tag then s
    else
      let sampled := s.get R.cmdTraceSample ≤ 1 ∨ x.issued % s.get R.cmdTraceSample = 0
      let s := s.setGroup g { x with held := l ++ x.stream.take 1, stream := x.stream.drop 1, issued := x.issued + 1 }
      let t := s.commCycle g
      let s := if sampled then s.trace 3 tag (tracePlace 0 0 4 g) a.desc.act t t else s
      (s.meetErrs 0 k.ecc).startComm g k tag
  | _, _ => s

def execReduceScatter (g : GroupId) (tag : Word) (f : ReduceFields) (s : State) : Host.Outcome State Fault Refusal :=
  done (s.issueComm g (.reduceScatter f) tag)

def execAllGather (g : GroupId) (tag : Word) (f : GatherFields) (s : State) : Host.Outcome State Fault Refusal :=
  done (s.issueComm g (.allGather f) tag)

def execAllReduce (g : GroupId) (tag : Word) (f : ReduceFields) (s : State) : Host.Outcome State Fault Refusal :=
  done (s.issueComm g (.allReduce f) tag)

def execAllToAll (g : GroupId) (tag : Word) (f : A2aFields) (s : State) : Host.Outcome State Fault Refusal :=
  done (s.issueComm g (.allToAll f) tag)

def execPermute (g : GroupId) (tag : Word) (f : PermuteFields) (s : State) : Host.Outcome State Fault Refusal :=
  done (s.issueComm g (.permute f) tag)

/-- The boundary at which a wait expires (R163): n + T, or the act's deadline. -/
def State.expiry (s : State) (a : ActiveAct) (timeout : Nat) : Nat :=
  if timeout = 0 then a.deadline else s.cueNow + timeout % 4096

/-- A WAIT issues: its timeout counts from here (R163, R253). -/
def execCommWait (g : GroupId) (tag : Word) (f : CommWaitFields) (s : State) : Host.Outcome State Fault Refusal :=
  match s.actOfGroup g with
  | none => done s
  | some a =>
    done (s.issueComm g (.wait ⟨tag, f.flag, f.target, s.expiry a f.timeout, (s.cell f.flag.cell).cycle, false, false, false⟩) tag)

/-! ## Flits -/

/-- A group's flit at its receiving port (R258, R269, R271): folded, kept, passed on, or held until its time. -/
def execCollectiveFlitReceived (p : PortId) (f : Flit) (s : State) : Host.Outcome State Fault Refusal :=
  if !s.dataOn ∨ !cwCrcOk f.hdr ∨ !s.portLive p then done s
  else
    let g := flitGroup f
    let o := some (p.val, 4 + g)
    let (f, s) := s.arrive p f
    let x := s.group g
    if x.abandoned then done (s.leave o)
    else if flitKind f = 9 then done ((s.takeBit g f).leave o)
    else if flitRouted f ∧ flitRank f ≠ s.ownRank g then done (s.passOn g f o)
    else
      let s := s.setGroup g { x with early := x.early ++ [(p.val, f)] }
      done (if x.run.isSome then s.pumpColl g else s)

/-! ## Ends (R256, R267, R268) -/

/-- The places in memory that a command has written. -/
def State.placesOf (s : State) (g : Nat) (r : CommRun) : List (Nat × Nat) :=
  ((s.commWrites g r.kind).filterMap fun x => match x.1 with
    | .tier off => some (off, x.2)
    | .cell _ _ => none) ++
  (match r.kind with
    | .permute _ => r.folded
    | _ => []) ++
  (match r.upd.bind fun u => (s.ugroup u.1).map fun x => (x, u.2) with
    | some (x, a) => r.made.flatMap fun j => netWrites x (a + 32 * j) 32
    | none => [])

/-- No write that the command made still waits (R256, R287, R306). -/
def State.writesLanded (s : State) (g : Nat) (r : CommRun) : Bool :=
  !(s.mem.waiting.any fun w => match w with
    | .write off d _ _ => (s.placesOf g r).any fun x => overlaps x.1 x.2 off d.length
    | _ => false)

/-- Undefined bytes where a command has delivered data (R16). -/
def State.spoilMem (s : State) (m : CommMem) (len : Nat) : State :=
  if len = 0 then s
  else match m with
    | .cell c a => s.scramble (csRegion c a len)
    | .tier off => s.spoilRanges [(off, len)]

/-- What a command has delivered is undefined: it ends early (R271), or another engine has touched its places (R170, R495). -/
def State.spoilRun (s : State) (g : Nat) (r : CommRun) : State :=
  let places : List (CommMem × Nat) := match r.kind with
    | .allToAll f => [(f.dst, s.dstBytes g r.kind), (f.dstCounts, 4 * s.members g)]
    | .permute _ => r.folded.map fun x => (.tier x.1, x.2)
    | k => (k.dst.map fun d => (d, s.dstBytes g k)).toList
  let s := places.foldl (fun (s : State) x => s.spoilMem x.1 x.2) s
  match r.upd.bind fun u => (s.ugroup u.1).map fun x => (x, u.2) with
  | some (x, a) => s.spoilRanges (r.made.flatMap fun j => netWrites x (a + 32 * j) 32)
  | none => s

/-- A communication command's windows have landed, and its FLAG_DONE has been incremented. -/
def State.landComm (s : State) (g : Nat) (k : CommKind) : State :=
  match k.flagDone with
  | some f => s.landWins (.comm g) f
  | none => s

/-- FLAG_PROGRESS, some times (R256). -/
def State.bumpProgress (s : State) (k : CommKind) (tag : Word) (n : Nat) : State :=
  match k.flagProgress with
  | some f => (List.range n).foldl (fun s _ => s.flagBump f .link tag) s
  | none => s

/-- A communication command ends: what FLAG_PROGRESS and FLAG_ARRIVE have not counted yet is counted, then FLAG_DONE. -/
def State.endComm (s : State) (g : Nat) (r : CommRun) : State :=
  let s := if s.spoiledOp (.comm g) then s.spoilRun g r else s
  let s := (s.bumpProgress r.kind r.tag (r.sentBytes / 65536 - r.progress)).bumpArrive r.kind r.tag (s.members g - r.arrived.length)
  let x := s.group g
  let slots := if (s.slotsOf g r.kind).isSome then [] else x.slots
  ((s.setGroup g { x with run := none, slots := slots }).bumpDone r.kind r.tag).landComm g r.kind

/-- FLAG_DONE (R256, R268, R287): when everything has landed and been accepted. -/
def execCollFlagDone (g : GroupId) (s : State) : Host.Outcome State Fault Refusal :=
  match (s.group g).run with
  | none => done s
  | some r =>
    let ended : Bool := match r.kind with
      | .permute f => r.phase == .exchanging && decide (f.rounds ≤ r.round)
      | _ => r.phase == .landed
    if ended ∧ s.accepted g ∧ s.writesLanded g r then
      let s : State := match r.kind with
        | .permute f =>
          (s.setGroup g { s.group g with pendingLayout := f.newLayout }).set (R.collGLayoutPending.at_ g) 1
        | _ => s
      done (s.endComm g r)
    else done s

/-- FLAG_PROGRESS: another 64 KiB of this member's contribution has left its link buffers (R256). -/
def execCollFlagProgress (g : GroupId) (s : State) : Host.Outcome State Fault Refusal :=
  match (s.group g).run with
  | none => done s
  | some r =>
    match r.kind.flagProgress with
    | none => done s
    | some f =>
      if 65536 * (r.progress + 1) + ((s.flitsIn g).map (·.share)).sum ≤ r.sentBytes then
        done ((s.setRun g (some { r with progress := r.progress + 1 })).flagBump f .link r.tag)
      else done s

/-- Where element `i` of the share of a member comes to lie in the gathered output (R257, R259): `l` gives the sizes of the axes and
the member's coordinates, the axis of the first gather stage first; `m` is the length of a share. -/
def gatherPlace : List (Nat × Nat) → Nat → Nat → Nat
  | [], _, i => i
  | (n, q) :: l, m, i => gatherPlace l (n * m) (if i < m / 2 then q * (m / 2) + i else (2 * n - 1 - q) * (m / 2) + (i - m / 2))

/-- Places of the elements of a member's share in the output. -/
def State.sharePlaces (s : State) (g : Nat) (r : CommRun) (rank : Nat) : List Nat :=
  let m := s.srcCount g r.kind
  let l := (s.stages g).reverse.map fun a => (s.axisSize a, s.rankCoord g rank a)
  (List.range m).map (gatherPlace l m)

/-- No write of some bytes of a place still waits (R215, R306, R402). -/
def State.settledAt (s : State) (m : CommMem) (at_ len : Nat) : Bool :=
  match m with
  | .cell _ _ => true
  | .tier off => !(s.mem.waiting.any fun w => match w with
    | .write o d _ _ => overlaps (off + at_) len o d.length
    | _ => false)

/-- Element `i` of the output has landed at DST: its code, and the E8 byte of its block. -/
def State.elemLanded (s : State) (g : Nat) (r : CommRun) (i : Nat) : Bool :=
  (r.phase == .landed || (AMap.find r.out i).isSome) && (r.kind.dst.elim true fun d =>
    let f := s.landFmt g r.kind
    let b := fmtBlock f
    s.settledAt d (planeBytes f i) (max 1 (planeBytes f 1)) &&
      (b == 0 || s.settledAt d (planeBytes f (s.dstCount g r.kind) + i / b) 1))

/-- Whether the whole share or block of a rank has landed. -/
def State.shareLanded (s : State) (g : Nat) (r : CommRun) (rank : Nat) : Bool :=
  match r.kind with
  | .allToAll f =>
    let rows := s.get (R.collGA2aCap.at_ g) * f.rowBytes
    r.made.contains rank && s.settledAt f.dst (rank * rows) rows && s.settledAt f.dstCounts (4 * rank) 4
  | _ => (r.phase == .landed || (r.phase == .gathering && r.stage == 0)) && (s.sharePlaces g r rank).all (s.elemLanded g r)

/-- FLAG_ARRIVE for one member (R256). -/
def execCollFlagArrive (g : GroupId) (rank : Nat) (s : State) : Host.Outcome State Fault Refusal :=
  match (s.group g).run with
  | none => done s
  | some r =>
    match r.kind.flagArrive with
    | none => done s
    | some f =>
      if rank < s.members g ∧ !(r.arrived.contains rank) ∧ s.shareLanded g r rank then
        done ((s.setRun g (some { r with arrived := r.arrived ++ [rank] })).flagBump f .link r.tag)
      else done s

/-- The group-wide AND shows every member finished: the next round begins (R267). -/
def execPermuteRoundDone (g : GroupId) (s : State) : Host.Outcome State Fault Refusal :=
  let s := s.tellRound g
  match (s.group g).run with
  | none => done s
  | some r =>
    match r.kind with
    | .permute f =>
      if r.finished ∧ s.allFinished g r.round then
        let next : CommRun := { r with
          round := r.round + 1, roundGot := 0, finished := false,
          phase := if r.round + 1 < f.rounds then .reading else .exchanging }
        done (((s.useBits g r.round).setRun g (some next)).pumpColl g)
      else done s
    | _ => done s

/-! ## Abandonment (R271) -/

/-- A position as `COLL.POSITION` lays it out. -/
def posWord (p : Option (Nat × Nat × Nat)) : Nat :=
  match p with
  | some (x, y, z) => x + y * 2 ^ 8 + z * 2 ^ 16 + 2 ^ 31
  | none => 0

/-- Flits that the reserve still holds when an act ends have arrived twice (R365): they go, and their slots are free. -/
def State.dropEarly (s : State) (g : Nat) : State :=
  let l := (s.group g).early
  l.foldl (fun (s : State) e => s.leave (some (e.1, 4 + g))) (s.setGroup g { s.group g with early := [] })

/-- A group takes part in its act no longer: its queue and reserve empty, the slots of its flits free. -/
def State.emptyGroup (s : State) (g : Nat) : State :=
  let s := s.dropEarly g
  let x := s.group g
  let s := (s.setGroup g { x with
    run := none, stream := [], held := [], blocked := [], slots := [], doneBits := [], abandoned := true }).disown g
  x.blocked.foldl (fun (s : State) b => s.leave b.2.origin) s

/-- A group's commands of the act end here: delivered data is undefined, flags go to their final counts, later flits are
discarded. Where the act of the word's cue has completed, only the verdict is bad. -/
def State.abandonGroup (s : State) (g : Nat) (sender cue : Nat) : State :=
  match s.actOfGroup g with
  | none => s.cause vABANDON
  | some a =>
    if cue < a.start then s.cause vABANDON
    else
      let s : State := match (s.group g).run with
        | none => s
        | some r =>
          let s := ((s.spoilRun g r).bumpDone r.kind r.tag).landComm g r.kind
          s.bumpArrive r.kind r.tag (s.members g - r.arrived.length)
      ((s.emptyGroup g).raise 0x0502 pgCOLL { group := g, queue := 4, detail := sender, act := some a }).causeIn (some a) vABANDON

/-- An abandon word has been relayed: older than 4,096 cues before it, the rest are dropped. -/
def State.markRelayed (s : State) (w : Nat × Nat × Nat) : State :=
  { s with map := { s.map with relayed := (s.map.relayed.filter fun x => decide (w.2.2 < x.2.2 + 4096)) ++ [w] } }

/-- A module that discards commands abandons every group of the act. -/
def State.abandonAct (s : State) (a : ActiveAct) : State :=
  if a.desc.groups = 0 then s
  else
    let w := s.ctlWord 4 0 [a.desc.groups, posWord s.ownPos, s.cueNow % 2 ^ 32, s.cueNow / 2 ^ 32]
    let s := (portList.filter s.portUp).foldl (fun s p => s.sendCtl p 1 w) s
    let s := s.markRelayed (a.desc.groups, posWord s.ownPos, s.cueNow)
    (setBitsOf 16 a.desc.groups).foldl (fun (s : State) g => s.abandonGroup g (posWord s.ownPos) s.cueNow) s

/-- Same group instance: equal coordinates on the axes the group does not list (R251). -/
def State.sameInstance (s : State) (g : Nat) (p : Nat × Nat × Nat) : Bool :=
  [0, 1, 2].all fun a => (s.groupAxes g).contains a || axisOf p a == s.coord a

/-- What an abandon word says: mask, position, cue (R338). -/
def abandonOf (l : List Nat) : Nat × Nat × Nat :=
  (bitsOf (l.getD 3 0) 0 16, l.getD 4 0, l.getD 5 0 + l.getD 6 0 * 2 ^ 32)

/-- The coordinates that a position word names. -/
def placeOf (pos : Nat) : Nat × Nat × Nat := (bitsOf pos 0 6, bitsOf pos 8 6, bitsOf pos 16 5)

/-- A position word of a machine of this shape (R338). -/
def State.positionOk (s : State) (pos : Nat) : Bool :=
  bitAt pos 31 && [0, 1, 2].all fun a => decide (axisOf (placeOf pos) a < s.axisSize a)

/-- A group abandon word (R271): relayed at once as markers are, each word once (R45), and obeyed for the groups of its sender's
instance; one with a field out of range is counted (R338). -/
def execGroupAbandonReceived (p : PortId) (w : CtlWord) (s : State) : Host.Outcome State Fault Refusal :=
  let l := cwWords w
  if !s.dataOn ∨ !s.portLive p then done s
  else if !cwCrcOk w then done s
  else if bitsOf (l.getD 0 0) 0 8 ≠ 4 ∨ !s.positionOk (l.getD 4 0) then done (s.inc (R.portCwInvalid p) 1)
  else if s.map.relayed.contains (abandonOf l) then done s
  else
    let pos := l.getD 4 0
    let todo := (setBitsOf 16 (abandonOf l).1).filter fun g => !(s.group g).abandoned
    let hops := bitsOf (l.getD 0 0) 8 8
    let fwd := cwSeal ((l.take 7).set 0 (l.getD 0 0 - hops * 2 ^ 8 + (hops + 1) % 256 * 2 ^ 8))
    let s := (portList.filter fun q => s.portUp q && q != p.val).foldl (fun s q => s.sendCtl q 1 fwd) (s.markRelayed (abandonOf l))
    done (todo.foldl (fun s g => if s.sameInstance g (placeOf pos) then s.abandonGroup g pos (abandonOf l).2.2 else s) s)

end Sys2Proof.Machine
end

