-- ==== Sys2Proof/Machine/Access.lean ====
section
/-! DEFINITION. Reaching the register pages (R404 to R410, R422, R434, R443, R444): which path and page answers, a refused access,
and the word a read returns. -/

namespace Sys2Proof.Machine

open Sys2Proof

/-- The path carries register accesses: the Callboard while the input stands, CXL while its link is up, and neither before the end
of start-up step 1 (R417, R444). -/
def State.pathOpen (s : State) (path : Path) : Bool :=
  s.start.powered && (path != .host || s.get R.hostLinkRate != 0) &&
    !(s.get R.mgmtStartState == 0 && decide (s.get R.mgmtStartStep ≤ 1))

/-- The page answers (R409, R410, R434, R443, R444). After a thermal trip what stays powered answers: HOST, MGMT, PWR and MBOX 0
(R33, R391). -/
def State.pageOpen (s : State) (page : Nat) : Bool :=
  let early := page == 0 || page == 1 || page == 10 || page == 0x400
  match s.get R.mgmtStartState with
  | 0 => (pageKind page).isSome && (early || (decide (4 ≤ s.get R.mgmtStartStep) && !s.start.trip))
  | 1 => (pageKind page).isSome && (early || !s.start.trip)
  | 2 => early
  | _ => page == 0 || page == 1 || page == 0x400

def pathBit (p : Path) : Nat :=
  match p with
  | .host => 0
  | .callboard => 1

/-- A refused access (R405, R410). -/
def State.refuseAccess (s : State) (path : Path) (off : Nat) : State :=
  let s := s.inc R.hostBadAccess 1
  let s := (s.set R.hostBadAccessLastOffset off).set R.hostBadAccessLastCallboard (pathBit path)
  s.raise 0x0808 pgHOST { detail := off }

/-- A register write that has an effect of its own, at the register's offset. -/
def State.writeAt (s : State) (path : Path) (f : Fld) (eff : State → State) : Host.Outcome State Fault Refusal :=
  if !s.pathOpen path then done s
  else if !s.pageOpen f.page then done (s.refuseAccess path f.addr)
  else done (eff s)

/-! ## Reads -/

/-- Registers packed from one field each. -/
def pack (l : List (Fld × Nat)) : Word :=
  BitVec.ofNat 32 (l.foldl (fun v x => v + x.2 % 2 ^ x.1.w * 2 ^ x.1.lo) 0)

/-- Entries of a queue that are not free at an act cycle (R127, R142): one claimed for read is in use until that instruction
completes. -/
def CoreSt.ftqUsed (k : CoreSt) (now : Nat) : Nat :=
  (k.ftq.filter fun e => e.freeAt.all fun c => decide (now < c)).length

/-- A sticky count of a cell's queues (R148): what has been made, and what completes by now. Overflow and invalid words alternate
from 0x100 on. -/
def State.stickyWord (s : State) (c o : Nat) : Word :=
  let i := (o - 0x100) / 8
  let due := (s.cell c).owed.filter fun d => decide (d.core * 4 + d.queue = i ∧ d.done ≤ (s.cell c).cycle)
  let add := (due.map fun d => if o % 8 = 0 then d.ovf else d.inv).sum
  BitVec.ofNat 32 (min ((s.word ((0x100 + c) * 0x1000 + o)).toNat + add) (2 ^ 32 - 1))

def nibbles (l : List Nat) : Word :=
  BitVec.ofNat 32 (l.zipIdx.foldl (fun v x => v + x.1 % 16 * 2 ^ (4 * x.2)) 0)

def LaneState.code : LaneState → Nat
  | .active => 0
  | .ready => 1
  | .training => 2
  | .retired => 3
  | .failed => 4

def DirSt.inUse (d : DirSt) : Nat := if d.narrow then 7 else 8
def DirSt.spare (d : DirSt) : Option Nat := d.lanes.findIdx? fun l => decide (l = .ready)
def DirSt.logicalOf (d : DirSt) (lane : Nat) : Nat := ((d.map.take d.inUse).findIdx? fun p => decide (p = lane)).getD 0xF
def DirSt.mapWord (d : DirSt) : Word := nibbles ((d.map.take d.inUse) ++ List.replicate (8 - d.inUse) 0xF)

/-- The words of page PORT that show the port's lanes, pools and retry buffer (R371). -/
def State.portWord (s : State) (p o : Nat) : Option Word :=
  let x := s.port p
  let live := s.portLive p
  if o = 0x40 then some (pack [(R.portInfoCode p, s.allot p), (R.portInfoPortGroup p, p / 4)])
  else if o = 0x44 then
    some (pack [(R.portStateState p, s.get (R.portStateState p)), (R.portStateLanesRx p, if live then x.rx.inUse else 0),
      (R.portStateLanesTx p, if live then x.tx.inUse else 0),
      (R.portStateSpareRx p, boolNat (live && x.rx.spare.isSome)),
      (R.portStateSpareTx p, boolNat (live && x.tx.spare.isSome)), (R.portStateFailPhase p, s.get (R.portStateFailPhase p))])
  else if o = 0x48 then some x.rx.mapWord
  else if o = 0x4C then some x.tx.mapWord
  else if o = 0x80 then some (BitVec.ofNat 32 x.retry.length)
  else if 0x100 ≤ o ∧ o < 0x220 ∧ o % 0x20 = 0x14 then
    let l := (o - 0x100) / 0x20
    some (pack [(R.portLaneRxState p, (x.rx.lanes.getD l .active).code),
      (R.portLaneRxLogical p, if live then x.rx.logicalOf l else 0xF),
      (R.portLaneFaultClass p, s.get ((R.portLaneFaultClass p).at_ l)),
      (R.portLaneTxState p, (x.tx.lanes.getD l .active).code)])
  else if 0x300 ≤ o ∧ o < 0x440 then
    let q := x.pool ((o - 0x300) / 16)
    if o % 16 = 0 then some (BitVec.ofNat 32 q.sent)
    else if o % 16 = 4 then some (BitVec.ofNat 32 q.credIn)
    else if o % 16 = 8 then some (BitVec.ofNat 32 (q.avail % 2 ^ 16 + q.slots % 2 ^ 16 * 2 ^ 16))
    else some (BitVec.ofNat 32 ((q.held + q.old) % 2 ^ 16))
  else none

/-- Bit p set for each port that meets a test. -/
def portMask (f : Nat → Bool) : Word := BitVec.ofNat 32 ((portList.filter f).map (2 ^ ·)).sum

/-- The words of page LINK that follow from the ports and the express table (R351, R370). -/
def State.linkWord (s : State) (o : Nat) : Option Word :=
  if o = 0x54 then some (portMask s.portIsUp)
  else if o = 0x58 then some (portMask fun p => s.portIsUp p && ((s.port p).rx.narrow || (s.port p).tx.narrow))
  else if o = 0x5C then
    some (portMask fun p => s.portIsUp p && ((s.port p).rx.spare.isNone || (s.port p).tx.spare.isNone))
  else if o = 0x60 then some (nibbles ((List.range 7).map fun c => (portList.filter fun p => s.portIsUp p && s.allot p == c).length))
  else if 0x80 ≤ o ∧ o < 0xA0 then
    match s.map.express[(o - 0x80) / 4]? with
    | some e => some (BitVec.ofNat 32 (e.1 % 32 + e.2 % 2 ^ 14 * 32 + 2 ^ 31))
    | none => some 0
  else none

/-- The words of page CELL that follow from the cell's queues and flags (R127, R183). -/
def State.cellWord (s : State) (c o : Nat) : Option Word :=
  if o = 0x40 then some (BitVec.ofNat 32 (c + boolNat (decide (c < 8)) * 128))
  else if o = 0x44 then some (BitVec.ofNat 32 (if (s.actOfCell c).isSome then (s.cell c).cycle else 0))
  else if 8 ≤ c ∧ 0x54 ≤ o ∧ o < 0x78 then some 0
  else if 0x64 ≤ o ∧ o < 0x74 then
    some (nibbles ((List.range 8).map fun i => (s.core c ((o - 0x64) / 4 * 8 + i)).ftqUsed (s.cell c).cycle))
  else if 0x100 ≤ o ∧ o < 0x500 then some (s.stickyWord c o)
  else if 0x500 ≤ o ∧ o < 0x580 then
    let k := s.core c ((o - 0x500) / 4)
    let n := fun (e : EngQ) => e.held.length % 128
    some (BitVec.ofNat 32 (n k.mat + n k.vec * 2 ^ 8 + n k.mov * 2 ^ 16 + n k.syn * 2 ^ 24))
  else if 0x600 ≤ o ∧ o < 0x800 then
    let v := fun (j : Nat) => (AMap.get (s.cell c).flags j FlagSt.zero).value.toNat
    let j := (o - 0x600) / 4
    some (BitVec.ofNat 32 (v (2 * j) + v (2 * j + 1) * 2 ^ 16))
  else none

/-- Revoked key slots: at test or by a burn (R435, R440). -/
def State.keysRevoked (s : State) : Nat := (Config.keyRevoked ||| s.fw.burnedKeys) % 16

/-- The fused minimum SVN of a type 1 to 4: the larger of test and burns (R435, R440). -/
def State.minSvn (s : State) (t : Nat) : Nat := max (Config.minSvn t % 256) (s.fw.burnedSvn.getD (t - 1) 0)

def State.mgmtWord (s : State) (o : Nat) : Option Word :=
  if o = 0x68 then some (BitVec.ofNat 32 (s.minSvn 1 + s.minSvn 2 * 2 ^ 8 + s.minSvn 3 * 2 ^ 16 + s.minSvn 4 * 2 ^ 24))
  else if o = 0x6C then some (BitVec.ofNat 32 (s.keysRevoked + 0x300))
  else if 0x400 ≤ o ∧ o < 0x800 then
    match AMap.find s.faults ((o - 0x400) / 64) with
    | none => some 0
    | some f => some (BitVec.ofNat 32 (u32Of f.bytes ((o - 0x400) % 64)))
  else none

/-- Traffic slots in Overture (R196). -/
def ScaleSt.overture (x : ScaleSt) : Nat :=
  (x.slots.filter fun s => s.valid && decide (s.fill < 16) &&
    (match x.recipes[s.recipe]? with
     | some r => decide (r.kind ≤ 2)
     | none => false)).length

/-- A staged value that differs from its live value, at a live offset (R407). -/
def State.stagedDiffers (s : State) (addr : Nat) : Bool :=
  match AMap.find s.shadow addr with
  | some v => v != s.word addr
  | none => false

/-- Hours since the last plan of the ageing offsets (R380). -/
def State.ageHours (s : State) : Nat := (s.time - s.pwr.planAt).toNat / 3600000000000

/-- Words that follow from the typed state. -/
def State.derivedWord (s : State) (page o : Nat) (kind : PageKind) : Option Word :=
  if o = 0 then some (BitVec.ofNat 32 (kind.id.1 + kind.id.2 * 2 ^ 16))
  else if o = 0xC then
    let pending := (s.word (page * 0x1000 + 0x10)) &&& (s.word (page * 0x1000 + 0x14)) != 0
    let diff := s.shadow.any fun e => e.1 / 0x1000 == page && s.stagedDiffers e.1
    some (BitVec.ofNat 32 (boolNat pending + boolNat diff * 2))
  else if o < 0x40 then none
  else match kind with
    | .mgmt => s.mgmtWord o
    | .cue =>
      if o = 0x40 then some (s.time.setWidth 32)
      else if o = 0x8C then
        let n := fun (i : Nat) => ((s.acts[i]?).map (·.desc.act)).getD 0 % 2 ^ 16
        some (BitVec.ofNat 32 (n 0 + n 1 * 2 ^ 16))
      else none
    | .cmd =>
      if o = 0x4C then some (BitVec.ofNat 32 s.progs.length)
      else if 0xC0 ≤ o ∧ o < 0x100 then some (BitVec.ofNat 32 ((s.group ((o - 0xC0) / 4)).held.length % 512))
      else none
    | .scale => if o = 0x74 then some (BitVec.ofNat 32 s.scale.overture) else none
    | .mem =>
      if o = 0x50 then
        some (pack [(R.memIlStatusLocked1, s.get R.memIlStatusLocked1), (R.memIlStatusLocked2, s.get R.memIlStatusLocked2),
          (R.memIlStatusRekeyBusy, boolNat (s.mem.rekey1 || s.mem.rekey2))])
      else none
    | .coll =>
      if 0x200 ≤ o ∧ o < 0x600 ∧ o % 0x40 = 0x10 then
        let g := (o - 0x200) / 0x40
        some (BitVec.ofNat 32 (if s.flagReg (R.collGDefValid.at_ g) then s.members g else 0))
      else none
    | .commit => if o = 0x90 then some (BitVec.ofNat 32 (s.mem.marks.length + s.mem.resync.length)) else none
    | .link => s.linkWord o
    | .cell c => s.cellWord c o
    | .stack k => if o = 0x40 then some (BitVec.ofNat 32 (if k < 8 then k * 2 else 1 + (k - 8) * 2)) else none
    | .port p => s.portWord p o
    | .pwr =>
      if o = 0xDC then some (BitVec.ofNat 32 (min s.ageHours 65535))
      else if o = 0xC4 then some (BitVec.ofNat 32 s.pwr.excluded.length)
      else none
    | _ => none

/-- The bits of a word that reads show: those of its fields that are not write-only. -/
def readMask (rows : List RegRow) : Nat :=
  rows.foldl (fun m r => if r.acc = .wo then m else m ||| ((2 ^ r.fld.w - 1) * 2 ^ r.fld.lo)) 0

/-- The word at an aligned BAR0 offset of a page that answers: the live word, or in a page's shadow the staged value of its
staged fields (R60, R407). -/
def State.readWord (s : State) (off : Nat) : Word :=
  let page := off / 0x1000
  let o := off % 0x1000
  match pageKind page with
  | none => 0
  | some kind =>
    if 0x800 ≤ o then
      let rows := (rowsAt (off - 0x800)).filter fun r => decide (r.acc = .st)
      s.staged (off - 0x800) &&& BitVec.ofNat 32 (readMask rows)
    else
      ((s.derivedWord page o kind).getD (s.word off)) &&& BitVec.ofNat 32 (readMask (rowsAt off))

end Sys2Proof.Machine
end

