-- ==== Sys2Proof/Machine/Links.lean ====
section
/-! DEFINITION. The Hyhel ports below the flits: frames, resends and credits (R331, R334, R340 to R346), a port that comes up, goes
down or goes dark (R348 to R357, R365), and the words of a port's peer. -/

namespace Sys2Proof.Machine

open Sys2Proof

/-! ## Causes and events of a port -/

/-- A Curtain or confirm word to every trained torus port (R313): AND and OR fields. -/
def State.sendVerdict (s : State) (type andF orF : Nat) : State :=
  s.torusPorts.foldl (fun s p => s.sendCtl p 1 (s.ctlWord type 0 [andF, orF])) s

/-- LINK while the exchange of this step's Curtain runs (R311, R316): in the OR result, and told to the peers. -/
def State.lateLink (s : State) : State :=
  let o := s.commit.orF ||| 1 <<< vLINK
  if o = s.commit.orF then s
  else ({ s with commit := { s.commit with orF := o } }).sendVerdict 2 s.commit.andF.toNat o.toNat

def State.inExchange (s : State) : Bool := s.commit.contributed && s.commit.decided.isNone

/-- LINK for a port that goes down or has a credit fault (R367). -/
def State.linkCause (s : State) (p : Nat) : State :=
  if s.inExchange && decide (s.allot p < 6) then s.lateLink else s.cause vLINK

/-- LINK for a retrain of a torus port that begins after the contribution instant (R367). -/
def State.retrainCause (s : State) (p : Nat) : State :=
  if s.commit.contributed && decide (s.allot p < 6) then s.linkCause p else s

/-- A physical lane and a direction, as DETAIL holds them (R464). -/
def laneDetail (d : Dir) (lane : Nat) : Nat :=
  lane + (match d with
    | .rx => 0
    | .tx => 16)

def State.portEvent (s : State) (p code detail : Nat) : State :=
  s.raise code (pgPORT p) { port := p, detail := detail }

/-! ## Counts that restart (R346, R353, R366) -/

/-- Slots of a pool at a port (R342): a group's pool on the directions of its axes. -/
def State.poolSlots (s : State) (p q : Nat) : Nat :=
  match q with
  | 0 => 32
  | 1 => 32
  | 2 => 640
  | 3 => 320
  | _ =>
    let g := q - 4
    if s.flagReg (R.collGDefValid.at_ g) && (s.groupAxes g).contains (s.allot p / 2) && decide (s.allot p < 6) then
      2 * s.get (R.collGBufKib.at_ g)
    else 0

/-- Flits of a pool in the frames that will be sent again. -/
def PortSt.owedFlits (x : PortSt) (q : Nat) : Nat :=
  (x.retry.filter fun e => flitKind e.2.flit != 0 && flitPool e.2.flit == q).length

/-- Frames to be sent again return no credits. -/
def PortSt.stripCredits (x : PortSt) : PortSt :=
  let bare := fun (e : TxFlit) => { e with flit := { e.flit with hdr := withCredit e.flit.hdr 0x1F 0 } }
  { x with retry := x.retry.map fun f => (f.1, bare f.2), history := [] }

/-- Frames up to and including `a` are acknowledged (R340). -/
def PortSt.take (x : PortSt) (a : Nat) : PortSt :=
  let n := (a + 1 + 2 ^ 32 - x.acked) % 2 ^ 32
  if n ≤ x.retry.length then { x with retry := x.retry.drop n, acked := wrap32 (a + 1) } else x

/-- The last frame received good. -/
def PortSt.lastGood (x : PortSt) : Nat := (x.nextRx + 2 ^ 32 - 1) % 2 ^ 32

/-- Pools sized and counts at 0 (R353), but for the flits that are sent again: those after `a`, the last frame that the peer has
taken. -/
def State.restart (s : State) (p a : Nat) : State :=
  let x := ((s.port p).take a).stripCredits
  let size := fun (q : Nat) =>
    let y := x.pool q
    let n := s.poolSlots p q
    let m := x.owedFlits q
    ({ slots := n, avail := n - m, sent := m, credIn := 0, held := 0, freed := 0, received := 0, credOut := 0,
       old := y.old + y.held, lent := 0, kept := 0, ahead := y.ahead } : Pool)
  s.setPort p { x with pools := (List.range 20).map size, reinit := false, owesOp5 := false }

/-- Pools resized when group definitions change (R252, R342). -/
def State.resizePools (s : State) : State :=
  portList.foldl (fun s p =>
    let x := s.port p
    if !s.portLive p then s
    else s.setPort p { x with pools := x.pools.zipIdx.map fun y =>
      let n := s.poolSlots p y.2
      if n = y.1.slots then y.1
      else { y.1 with slots := n, avail := n - (y.1.sent + 2 ^ 32 - y.1.credIn) % 2 ^ 32 - y.1.lent } }) s

/-- The frames that wait for an ACK go again (R340). -/
def State.resendAll (s : State) (p : Nat) : State :=
  let x := s.port p
  match x.retry with
  | [] => s
  | (n, _) :: _ => (s.emit (.resend p n x.retry.length)).inc (R.portResent p) x.retry.length

/-! ## Credit faults (R345, R346) -/

/-- A receiver's counts restart at 0 with its report: the slots still held are the only ones not free. -/
def Pool.reported (y : Pool) : Pool :=
  { y with held := y.held + y.old, kept := y.held + y.old, old := 0, received := 0, credOut := 0, freed := 0 }

/-- A sender's counts restart at 0 with the peer's report of `n` free slots, `m` of which the frames sent again will take. -/
def Pool.granted (y : Pool) (n m : Nat) : Pool := { y with avail := n - m, sent := m, credIn := 0, lent := y.slots - n }

/-- A reinitialisation begins: OP 5, which goes when the retry buffer has room (R340), and the report. What could be delivered has been
delivered; returned credits that the peer has not seen are in the free slots it is told of. -/
def State.beginReinit (s : State) (p : Nat) : State :=
  let x := (s.port p).stripCredits
  let s := s.setPort p { x with pools := x.pools.map Pool.reported, reinit := true, owesOp5 := true }
  (s.sendDue p s.op5).emit (.reinitReport p (x.pools.map fun q => q.slots - q.held - q.old) x.lastGood)

def State.creditFault (s : State) (p pool check : Nat) : State :=
  if (s.port p).reinit || !s.portIsUp p then s
  else
    let s := (s.inc (R.portCreditFaults p) 1).portEvent p 0x0403 (pool + check * 2 ^ 8)
    (s.linkCause p).beginReinit p

/-! ## Flits whose port is gone (R246, R350, R365) -/

/-- A request of a point-to-point access that finds no path is refused back to its requester (R246). -/
def State.refusePath (s : State) (f : Flit) : State :=
  if flitKind f = 3 ∨ flitKind f = 4 then
    if s.chip = some (flitSrc f) then s.remoteReply (flitReqId f) .noPath
    else s.answer (flitSrc f) (flitReqId f) (flitOffset f) .noPath
  else s

/-- A point-to-point, mirror or host-initiated flit goes on toward its chip; its slot is free when it has left. -/
def State.forwardFlit (s : State) (f : Flit) (o : Option (Nat × Nat)) : State :=
  match s.route (flitDest f) (flitOffset f) with
  | some q => s.sendTx q ⟨f, o, false, 0⟩
  | none => (s.refusePath f).leave o

/-- A flit that travels to a chip (R336). -/
def isP2p (f : Flit) : Bool := decide (3 ≤ flitKind f ∧ flitKind f ≤ 7)

/-- A flit of a port that is no longer up goes to another port of its direction: collective flits by spraying; words of VC 1 on the
first that is up; what VC 0 carries concerns its own link and ends with it (R337, log 74). -/
def State.rehome (s : State) (p : Nat) (e : TxFlit) : State :=
  let k := flitKind e.flit
  let dir := s.allot p
  if k = 2 ∨ k = 9 then s.sendColl (flitGroup e.flit) dir e
  else if k = 1 ∧ flitVc e.flit = 1 then
    match (s.portsOf dir).head? with
    | some q => s.sendTx q e
    | none => s
  else s

/-- Point-to-point flits join the queues of the ports R350 gives them, ahead of what waits there and in their order; the ports they
joined, and those that found none. -/
def State.rehomeP2p (s : State) (l : List TxFlit) : List Nat × List TxFlit × State :=
  l.foldr (fun e x =>
    match x.2.2.route (flitDest e.flit) (flitOffset e.flit) with
    | some q =>
      let y := x.2.2.port q
      (q :: x.1, x.2.1, x.2.2.setPort q { y with txq := e :: y.txq })
    | none => (x.1, e :: x.2.1, x.2.2)) ([], [], s)

/-- The flits of a port leave it: those of its retry buffer, in order and without the credits they carried to the peer that is gone, ahead
of those that wait. -/
def State.emptyPort (s : State) (p : Nat) (retryToo : Bool) : State :=
  let x := (s.port p).stripCredits
  let l := (if retryToo then x.retry.map (·.2) else []) ++ x.txq
  let s := s.setPort p (if retryToo then { x with retry := [], txq := [], acked := x.nextTx, reinit := false } else { x with txq := [] })
  let (ports, lost, s) := s.rehomeP2p (l.filter fun e => isP2p e.flit)
  let s := ports.eraseDups.foldl State.pump s
  let s := (l.filter fun e => !isP2p e.flit).foldl (fun (s : State) e => s.rehome p e) s
  lost.foldl (fun (s : State) e => (s.refusePath e.flit).leave e.origin) s

/-- DIRECTION DOWN (R350, R365). -/
def State.directionCheck (s : State) (dir : Nat) : State :=
  if dir < 6 ∧ (s.portsOf dir).isEmpty then s.raise 0x040D pgLINK { detail := dir } else s

/-- What a swap or a narrowing was doing ends. -/
def DirSt.stop (d : DirSt) : DirSt := { d with swap := .none, switchAt := none, later := [], own := false }

/-- A port that was up goes down (R365). -/
def State.portDown (s : State) (p : Nat) : State :=
  let s := s.set (R.portStateState p) 4
  let x := s.port p
  let s := s.setPort p { x with rx := x.rx.stop, tx := x.tx.stop, quiesce := false, relane := [], phase := 0 }
  let s := (s.portEvent p 0x0404 0).linkCause p
  (s.emptyPort p true).directionCheck (s.allot p)

/-- A port goes dark (R357), without PORT DOWN; frames that 1 ms has not cleared go the way of R365 (log 75). -/
def State.portGoDark (s : State) (p : Nat) : State :=
  let wasUp := s.portLive p
  let s := (s.set (R.portStateState p) 5).emit (.lasers p false)
  let x := s.port p
  let s := s.setPort p { x with rx := x.rx.stop, tx := x.tx.stop, quiesce := false, relane := [], phase := 0 }
  let s := s.emptyPort p true
  if wasUp ∧ 2 ≤ s.axisSize (s.allot p / 2) then s.directionCheck (s.allot p) else s

/-- Darkening begins (R357): a port that is up stops new flits and waits for its retry buffer, from which a NAK is still answered. -/
def State.darken (s : State) (p : Nat) : State :=
  if s.portLive p then
    if (s.port p).quiesce then s
    else (s.setPort p { s.port p with quiesce := true }).emptyPort p false
  else if s.get (R.portStateState p) = 5 then s
  else s.portGoDark p

/-! ## Training (R353 to R357) -/

/-- The inventory code of a cage (R370). -/
def State.cage (s : State) (p : Nat) : Nat :=
  bitsOf (s.word (R.linkInventoryLo.addr + 4 * (p / 16))).toNat (2 * (p % 16)) 2

def State.setCage (s : State) (p code : Nat) : State :=
  let a := R.linkInventoryLo.addr + 4 * (p / 16)
  s.setWord a (BitVec.ofNat 32 (withBits (s.word a).toNat (2 * (p % 16)) 2 code))

def State.beginPhases (s : State) (p state : Nat) : State :=
  let s := (s.set (R.portStateState p) state).emit (.lasers p true)
  s.setPort p { s.port p with phase := 1, code := s.allot p, relane := [], reinit := false }

/-- Training of a port that is not up and whose cage holds an NV-OP32. -/
def State.train (s : State) (p : Nat) : State :=
  let st := s.get (R.portStateState p)
  if (st = 0 ∨ st = 4 ∨ st = 5) ∧ s.cage p = 1 then
    let s := s.beginPhases p 1
    let x := s.port p
    s.setPort p { x with nextRx := 0, nextTx := 0, acked := 0, retry := [], nakSent := false, rx := x.rx.stop, tx := x.tx.stop }
  else s

/-- A retrain of a port that is up, restoring every lane that qualifies. -/
def State.retrain (s : State) (p : Nat) : State :=
  if s.portIsUp p then
    let x := s.port p
    ((s.setPort p { x with rx := x.rx.stop, tx := x.tx.stop }).beginPhases p 3).retrainCause p
  else s

/-- A lane qualifies over some ms (R354): at most 425 corrected bits in the 4.25 × 10⁸ of each, an OMA margin of 1.5 dB, and 1.3 times its
bias at beginning of life. -/
def laneOk (ms : Nat) (q : LaneQual) (bol : Nat) : Bool :=
  decide (q.bits ≤ 425 * ms) && decide (150 ≤ q.margin) && decide (10 * q.bias ≤ 13 * bol)

/-- Physical lanes that qualify over the 100 ms of phase 4. -/
def qualifying (l : List LaneQual) (bol : Nat → Nat) : List Nat :=
  (List.range 9).filter fun i => (l[i]?).elim false fun q => laneOk 100 q (bol i)

/-- Lanes chosen among those that qualify (R354); `none` when six or fewer do. -/
def DirSt.choose (l : List Nat) (d : DirSt) : Option DirSt :=
  let state := fun (used : List Nat) (spare : Option Nat) (i : Nat) =>
    if used.contains i then LaneState.active else if spare = some i then .ready else .failed
  let mk := fun (used : List Nat) (spare : Option Nat) (narrow : Bool) =>
    some { d.stop with lanes := (List.range 9).map (state used spare), map := used, narrow := narrow }
  match l.length with
  | 9 => mk (l.take 8) (some 8) false
  | 8 => mk l none false
  | 7 => mk l none true
  | _ => none

/-- A word in place of peer information that is none, or names an allotment code that R348 lacks: discarded and counted (R338). -/
def peerWordBad (w : CtlWord) : Bool := bitsOf w.w0.toNat 0 8 != 6 || decide (8 ≤ bitsOf w.w5.toNat 5 4)

/-- The peer's fields (R356). -/
def State.setPeer (s : State) (p : Nat) (w : CtlWord) : State :=
  let l := cwWords w
  let w5 := l.getD 5 0
  let s := s.set2 (R.portPeerIdLo p) (R.portPeerIdHi p) (l.getD 3 0 + 2 ^ 32 * l.getD 4 0)
  let s := (s.set (R.portPeerPort p) (bitsOf w5 0 5)).set (R.portPeerCode p) (bitsOf w5 5 4)
  (s.set (R.portPeerChip p) (bitsOf w5 9 14)).set (R.portPeerChipValid p) (bitsOf w5 23 1)

/-- This module's peer information for a port (R338, R356). -/
def State.peerInfo (s : State) (p : Nat) : CtlWord :=
  let c := s.chip
  s.ctlWord 6 0 [Config.identity.toNat % 2 ^ 32, Config.identity.toNat / 2 ^ 32,
    p + s.allot p * 32 + c.getD 0 * 2 ^ 9 + (if c.isSome then 2 ^ 23 else 0), 0]

/-- Peer information to every port that is up (R356). -/
def State.tellPeers (s : State) : State :=
  (portList.filter s.portUp).foldl (fun s p => s.sendCtl p 0 (s.peerInfo p)) s

/-- The opposite code (R355); an unused port has none. -/
def opposite (code : Nat) : Nat := if code = 6 then 6 else if code = 7 then 15 else code / 2 * 2 + (1 - code % 2)

/-- PORT MISWIRED (R355). -/
def State.miswired (s : State) (p : Nat) : Bool :=
  let c := s.allot p
  let first := (portList.filter fun q => q != p && s.portIsUp q && s.allot q == c).head?
  s.get (R.portPeerCode p) != opposite c || (decide (c < 6) && (match first with
    | some q => s.get2 (R.portPeerIdLo q) (R.portPeerIdHi q) != s.get2 (R.portPeerIdLo p) (R.portPeerIdHi p)
    | none => false))

/-- A port that comes up joins spraying at once (R350). -/
def State.joinSpray (s : State) : State := (s.groups.map (·.1)).foldl (fun (s : State) g => s.unblock g) s

/-- A training phase ends (R353). Phases 4 and 5 that fail leave the port where it is until its 400 ms end. -/
def State.phaseDone (s : State) (p : Nat) (r : TrainResult) : State :=
  let x := s.port p
  let next := fun (s : State) => s.setPort p { s.port p with phase := (s.port p).phase + 1 }
  match x.phase with
  | 1 => next s
  | 2 => next s
  | 3 => next s
  | 4 =>
    match x.rx.choose (qualifying r.rx fun i => r.peerBol.getD i 0),
      x.tx.choose (qualifying r.tx fun i => s.get ((R.portLaneTxBiasBol p).at_ i)) with
    | some rx, some tx =>
      let mons := x.mons.zipIdx.map fun m => { m.1 with bfTrain := (r.tx.getD m.2 default).backFacet }
      let s := s.setPort p { x with rx := rx, tx := tx, mons := mons, phase := 5 }
      s.emit (.flit p (ctlFlit 0 (s.peerInfo p)))
    | _, _ => s
  | 5 =>
    if !cwCrcOk r.peer then s
    else if peerWordBad r.peer then s.inc (R.portCwInvalid p) 1
    else
      let s := s.setPeer p r.peer
      if s.miswired p then s.portEvent p 0x040A (s.get (R.portPeerCode p)) else next s
  | 6 => next (s.restart p r.lastGood)
  | 7 =>
    let s := (List.range 9).foldl (fun (s : State) l =>
      s.set ((R.portLanePathLossBol p).at_ l) (r.pathLoss.getD l 0 % 2 ^ 16)) s
    let x := s.port p
    let mons := x.mons.zipIdx.map fun m =>
      { m.1 with train := r.peerTx.getD m.2 default, peerBol := r.peerBol.getD m.2 0, berRun := 0, omaRun := 0, biasRun := 0,
                 markRun := 0, codeRun := 0 }
    let was := s.get (R.portStateState p)
    let s := s.setPort p { x with mons := mons, phase := 0 }
    let s := s.set (R.portStateState p) 2
    let s := if was = 3 then
        ((s.inc (R.portRetrains p) 1).portEvent p 0x0405 (s.port p).rx.inUse).resendAll p
      else s
    s.joinSpray.pump p
  | _ => s

/-- A retrain for a lane that was lost ends (R363): the lanes in their new places, the frames after the last good one again. -/
def State.relaneDone (s : State) (p lastGood : Nat) : State :=
  let l := (s.port p).relane
  let s := (s.set (R.portStateState p) 2).restart p lastGood
  let s := s.setPort p { s.port p with relane := [], nakSent := false }
  let s := s.inc (R.portRetrains p) 1
  let s := if l.any fun e => !e.2.2 then s.portEvent p 0x0405 (s.port p).rx.inUse else s
  let s := l.foldl (fun s e =>
    (s.inc (R.portSwaps p) 1).portEvent p (if e.2.2 then 0x0402 else 0x0401) (laneDetail e.1 e.2.1)) s
  (s.resendAll p).joinSpray.pump p

def execTrainingPhaseDone (p : PortId) (r : TrainResult) (s : State) : Host.Outcome State Fault Refusal :=
  let st := s.get (R.portStateState p)
  if s.start.powered ∧ (st = 1 ∨ st = 3) then
    if st = 3 ∧ (s.port p).phase = 0 then done (s.relaneDone p r.lastGood) else done (s.phaseDone p r)
  else done s

/-- 400 ms have passed, or a retrain fails (R353, R363, R365): TRAINING FAILED with the phase; a port that was up goes down. -/
def State.trainingFails (s : State) (p : Nat) : State :=
  let st := s.get (R.portStateState p)
  let ph := (s.port p).phase
  if st = 1 ∨ st = 3 then
    let s := (s.set (R.portStateFailPhase p) ph).portEvent p 0x0409 ph
    if st = 3 then s.portDown p
    else (s.set (R.portStateState p) 0).setPort p { s.port p with phase := 0 }
  else s

def execTrainingFailed (p : PortId) (s : State) : Host.Outcome State Fault Refusal :=
  if s.start.powered then done (s.trainingFails p) else done s

/-- A peer information word (R356). -/
def execPeerInfoReceived (p : PortId) (w : CtlWord) (s : State) : Host.Outcome State Fault Refusal :=
  if !s.dataOn ∨ !s.portLive p ∨ !cwCrcOk w then done s
  else if peerWordBad w then done (s.inc (R.portCwInvalid p) 1)
  else done (s.setPeer p w)

/-- Commands of page PORT: TRAIN and RETRAIN are refused for a port that is up while a program is loaded. -/
def State.writePortCtrl (s : State) (path : Path) (p v : Nat) : State :=
  let s := if bitAt v 0 then
      (if s.loaded && s.portIsUp p then s.refuseAccess path (R.portCtrlTrain p).addr else s.train p) else s
  let s := if bitAt v 1 then
      (if s.loaded && s.portIsUp p then s.refuseAccess path (R.portCtrlRetrain p).addr else s.retrain p) else s
  if bitAt v 2 then s.darken p else s

/-- Commands of page LINK. -/
def State.writeLinkCtrl (s : State) (v : Nat) : State :=
  let s := if bitAt v 0 then portList.foldl State.train s else s
  if bitAt v 1 then portList.foldl State.darken s else s

def execPortTrain (path : Path) (p : PortId) (s : State) : Host.Outcome State Fault Refusal :=
  s.writeAt path (R.portCtrlTrain p) fun s => s.writePortCtrl path p 1

def execPortRetrain (path : Path) (p : PortId) (s : State) : Host.Outcome State Fault Refusal :=
  s.writeAt path (R.portCtrlRetrain p) fun s => s.writePortCtrl path p 2

def execPortDark (path : Path) (p : PortId) (s : State) : Host.Outcome State Fault Refusal :=
  s.writeAt path (R.portCtrlDark p) fun s => s.writePortCtrl path p 4

/-- Every port that is not up. -/
def execLinkTrain (path : Path) (s : State) : Host.Outcome State Fault Refusal :=
  s.writeAt path R.linkCtrlTrain fun s => s.writeLinkCtrl 1

def execLinkDarkAll (path : Path) (s : State) : Host.Outcome State Fault Refusal :=
  s.writeAt path R.linkCtrlDarkAll fun s => s.writeLinkCtrl 2

/-- The retry buffer is empty, or 1 ms has passed. -/
def execDarkQuiesceDone (p : PortId) (s : State) : Host.Outcome State Fault Refusal :=
  if (s.port p).quiesce && s.portLive p then done (s.portGoDark p) else done s

/-- A pluggable leaves its cage (R365, R366, R490). -/
def execPluggableRemoved (p : PortId) (s : State) : Host.Outcome State Fault Refusal :=
  if !s.start.powered then done s
  else
    let s := s.setCage p 0
    let st := s.get (R.portStateState p)
    if st = 2 ∨ st = 3 then done (s.portDown p)
    else if st = 1 then done (s.trainingFails p)
    else done s

/-- The calibration page of a pluggable (R353): each lane's laser bias at beginning of life. -/
def State.readCalibration (s : State) (p : Nat) (bol : List Nat) : State :=
  (List.range 9).foldl (fun (s : State) l => s.set ((R.portLaneTxBiasBol p).at_ l) (bol.getD l 0 % 2 ^ 16)) s

/-- A pluggable is inserted and read (R365, R490): the port stays untrained until software trains it. -/
def execPluggableInserted (p : PortId) (page : CalPage) (s : State) : Host.Outcome State Fault Refusal :=
  if !s.start.powered ∨ s.portLive p then done s
  else
    let s := ((s.setCage p (page.code % 4)).readCalibration p page.biasBol).set (R.portStateState p) 0
    let s := s.setPort p { s.port p with rx := DirSt.reset, tx := DirSt.reset, mons := PortSt.reset.mons, phase := 0 }
    done (s.portEvent p 0x040C 0)

/-! ## Frames (R331, R334, R340, R343) -/

/-- The frame header's fields. -/
def frameNumber (f : Frame) : Nat := bitsOf f.hdr.toNat 0 32
def frameAck (f : Frame) : Nat := bitsOf f.hdr.toNat 32 32
def frameNak (f : Frame) : Bool := bitAt f.hdr.toNat 64

/-- CRC-8 over bits [71:0], most significant first. -/
def frameHdrOk (f : Frame) : Bool :=
  let b := (List.range 9).map fun i => BitVec.ofNat 8 (bitsOf f.hdr.toNat (64 - 8 * i) 8)
  crc8 b == bitsOf f.hdr.toNat 72 8

/-- KIND and the VC that carries it (R336). -/
def kindOk (f : Flit) : Bool :=
  let k := flitKind f
  k == 0 || (if k = 1 ∨ k = 8 then decide (flitVc f ≤ 1) else decide (k ≤ 9 ∧ 2 ≤ flitVc f))

/-- Data flits with a byte in an uncorrectable codeword (R330, R334). -/
def markedFlits (f : Frame) : List CtlWord :=
  let bad := (f.errs.zipIdx.filter fun e => decide (12 < e.1.sum)).map (·.2)
  (f.flits.zipIdx.filter fun y =>
    !(flitKind y.1 == 0 || flitKind y.1 == 1 || flitKind y.1 == 8) &&
      bad.any fun c => decide (4560 * c < 80 + 4096 * (y.2 + 1) ∧ 80 + 4096 * y.2 < 4560 * (c + 1))).map (·.1.hdr)

/-- Control words of a control flit that pass their CRC and have no known type, or are lane commands with an OP or a lane out of
range (R338, R361). -/
def badWords (f : Flit) : Nat :=
  let ws := (piecesOf 32 15 (f.payload.take (flitLen f))).filter fun b => decide (b.length = 32)
  (ws.filter fun b =>
    let w := cwOfWords ((List.range 8).map fun i => u32Of b (4 * i))
    let t := bitsOf w.w0.toNat 0 8
    let op := bitsOf w.w3.toNat 0 4
    cwCrcOk w && decide (t = 0 ∨ 8 < t ∨ (t = 8 ∧ (op = 0 ∨ 6 < op ∨ 8 < bitsOf w.w3.toNat 4 4)))).length

/-- One flit of an accepted frame: its credits, and its slot where it ends here. Flits of other kinds take their slots as their own rows
arrive. -/
def State.takeFlit (s : State) (p : Nat) (f : Flit) : State :=
  let x := s.port p
  let q := flitCredPool f
  let n := flitCredCount f
  let x := if q < 20 then
      x.setPool q fun y => { y with avail := y.avail + n, credIn := wrap32 (y.credIn + n) } else x
  let s := s.setPort p x
  let k := flitKind f
  if !kindOk f then s
  else if k = 1 ∨ k = 8 then
    let s := s.setPort p ((s.port p).setPool (flitPool f) fun y =>
      { y with received := wrap32 (y.received + 1), freed := y.freed + 1 })
    if k = 1 then s.inc (R.portCwInvalid p) (badWords f) else s
  else s

/-- Flits that go on as rows of their own. -/
def rowFlit (f : Flit) : Bool := kindOk f && !(flitKind f == 0 || flitKind f == 1 || flitKind f == 8)

/-- A KIND of an accepted frame that is invalid or on the wrong VC (R336): a CREDIT FAULT when the whole frame has been counted, the flits
whose rows are still to come among it. -/
def State.kindFault (s : State) (p : Nat) (l : List Flit) : State :=
  match l.find? fun f => !kindOk f with
  | none => s
  | some f =>
    let x := (l.filter rowFlit).foldl (fun (x : PortSt) f =>
      x.setPool (flitPool f) fun y => { y.hold with ahead := y.ahead + 1 }) (s.port p)
    if (s.port p).reinit || !s.portIsUp p then s else (s.setPort p x).creditFault p (flitPool f) 7

/-- Credits that a frame has brought for a group let its flits go (R269). -/
def State.takeCredit (s : State) (f : Flit) : State :=
  let q := flitCredPool f
  if 4 ≤ q ∧ q < 20 then s.unblock (q - 4) else s

/-- A frame that is not taken: NAK with ACK at the last good one. -/
def State.nak (s : State) (p : Nat) : State :=
  let x := s.port p
  (s.setPort p { x with nakSent := true }).emit (.ack p x.lastGood true)

/-- The ACK and NAK of a frame whose header is good. -/
def State.takeAck (s : State) (p : Nat) (f : Frame) : State :=
  let s := s.setPort p ((s.port p).take (frameAck f))
  if frameNak f then s.resendAll p else s

/-! ## Lanes that are lost (R363, R364, R366) -/

def PortSt.dir (x : PortSt) : Dir → DirSt
  | .rx => x.rx
  | .tx => x.tx

def PortSt.setDir (x : PortSt) (d : Dir) (y : DirSt) : PortSt :=
  match d with
  | .rx => { x with rx := y }
  | .tx => { x with tx := y }

/-- The understudy, ready or in training for another lane. -/
def DirSt.understudy (d : DirSt) : Option Nat :=
  d.lanes.findIdx? fun l => decide (l = .ready ∨ l = .training)

/-- A lane is lost while its port is up or retrains. -/
def State.loseLane (s : State) (p : Nat) (d : Dir) (lane : Nat) : State :=
  let x := s.port p
  let y := x.dir d
  let st := y.lanes.getD lane .failed
  if st = .ready ∨ st = .training then
    s.setPort p (x.setDir d { y with lanes := y.lanes.set lane .failed })
  else if st ≠ .active then s
  else if y.narrow then s.portDown p
  else
    let k := y.logicalOf lane
    let (y, e) := match y.understudy with
      | some u =>
        ({ y.stop with lanes := (y.lanes.set lane .retired).set u .active, map := y.map.set k u, later := y.later }, (d, lane, false))
      | none => ({ y.stop with lanes := y.lanes.set lane .retired, map := y.map.eraseIdx k, narrow := true }, (d, lane, true))
    let x := { x.setDir d y with reinit := false, relane := x.relane ++ [e], phase := 0 }
    ((s.setPort p x).set (R.portStateState p) 3).retrainCause p

def execLaneLost (p : PortId) (d : Dir) (lane : LaneId) (s : State) : Host.Outcome State Fault Refusal :=
  if s.dataOn && s.portLive p then done (s.loseLane p d lane) else done s

/-- Symbols found in error that a lane carried, over a frame's codewords in order: how often in a row a codeword has failed with more
than 12 of them on the lane (R364, log 76). -/
def codeRunOf (lane : Nat) (run : Nat) (errs : List (List Nat)) : Nat × Nat :=
  errs.foldl (fun (x : Nat × Nat) c =>
    let n := if 12 < c.sum ∧ 12 < c.getD lane 0 then x.1 + 1 else 0
    (n, max x.2 n)) (run, run)

/-- A frame's markers and codewords counted for each lane in use; the first lane that is lost (R364). -/
def PortSt.watch (x : PortSt) (f : Frame) : Option Nat × PortSt :=
  let used := (List.range 9).filter fun l => x.rx.lanes.getD l .failed = .active
  let mons := x.mons.zipIdx.map fun (m : LaneMon × Nat) =>
    if used.contains m.2 then
      { m.1 with markRun := if f.badMarkers.any (fun l => l.val == m.2) then m.1.markRun + 1 else 0,
                 codeRun := (codeRunOf m.2 m.1.codeRun f.errs).1 }
    else m.1
  let gone := fun (l : Nat) =>
    decide (8 ≤ (mons.getD l LaneMon.empty).markRun) ||
      decide (4 ≤ (codeRunOf l (x.mons.getD l LaneMon.empty).codeRun f.errs).2)
  (f.laneLost.elim (used.find? gone) fun l => some l.val, { x with mons := mons })

/-- A port frame (R334): the first row that applies decides. A frame number is taken once (R340). -/
def execFrameReceived (p : PortId) (f : Frame) (s : State) : Host.Outcome State Fault Refusal :=
  if !s.dataOn ∨ !s.portIsUp p then done s
  else
    let fixed := (f.errs.filter fun c => decide (1 ≤ c.sum ∧ c.sum ≤ 12)).length
    let lost := (f.errs.filter fun c => decide (12 < c.sum)).length
    let s := (s.inc (R.portFecCorrected p) fixed).inc (R.portFecUncorrectable p) lost
    let (gone, x) := (s.port p).watch f
    let s := s.setPort p x
    match gone with
    | some l => done ((s.nak p).loseLane p .rx l)
    | none =>
      if !frameHdrOk f || !(f.flits.all fun y => cwCrcOk y.hdr) then done ((s.inc (R.portHdrCrc p) 1).nak p)
      else
        let s := s.takeAck p f
        let x := s.port p
        if frameNumber f ≠ x.nextRx then done (s.pump p)
        else
          let s := s.setPort p { x with
            nextRx := wrap32 (x.nextRx + 1), nakSent := false, marked := markedFlits f, rxBefore := x.pools.map Pool.received,
            pools := x.pools.map fun y => { y with ahead := 0 } }
          let s := (f.flits.foldl (fun s y => s.takeFlit p y) s).kindFault p f.flits
          let s := f.flits.foldl State.takeCredit s
          let s := s.emit (.ack p (s.port p).lastGood false)
          done (State.returnCredits p 20 (s.pump p))

/-! ## The ledger (R344, R345) -/

/-- CRED_OUT at a frame, from the history of the last 4,096 frames: 0 before the first of them since the counts last restarted. -/
def PortSt.credOutAt (x : PortSt) (g : Nat) : Option (List Nat) :=
  match x.history.find? fun h => decide (h.1 = g) with
  | some h => some h.2
  | none => if x.history.length < 4096 then some (List.replicate 20 0) else none

def firstBad (l : List Bool) : Option Nat := l.findIdx? fun b => !b

/-- The first check that fails (R345), with its pool. -/
def PortSt.checkLedger (x : PortSt) (l : Ledger) : Option (Nat × Nat) :=
  let received := if wrap32 (l.frame + 1) = x.nextRx then x.rxBefore else x.pools.map Pool.received
  let eq := fun (a b : List Nat) => (List.range 20).map fun q => a.getD q 0 % 2 ^ 32 == b.getD q 0 % 2 ^ 32
  if !l.crcOk then some (0, 5)
  else match x.credOutAt l.g with
    | none => some (0, 6)
    | some out =>
      match firstBad (eq l.sent received) with
      | some q => some (q, 0)
      | none => match firstBad (eq l.credIn out) with
        | some q => some (q, 1)
        | none =>
          match firstBad (x.pools.map fun q => decide ((q.avail + q.sent + q.lent + 2 ^ 32 - q.credIn) % 2 ^ 32 = q.slots)) with
          | some q => some (q, 2)
          | none =>
            match firstBad (x.pools.map fun q => decide (q.held + q.freed = (q.received + q.kept + 2 ^ 32 - q.credOut) % 2 ^ 32)) with
            | some q => some (q, 3)
            | none => if x.retry.length = (x.nextTx + 2 ^ 32 - x.acked) % 2 ^ 32 then none else some (0, 4)

def execLedgerFlitReceived (p : PortId) (l : Ledger) (s : State) : Host.Outcome State Fault Refusal :=
  if !s.dataOn ∨ !s.portIsUp p ∨ (s.port p).reinit then done s
  else match (s.port p).checkLedger l with
    | none => done s
    | some (q, c) => done (s.creditFault p q c)

/-- The sequence does not end within 100 µs (R346). -/
def execCreditReinitTimeout (p : PortId) (s : State) : Host.Outcome State Fault Refusal :=
  if (s.port p).reinit && s.portIsUp p then done (s.retrain p) else done s

end Sys2Proof.Machine
end

