-- ==== Sys2Proof/Machine/Cxl.lean ====
section
/-! DEFINITION. The CXL link (R395 to R402): its state, Tier 3 requests, host accesses to the CXL.mem range, back-invalidation, and
what waits for memory to be free (R215, R306, R309). -/

namespace Sys2Proof.Machine

open Sys2Proof

/-! ## Configuration space, BAR2 and BAR4 (R395, R401, R403)

No row reads or writes them; what is stored in them reads back, over the words that the spec gives (log 78). -/

/-- The class code: processing accelerator. -/
def CLASSCODE : Nat := 0x120000

/-- What the DVSEC range reports (R401). -/
def DVSECRANGE : Nat := 3072 * 2 ^ 30

/-- A BAR of R403: its number, its size, whether it takes 64-bit addresses and whether it is prefetchable. -/
structure Bar where
  number   : Nat
  size     : Nat
  wide     : Bool
  prefetch : Bool
  deriving DecidableEq, Repr

/-- The BARs: register pages, CXL component registers, MSI-X table and pending bits. -/
def BARS : List Bar := [⟨0, 2 ^ 26, true, false⟩, ⟨2, 2 ^ 16, true, false⟩, ⟨4, 2 ^ 14, true, false⟩]

def barSize (n : Nat) : Nat := ((BARS.find? fun b => b.number == n).map Bar.size).getD 0

/-- The low word of a BAR as it reads: the address that is stored, above the size, and the type that PCI has in bits [3:0]. -/
def Bar.lowWord (b : Bar) (stored : Word) : Word :=
  stored / BitVec.ofNat 32 b.size * BitVec.ofNat 32 b.size + BitVec.ofNat 32 (boolNat b.wide * 4 + boolNat b.prefetch * 8)

/-- A word of configuration space: the IDs of the product data, the class code, the types of the BARs and the reported range at the
places that PCI and CXL give them. -/
def State.configWord (s : State) (off : Nat) : Word :=
  let stored : Word := AMap.get s.host.config off 0
  if off = 0 then Config.deviceVendor
  else if off = 8 then BitVec.ofNat 32 (CLASSCODE * 256 + Config.revisionId.toNat)
  else match BARS.find? fun b => off == 0x10 + 4 * b.number with
    | some b => b.lowWord stored
    | none =>
      if off = Config.dvsecAt + 0x18 then BitVec.ofNat 32 (DVSECRANGE / 2 ^ 32)
      else if off = Config.dvsecAt + 0x1C then BitVec.ofNat 32 (DVSECRANGE % 2 ^ 32)
      else stored

/-- A word of BAR2, component registers with the HDM decoder, and of BAR4, the MSI-X table and the pending bits; nothing outside the
BAR. -/
def State.bar2Word (s : State) (off : Nat) : Option Word := if off < barSize 2 then some (AMap.get s.host.bar2 off 0) else none
def State.bar4Word (s : State) (off : Nat) : Option Word := if off < barSize 4 then some (AMap.get s.host.bar4 off 0) else none

/-! ## Host accesses to Tier 2 (R401, R402) -/

/-- The most lines the snoop filter tracks. -/
def SNOOPLINES : Nat := 1048576

/-- The host may keep a line: the line is tracked, once the filter has room. Where it is full, its oldest entry is back-invalidated
and the grant waits for that (R402). -/
def State.grant (s : State) (line : Nat) : State × Bool :=
  if s.host.snoop.contains line then (s, true)
  else if s.host.snoop.length + s.host.biWait.length < SNOOPLINES then
    ({ s with host := { s.host with snoop := s.host.snoop ++ [line] } }, true)
  else match s.host.biWait, s.host.snoop with
    | [], d :: _ => (s.snoopOut d, false)
    | _, _ => (s, false)

/-- A CXL.mem access to one line: served, held while the line must wait, or failed beyond the range. `since`: from when on a resync has
held it. No line is tracked, and nothing answered, while the link is down (R398). -/
def State.hostMem (s : State) (since : Option DWord) (a : CxlMemAccess) : State :=
  let line := a.addr / 64
  let off := TIER2 + s.get R.memHdmBase * 2 ^ 30 + 64 * line
  let up := s.get R.hostLinkRate != 0
  if s.hdmSize * 2 ^ 30 ≤ a.addr ∨ (s.checkAccess off 64).isSome then
    let s := s.inc R.memWindowRange 1
    match a.write with
    | some _ => s
    | none =>
      let (b, s) := s.drawBytes 64
      if up then s.emit (.cxlMem a.addr b true) else s
  else
    let (since, s) := s.resyncWait (a.write.isSome && s.resyncing off 64) since
    let hold := fun (s : State) => s.setMem { s.mem with waiting := s.mem.waiting ++ [.cxl a since] }
    let s := s.lockKey off
    if s.mustWait a.write.isSome off 64 then hold s
    else
      let (s, ok) := if a.cache && up then s.grant line else (s, true)
      if !ok then hold s
      else match a.write with
        | some d => State.writeLines 1 off (fitBytes 64 d) (if a.poison then [0] else []) s
        | none =>
          let (r, s) := s.tierRead (Requester.plain .host) off 64 a.ecc
          if up then s.emit (.cxlMem a.addr r.data (!r.poison.isEmpty)) else s

def execCxlMemAccess (a : CxlMemAccess) (s : State) : Host.Outcome State Fault Refusal :=
  if s.dataOn && s.get R.hostLinkRate != 0 && s.flagReg R.hostLinkCxl then done (s.hostMem none a) else done s

/-! ## What waited (R215, R306, R309, R402) -/

/-- A held access is tried again. -/
def State.retryOne (s : State) (w : Waiting) : State :=
  let hold := fun (w : Waiting) (s : State) => s.setMem { s.mem with waiting := s.mem.waiting ++ [w] }
  match w with
  | .write off data po since =>
    let (since, s) := s.resyncWait (s.resyncing off data.length) since
    if s.mustWait true off data.length then hold (.write off data po since) s else s.writeSpan off data po
  | .mover id since =>
    match s.movers.find? fun m => decide (m.id = id) with
    | none => s
    | some m =>
      let (since, s) := s.resyncWait (s.moverResyncs m) since
      let (s, ok) := s.tryMover m
      if ok then s else hold (.mover id since) s
  | .remote r since =>
    let (since, s) := s.resyncWait (r.write && s.resyncing r.off r.len) since
    if s.mustWait r.write r.off r.len then hold (.remote r since) s else s.serve r
  | .cxl a since => s.hostMem since a
  | .hostRead f => s.serveHost f false []

/-- A held write, as a resync that begins finds it. -/
def State.dateWait (s : State) (w : Waiting) : Waiting :=
  let from_ := fun (held : Bool) (since : Option DWord) => since.or (s.heldSince held)
  match w with
  | .write off d po since => .write off d po (from_ (s.resyncing off d.length) since)
  | .mover id since =>
    .mover id (from_ ((s.movers.find? fun m => decide (m.id = id)).elim false s.moverResyncs) since)
  | .remote r since => .remote r (from_ (r.write && s.resyncing r.off r.len) since)
  | .cxl a since => .cxl a (from_ (a.write.isSome && s.resyncing (TIER2 + s.get R.memHdmBase * 2 ^ 30 + 64 * (a.addr / 64)) 64) since)
  | .hostRead f => .hostRead f

/-- Everything that waits is tried again, in order; collectives that waited for their source go on. -/
def State.retryWaiting (s : State) : State :=
  let l := s.mem.waiting
  let s := l.foldl State.retryOne (s.setMem { s.mem with waiting := [] })
  (s.groups.map (·.1)).foldl (fun s g => if (s.group g).run.isSome then s.pumpColl g else s) s

/-! ## Back-invalidation (R402) -/

/-- The tier offset of a device line. -/
def State.lineOff (s : State) (line : Nat) : Nat := TIER2 + s.get R.memHdmBase * 2 ^ 30 + 64 * line

def State.dropBi (s : State) (line : Nat) : State :=
  { s with host := { s.host with biWait := s.host.biWait.filter fun x => decide (x ≠ line) } }

def State.streaming (s : State) : Bool := s.get R.memSnapStatusState == 2

/-- Where the committed copy of a logical offset lay under a version table. -/
def placeIn (l : List VRange) (off : Nat) : Nat :=
  match l.find? fun r => decide (r.base ≤ off ∧ off < r.base + r.len) with
  | some r => r.committed + (off - r.base)
  | none => off

/-- A line of a listed source that the host held is copied when it is back (R236, R402), from the physical copy that was committed when
the snapshot started (R321). -/
def State.snapLine (s : State) (off : Nat) : State :=
  if !s.streaming then s
  else match s.mem.snap.find? fun e => decide (e.src ≤ off ∧ off < e.src + e.len) with
    | none => s
    | some e =>
      let ph := placeIn s.mem.snapFrom off
      let data := (s.mem.bytes.filter fun c => decide (ph ≤ c.1 ∧ c.1 < ph + 64)).map fun c => (c.1 - ph, c.2)
      s.emit (.snapCopy (s.t3Host (e.dst + (off - e.src))) data 64 (if s.mem.poison.contains (ph / 64) then [0] else []))

/-- BIRsp: dirty data lands before the access that waited. -/
def execBiResponse (line : Nat) (dirty : Option (List Byte)) (s : State) : Host.Outcome State Fault Refusal :=
  if !(s.host.biWait.contains line) then done s
  else
    let s := s.dropBi line
    let s := match dirty with
      | some d => s.tierWrite (s.lineOff line) (fitBytes 64 d) []
      | none => s
    done (s.snapLine (s.lineOff line)).retryWaiting

/-- No BIRsp within 1 ms: it counts as received and the line's value is undefined. -/
def execBiTimeout (line : Nat) (s : State) : Host.Outcome State Fault Refusal :=
  if !(s.host.biWait.contains line) then done s
  else
    let s := (s.dropBi line).inc R.hostBiTimeouts 1
    let off := s.lineOff line
    let s := s.raise 0x0804 pgHOST { addr := some off }
    let (b, s) := s.drawBytes 64
    done ((s.tierWrite off b []).snapLine off).retryWaiting

/-- Every host snoop is answered RspIHitI (R399). -/
def execHostSnoop (addr : Nat) (s : State) : Host.Outcome State Fault Refusal :=
  if s.dataOn && s.get R.hostLinkRate != 0 then done (s.emit (.snoopResp addr)) else done s

/-! ## Tier 3 (R399, R400) -/

/-- One line comes back for a command of this module's cells: poisoned, it lands undefined, and the step of the cell's act is skipped
(R221, R312, R318). -/
def State.landT3 (s : State) (r : T3Req) (data : List Byte) (poison : Bool) (report : Bool) : State :=
  if poison then
    let (b, s) := s.drawBytes 64
    let s := s.csWrite r.cell r.cs b
    let who := (s.movers.find? fun m => decide (m.id = r.op)).elim {} s.moverInfo
    let s := if report then s.uncorrectable ⟨.cellMover, who⟩ r.off r.off else s
    s.causeIn (s.actOfCell r.cell) vPOISON
  else s.csWrite r.cell r.cs (fitBytes 64 data)

/-- The answer of a served access, once its last line has come. -/
def State.endServe (s : State) (id : Nat) : State :=
  match s.serves.find? fun v => decide (v.id = id) with
  | none => s
  | some v =>
    if s.t3.any fun r => decide (r.op = id) then s
    else
      let s := { s with serves := s.serves.filter fun x => decide (x.id ≠ id) }
      if v.write then s.answer v.chip v.reqId v.off .accepted
      else s.answer v.chip v.reqId v.off (.data (v.data.flatMap (·.2)) v.poison)

/-- One Tier 3 request ends: read data, poisoned or not, or a write done or dropped. -/
def State.endT3 (s : State) (r : T3Req) (data : List Byte) (poison report : Bool) : State :=
  let s := { s with t3 := s.t3.filter fun x => decide (x.id ≠ r.id) }
  match s.serves.find? fun v => decide (v.id = r.op) with
  | some v =>
    let s := if r.write then s
      else
        let (b, s) := if poison then s.drawBytes 64 else (fitBytes 64 data, s)
        let s := if poison && report then s.uncorrectable (Requester.plain .remote) r.off r.off else s
        { s with serves := s.serves.map fun (x : ServeOp) =>
          if x.id = v.id then { x with data := AMap.put x.data (r.off - v.off) b, poison := if poison then x.poison ++ [(r.off - v.off) / 64] else x.poison } else x }
    s.endServe v.id
  | none => if r.write then s else s.landT3 r data poison report

def execTier3RequestDone (id : Nat) (data : List Byte) (poisoned : List Nat) (s : State) :
    Host.Outcome State Fault Refusal :=
  match s.t3.find? fun r => decide (r.id = id) with
  | none => done s
  | some r => done (s.endT3 r data (!r.write && !poisoned.isEmpty) true)

/-- The snapshot fails with cause 0x5 (R237). -/
def State.snapFail (s : State) (cause : Nat) : State :=
  let s := (s.set R.memSnapStatusState 4).set R.memSnapStatusCause cause
  let s := s.setMem { s.mem with snapAt := none, onCommit := false }
  s.raise 0x030A pgMEM { detail := 4 + cause * 16 }

/-- The Tier 3 request that a write of this module's cells or of another module made is dropped (R312, R398, R400). -/
def State.droppedT3 (s : State) (r : T3Req) : State :=
  if s.serves.any fun v => decide (v.id = r.op) then s.cause vCOMMAND else s.causeIn (s.actOfCell r.cell) vCOMMAND

/-- A line of a snapshot's destinations: which of them a request was for, a free value says. -/
def snapTarget (l : List SnapEntry) (w : Nat) : Option Nat :=
  l[w % l.length]?.map fun e => e.dst + 64 * (w / l.length % (e.len / 64))

/-- A request not completed within 1 ms fails (R400). One that is no access of a cell or of another module is the streaming
snapshot's (R237). -/
def execTier3Timeout (id : Nat) (s : State) : Host.Outcome State Fault Refusal :=
  match s.t3.find? fun r => decide (r.id = id) with
  | some r =>
    let s := s.inc R.hostT3Timeouts 1
    let who := (s.movers.find? fun m => decide (m.id = r.op)).elim {} s.moverInfo
    let s := s.raise 0x0803 pgHOST { who with detail := boolNat r.write, addr := some r.off }
    let s := if r.write then s.droppedT3 r else s
    done (s.endT3 r [] (!r.write) false)
  | none =>
    if s.streaming then
      let (w, s) := s.drawWord
      let s := (s.inc R.hostT3Timeouts 1).raise 0x0803 pgHOST { detail := 1, addr := snapTarget s.mem.snap w.toNat }
      done ((s.cause vCOMMAND).snapFail 5)
    else done s

/-! ## DMA errors (R415) -/

/-- A channel stops with a cause at a descriptor. -/
def State.dmaError (s : State) (ch cause index : Nat) : State :=
  let s := { s with host := { s.host with dma := s.host.dma.set ch [] } }
  let s := ((s.set (R.hostDmaStatusState.at_ ch) 2).set (R.hostDmaStatusCause.at_ ch) cause).set
    (R.hostDmaStatusIndex.at_ ch) index
  s.raise 0x0805 pgHOST { detail := ch + cause * 16 + index * 2 ^ 16 }

/-! ## The link (R397, R398) -/

/-- The link goes down: requests in flight end, the snapshot fails, enabled channels stop, tracking is cleared. -/
def State.cxlDown (s : State) : State :=
  let s := (s.set R.hostLinkRate 0).set R.hostLinkWidth 0
  let s := (s.inc R.hostLinkDowns 1).raise 0x0801 pgHOST
  let s := s.t3.foldl (fun s r => (if r.write then s.droppedT3 r else s).endT3 r [] (!r.write) false) s
  let s := if s.streaming then s.snapFail 5 else s
  let s := [0, 1, 2, 3].foldl (fun (s : State) ch =>
    let moving := s.get (R.hostDmaCtrlEn.at_ ch) == 1 || !(s.host.dma.getD ch []).isEmpty
    if moving ∧ s.get (R.hostDmaStatusState.at_ ch) ≠ 2 then
      s.dmaError ch 3 (s.get (R.hostDmaHead.at_ ch))
    else s) s
  ({ s with host := { s.host with snoop := [], biWait := [] } }).retryWaiting

def execCxlLinkDown (s : State) : Host.Outcome State Fault Refusal :=
  if s.start.powered && s.get R.hostLinkRate != 0 then done s.cxlDown else done s

/-- The link, which trains from the end of start-up step 1 (R444), is up at a rate and width (R395), as CXL or as PCIe only (R397):
records that waited leave in the order in which they were raised (R412), then the record of CXL LINK UP, then messages that waited. -/
def execCxlLinkUp (rate width : Nat) (cxl : Bool) (s : State) : Host.Outcome State Fault Refusal :=
  if !s.start.powered ∨ (s.get R.mgmtStartState = 0 ∧ s.get R.mgmtStartStep ≤ 1) ∨ s.get R.hostLinkRate ≠ 0 ∨ rate < 1 ∨ 3 < rate ∨ (width ≠ 8 ∧ width ≠ 16) then done s
  else
    let s := ((s.set R.hostLinkRate rate).set R.hostLinkWidth width).set R.hostLinkCxl (boolNat cxl)
    let s := (s.drainHost.raise 0x0802 pgHOST { detail := rate + width * 4 }).flush
    done s.payOwed

end Sys2Proof.Machine
end

