-- ==== Sys2Proof/Machine/MemEvents.lean ====
section
/-! DEFINITION. What happens in the memory tiers of itself (R215, R217, R220 to R223, R306, R309), the interleave-key locks (R214),
and snapshots (R234 to R237, R321). -/

namespace Sys2Proof.Machine

open Sys2Proof

/-! ## Resync, settlement, fill -/

/-- A page of a range: its committed copy copied into its pending copy (R306). -/
def State.resyncPage (s : State) (page : Nat) : State :=
  let s := s.setMem { s.mem with resync := s.mem.resync.erase page }
  match s.rangeOf (page * 4096) with
  | some r => s.copyPage r page
  | none => s

/-- A marked page has been copied from the committed copy into the pending one (R306). -/
def execResyncPageDone (page : Nat) (s : State) : Host.Outcome State Fault Refusal :=
  if !(s.mem.resync.contains page) then done s
  else
    done (s.resyncPage page).retryWaiting

/-- A page of an old range has been settled into copy 0 (R309). -/
def execPageSettlementDone (page : Nat) (s : State) : Host.Outcome State Fault Refusal :=
  if !(s.mem.settle.contains page) then done s
  else done ((s.setMem { s.mem with settle := s.mem.settle.erase page }).retryWaiting)

/-- The zero fill of a tier ends (R215). -/
def execRekeyFillDone (tier2 : Bool) (s : State) : Host.Outcome State Fault Refusal :=
  let busy := if tier2 then s.mem.rekey2 else s.mem.rekey1
  if !busy then done s
  else
    let s := s.setMem (if tier2 then { s.mem with rekey2 := false } else { s.mem with rekey1 := false })
    done s.retryWaiting

/-! ## Patrol scrub (R220 to R222) -/

/-- Scrub reads a line, in which the logic dies find `found` symbols in error or those found before: corrections are counted, a
failing line takes the poison mark, a newer write stands. Six or more symbols in error may go undetected or be miscorrected (R219):
which, and the bytes, are free values. -/
def State.scrub (s : State) (line found : Nat) (newer : Bool) : State :=
  let off := 64 * line
  let errs := if found = 0 then AMap.get s.mem.errs line 0 else found
  let s := s.lockKey off
  let k := (s.interleave off).1
  let mark := fun (s : State) =>
    if newer || s.mem.poison.contains line || s.stackDown k then s
    else s.setMem { s.mem with poison := s.mem.poison ++ [line] }
  if s.stackDown k ∨ s.mem.poison.contains line then s.uncorrectable (Requester.plain .scrub) off off
  else if errs = 0 then s
  else if errs ≤ 3 then s.corrected off
  else if errs ≤ 5 then mark (s.uncorrectable (Requester.plain .scrub) off off)
  else
    let (seen, s) := s.drawBool
    if seen then mark (s.uncorrectable (Requester.plain .scrub) off off)
    else
      let (kept, s) := s.drawBool
      if newer then s
      else if kept then s.setMem { s.mem with errs := AMap.put s.mem.errs line errs }
      else
        let (b, s) := s.drawBytes 64
        s.setMem { s.mem with bytes := Memory.writeN s.mem.bytes off b, errs := AMap.del s.mem.errs line }

def execPatrolScrub (line symErrs : Nat) (newerWrite lastOfPass : Bool) (s : State) : Host.Outcome State Fault Refusal :=
  if !s.dataOn ∨ OFFEND ≤ 64 * line ∨ tierOf (64 * line) = 3 then done s
  else
    let s := s.scrub line symErrs newerWrite
    let k := (s.interleave (64 * line)).1
    let s := if lastOfPass then
        (s.inc (R.stackScrubPasses k) 1).setMem { s.mem with
          rows := s.mem.rows.filter fun r => decide (r.1 / 2 ^ 40 / 32 ≠ k) }
      else s
    done s

/-! ## Channel occupancy (R217) -/

/-- One tier's channels, from channel `lo` of `n` of them: ratio above 4 with a mean of at least 1/64 in ten windows together raises
HOT CHANNEL; it is raised again only after ten windows at 4 or below. -/
def State.hotTier (s : State) (tier lo n : Nat) (occ : List Nat) : State :=
  let l := (occ.drop lo).take n
  let sum := l.sum
  let top := l.foldl max 0
  let hot := decide (4 * sum < top * n)
  let busy := decide (65536 * n ≤ 64 * sum)
  let up := if hot && busy then s.mem.hotUp.getD tier 0 + 1 else 0
  let down := if hot then 0 else s.mem.hotDown.getD tier 0 + 1
  let armed := decide (10 ≤ s.mem.hotDown.getD tier 0)
  if up = 10 ∧ armed then
    let c := lo + (l.findIdx? (· == top)).getD 0
    let ratio := min (top * n * 128 / sum) 65535
    let s := s.setMem { s.mem with hotUp := s.mem.hotUp.set tier up, hotDown := s.mem.hotDown.set tier 0 }
    let s := (s.set R.memHotLastStack (c / 32)).set R.memHotLastChannel (c % 32)
    let s := (s.set R.memHotLastValid 1).set R.memHotLastRatio ratio
    s.raise 0x0301 pgMEM { detail := (s.word R.memHotLastStack.addr).toNat }
  else
    let up := if 10 ≤ up ∧ armed then 10 else up
    let down := if armed ∧ up < 10 then 10 else if 10 ≤ down then 10 else down
    s.setMem { s.mem with hotUp := s.mem.hotUp.set tier up, hotDown := s.mem.hotDown.set tier down }

/-- Occupancies of the 768 channels, in units of 1/65,536: Tier 1 first, 32 to a stack. Transfers that the far links replayed in the
window without losing a lane are counted (R223, R240). -/
def execChannelOccupancyWindow (w : ChannelWindow) (s : State) : Host.Outcome State Fault Refusal :=
  if !s.dataOn then done s
  else
    let s := (List.range 768).foldl (fun s i =>
      s.set ((R.stackOcc (i / 32)).at_ (i % 32)) (min (w.occ.getD i 0) 65535)) s
    let s := (List.range 16).foldl (fun (s : State) i =>
      if s.get (R.stackLinkLanes (8 + i)) = 0 then s else s.inc (R.stackLinkReplays (8 + i)) (w.replays.getD i 0)) s
    done ((s.hotTier 0 0 256 w.occ).hotTier 1 256 512 w.occ)

/-! ## Far links (R223) -/

/-- A lane fails persistently, after transfers were replayed: the link runs on with four lanes, or is down. -/
def execFarLinkLaneFail (stack : FarId) (loss : FarLoss) (s : State) : Host.Outcome State Fault Refusal :=
  let k := 8 + stack.val
  let lanes := s.get (R.stackLinkLanes k)
  if !s.dataOn ∨ lanes = 0 then done s
  else
    let s := s.inc (R.stackLinkReplays k) loss.replays
    if loss.fourRun then
      if lanes = 4 then done s
      else done ((s.set (R.stackLinkLanes k) 4).raise 0x0307 (pgSTACK k) { detail := 4 })
    else done ((s.set (R.stackLinkLanes k) 0).raise 0x0308 (pgSTACK k))

/-! ## Locks and records (R214, R239) -/

/-- IL_CTRL: bit 0 locks the Tier 1 key, bit 1 the Tier 2 key. -/
def State.writeIlCtrl (s : State) (v : Nat) : State :=
  let s := if bitAt v 0 then s.set R.memIlStatusLocked1 1 else s
  if bitAt v 1 then s.set R.memIlStatusLocked2 1 else s

def execIlLock1 (path : Path) (s : State) : Host.Outcome State Fault Refusal :=
  s.writeAt path R.memIlCtrlLock1 fun s => s.writeIlCtrl 1

def execIlLock2 (path : Path) (s : State) : Host.Outcome State Fault Refusal :=
  s.writeAt path R.memIlCtrlLock2 fun s => s.writeIlCtrl 2

def execUncClear (path : Path) (s : State) : Host.Outcome State Fault Refusal :=
  s.writeAt path R.memUncClear fun s => s.set R.memUncFirstValid 0

/-! ## Snapshots (R234 to R237, R321) -/

/-- The bytes of the list (R234): read by lines like any access of the module's own. -/
def State.touchList (s : State) : State := s.visit (s.get2 R.memSnapListLo R.memSnapListHi) (32 * s.get R.memSnapCount)

/-- The list that software placed (R234). -/
def State.snapList (s : State) : List SnapEntry :=
  let base := s.get2 R.memSnapListLo R.memSnapListHi
  (List.range (s.get R.memSnapCount)).map fun i =>
    let b := s.peek (base + 32 * i) 32
    ⟨u64Of b 0, u64Of b 8, u64Of b 16⟩

/-- Two entries whose places meet. -/
def anyPair {α : Type} (f : α → α → Bool) : List α → Bool
  | [] => false
  | x :: l => l.any (f x) || anyPair f l

/-- The first failing cause at arming (R235); 0 when none. A source inside a compressed region cannot be listed (R237). -/
def State.snapCause (s : State) (onCommit : Bool) : Nat :=
  let l := s.snapList
  let n := s.get R.memSnapCount
  let malformed := fun (e : SnapEntry) =>
    decide (e.src % 4096 ≠ 0 ∨ e.len % 4096 ≠ 0 ∨ e.len = 0 ∨ e.dst % 64 ≠ 0) ||
      s.mem.regions.any fun r => overlaps e.src e.len r.base r.size
  let far := fun (e : SnapEntry) =>
    !(tierOf e.src == 1 || tierOf e.src == 2) || tierOf (e.src + e.len - 1) != tierOf e.src || s.inAlt e.src e.len ||
      tierOf e.dst != 3 || decide (s.t3Bytes < e.dst - TIER3 + e.len)
  if !onCommit ∧ s.get2 R.memSnapCueLo R.memSnapCueHi < s.cueNow + 2 then 1
  else if n = 0 ∨ !inTiers12 (s.get2 R.memSnapListLo R.memSnapListHi) (32 * n) ∨ l.any malformed then 2
  else if anyPair (fun a b => overlaps a.src a.len b.src b.len) l ∨ anyPair (fun a b => overlaps a.dst a.len b.dst b.len) l then 3
  else if l.any far then 4
  else 0

/-- Arming (R235): refused while a snapshot streams; a list that fails is not taken. -/
def State.armSnapshot (s : State) (path : Path) : State :=
  if s.streaming then s.refuseAccess path R.memSnapCtrlArm.addr
  else
    let oc := s.flagReg R.commitCkptCtrlOnCommit
    let s := s.touchList
    let c := s.snapCause oc
    if c ≠ 0 then s.snapFail c
    else
      let s := (s.set R.memSnapStatusState 1).set R.memSnapStatusCause 0
      s.setMem { s.mem with snap := s.snapList, onCommit := oc, snapAt := none }

/-- An armed or streaming snapshot ends. -/
def State.abortSnapshot (s : State) : State :=
  let st := s.get R.memSnapStatusState
  if st = 1 ∨ st = 2 then
    (s.set R.memSnapStatusState 5).setMem { s.mem with snapAt := none, onCommit := false }
  else s

def execSnapArm (path : Path) (s : State) : Host.Outcome State Fault Refusal :=
  s.writeAt path R.memSnapCtrlArm fun s => s.armSnapshot path

def execSnapAbort (path : Path) (s : State) : Host.Outcome State Fault Refusal :=
  s.writeAt path R.memSnapCtrlAbort State.abortSnapshot

/-- The pieces of a source that lie together: cut where a versioned range begins or ends; (offset in the source, bytes, place). -/
def State.snapPieces (s : State) (src len : Nat) : List (Nat × Nat × Nat) :=
  let inner := (s.mem.ranges.flatMap fun r => [r.base, r.base + r.len]).filter fun x => decide (src < x ∧ x < src + len)
  let cuts := inner.foldr (fun x l => if l.contains x then l else insertNat x l) [src, src + len]
  (cuts.zip (cuts.drop 1)).map fun c => (c.1 - src, c.2 - c.1, s.place false c.1)

/-- One entry copied as it stands (R221, R235, R236, R321): its listed bytes, its poisoned lines. `first` is the index of its first
line among all lines of the snapshot. Its bytes count at once (R239). -/
def State.snapEntry (ecc : EccErrs) (x : Nat × State) (e : SnapEntry) : Nat × State :=
  let (first, s) := x
  let at_ := fun (i : Nat) => s.place false (e.src + 64 * i)
  let pieces := s.snapPieces e.src e.len
  let n := e.len / 64
  let anyDown := (List.range 16).any fun k => s.stackDown (8 + k)
  let down := if anyDown then (List.range n).filter fun i => s.stackDown (s.interleave (at_ i)).1 else []
  let marked := pieces.flatMap fun p =>
    (s.mem.poison.filter fun l => decide (p.2.2 / 64 ≤ l ∧ l < (p.2.2 + p.2.1) / 64)).map fun l => l - p.2.2 / 64 + p.1 / 64
  let s := s.meetErrs e.src (ecc.filterMap fun y => if first ≤ y.1 ∧ y.1 < first + n then some (y.1 - first, y.2) else none)
  let errs := pieces.flatMap fun p =>
    (s.mem.errs.filter fun l => decide (p.2.2 / 64 ≤ l.1 ∧ l.1 < (p.2.2 + p.2.1) / 64)).map fun l => (l.1 - p.2.2 / 64 + p.1 / 64, l.2)
  let fixed := errs.filter fun y => decide (1 ≤ y.2 ∧ y.2 ≤ 3)
  let bad := (errs.filter fun y => decide (4 ≤ y.2 ∧ y.2 ≤ 5)).map (·.1)
  let s := fixed.foldl (fun s y => s.corrected (at_ y.1)) s
  let (maybe, wrong, s) := (errs.filter fun y => decide (6 ≤ y.2)).foldl (fun (z : List Nat × List Nat × State) y =>
    let (seen, s) := z.2.2.drawBool
    let (kept, s) := s.drawBool
    (if seen then z.1 ++ [y.1] else z.1, if seen || kept then z.2.1 else z.2.1 ++ [y.1], s)) ([], [], s)
  let po := (down ++ marked ++ bad ++ maybe).eraseDups
  let s := po.foldl (fun s i => (s.uncorrectable (Requester.plain .snapshot) (e.src + 64 * i) (at_ i)).inc R.memSnapPoison 1) s
  let data := pieces.flatMap fun p =>
    (s.mem.bytes.filter fun c => decide (p.2.2 ≤ c.1 ∧ c.1 < p.2.2 + p.2.1)).map fun c => (c.1 - p.2.2 + p.1, c.2)
  let (data, s) := wrong.foldl (fun (z : List (Nat × Byte) × State) i =>
    let (b, s) := z.2.drawBytes 64
    ((z.1.filter fun c => decide (c.1 / 64 ≠ i)) ++ b.zipIdx.map fun y => (64 * i + y.2, y.1), s)) (data, s)
  let s := s.set2 R.memSnapBytesLo R.memSnapBytesHi (s.get2 R.memSnapBytesLo R.memSnapBytesHi + e.len)
  (first + n, s.emit (.snapCopy (s.t3Host e.dst) data e.len po))

/-- The start instant: the start cue's boundary after step 5 of R52, or 64 µs after a commit (R235, R321). -/
def State.snapDue (s : State) : Bool :=
  s.get R.memSnapStatusState == 1 &&
    (if s.mem.onCommit then (match s.mem.snapAt with
      | some t => decide (t ≤ s.time)
      | none => false)
     else decide (s.get2 R.memSnapCueLo R.memSnapCueHi ≤ s.cueNow))

def execSnapshotStart (ecc : EccErrs) (s : State) : Host.Outcome State Fault Refusal :=
  if !s.dataOn ∨ !s.snapDue then done s
  else
    let s := (s.set R.memSnapStatusState 2).set2 R.memSnapBytesLo R.memSnapBytesHi 0
    let s := s.setMem { s.mem with snapFrom := s.mem.ranges }
    let s := s.mem.snap.foldl (fun s e => s.lockKey e.src) s
    if s.get R.hostLinkRate = 0 then done (s.snapFail 5)
    else
      let s := s.mem.snap.foldl (fun s e => s.backInvalidate e.src e.len) s
      done (s.mem.snap.foldl (State.snapEntry ecc) (0, s)).2

def execSnapshotDone (s : State) : Host.Outcome State Fault Refusal :=
  if !s.streaming then done s
  else
    done ((s.set R.memSnapStatusState 3).raise 0x0309 pgMEM { detail := 3 })

end Sys2Proof.Machine
end

