-- ==== Sys2Proof/Machine/Scale.lean ====
section
/-! DEFINITION. The scale unit (R185 to R203): step records, the commit and skip outcomes of every slot, scale words, write-back,
and reading the scale and recipe tables. -/

namespace Sys2Proof.Machine

open Sys2Proof

/-! ## Records and outcomes -/

def SlotRec.join (a b : SlotRec) : SlotRec :=
  { amax := if a.amax.magLe b.amax then b.amax else a.amax, seen := a.seen || b.seen, inf := a.inf || b.inf,
    nan := a.nan || b.nan, ovf := a.ovf || b.ovf }

/-- The step records: the maximum of the cells' amax values and the OR of their flags (R192). -/
def State.stepRecords (s : State) : AMap SlotRec :=
  s.cells.foldl (fun m c => c.2.records.foldl (fun m r =>
    AMap.put m r.1 ((AMap.get m r.1 SlotRec.empty).join r.2)) m) []

/-- The cell records are cleared at the outcome boundary (R192). -/
def State.clearRecords (s : State) : State :=
  { s with cells := s.cells.map fun c => (c.1, { c.2 with records := [] }),
           scale := { s.scale with step := [], preparing := false, ready := false } }

def Recipe.traffic (r : Recipe) : Bool := decide (r.kind ≤ 2)

/-- h and f of a recipe, with the defaults (R200) as the preparation took them (R193). -/
def ScaleSt.hOf (x : ScaleSt) (r : Recipe) : Nat := if r.headroom = 15 then x.headroom else r.headroom
def ScaleSt.fOf (x : ScaleSt) (r : Recipe) : Nat := if r.backoff = 15 then x.backoff else r.backoff

def clampExp (e : Int) : Int := max (-126) (min 127 e)

/-- The base exponent of a full ring (R194): floor(log2(L / (est × 2^h))), exact; INIT_EXP where est is 0. A ring that holds an
infinity or NaN has no stated estimate: a free value in range, of the ring, h and the format alone (R36). -/
def estimate (r : Recipe) (h : Nat) (ring : List Word) : Int :=
  let vals := ring.map f32
  let free : Int := (Config.ringExp ring h r.fmt % 254 : Nat) - 126
  if vals.any fun v => !v.isFin then free
  else
    match vals.foldl (fun m v => if m.magLe v then v.abs else m) Num.zero, (fmtType r.fmt).map Fmt.maxFinite with
    | .fin _ n d, some (.fin _ ln ld) => if n = 0 then r.initExp else floorLog2 (ln * d) (n * ld * 2 ^ h)
    | _, _ => free

/-- An exact amax as it is kept: one that rounds beyond F32 is the largest finite value, since no ring takes an infinity (R195, log 98). -/
def amaxWord (x : Num) : Word :=
  let r := toF32 x
  if r.2 then BitVec.ofNat 32 Fmt.F32.maxCode else r.1

/-- The fields of the last step's record (R201). -/
def Slot.last (x : Slot) (r : SlotRec) : Slot :=
  { x with lastAmax := if r.seen then amaxWord r.amax else 0, lastSeen := r.seen, lastOvf := r.ovf, lastInf := r.inf,
           lastNan := r.nan }

/-- The commit outcome of a slot (R195). A state slot never moves (R198): no ceiling acts on it. -/
def Slot.commit (x : Slot) (r : Recipe) (h : Nat) (sr : SlotRec) : Slot :=
  let x := if sr.seen then
      { x with ring := x.ring.set x.head (amaxWord sr.amax), head := (x.head + 1) % 16, fill := min (x.fill + 1) 16 }
    else x
  let left := x.ceilLeft - 1
  let base := if r.traffic && x.fill == 16 then estimate r h x.ring else r.initExp
  { x with ceilLeft := left, scaleExp := clampExp (if left = 0 || !r.traffic then base else min base x.ceilExp) }

/-- The skip outcome of a tensor-scaled traffic slot that overflowed (R197). -/
def Slot.lower (x : Slot) (f : Nat) : Slot :=
  let c := max (-126) (x.scaleExp - f)
  { x with scaleExp := c, ceilExp := c, ceilLeft := 16, lowerings := min (x.lowerings + 1) 65535 }

/-- One slot's part of a skip: the slot, and the event it raises. -/
def State.slotSkip (s : State) (x : Slot) (sr : SlotRec) : Slot × Option Nat :=
  match s.scale.recipes[x.recipe]? with
  | none => (x, none)
  | some r =>
    if !sr.ovf then (x, none)
    else if !r.traffic then (x, some 0x0612)
    else if fmtTensorScaled r.fmt then
      let f := s.scale.fOf r
      (x.lower f, some (if x.scaleExp - (f : Int) < -126 then 0x0611 else 0x0610))
    else (x, none)

/-- Apply the outcome of every VALID slot at once (R193, R195, R197), with the events and counts of a skip. -/
def State.scaleOutcome (s : State) (commit : Bool) : State :=
  let step := s.scale.step
  let each : Slot × Nat → Slot × Option Nat × Nat := fun y =>
    let sr := AMap.get step y.2 SlotRec.empty
    if !y.1.valid then (y.1, none, y.2)
    else
      let x := y.1.last sr
      if commit then
        match s.scale.recipes[x.recipe]? with
        | some r => (x.commit r (s.scale.hOf r) sr, none, y.2)
        | none => (x, none, y.2)
      else
        let z := s.slotSkip x sr
        (z.1, z.2, y.2)
  let l : List (Slot × Option Nat × Nat) := s.scale.slots.zipIdx.map each
  let s := { s with scale := { s.scale with slots := l.map Prod.fst, wb := true } }
  if commit then s.set R.scaleSkipRun 0
  else
    let s := l.foldl (fun s y => match y.2.1 with
      | some e => s.raise e pgSCALE { detail := y.2.2 }
      | none => s) s
    let low := (l.filter fun y => y.2.1 == some 0x0610 || y.2.1 == some 0x0611).map (·.2.2)
    let s := (s.inc R.scaleLowered low.length).set R.scaleLastLowered (low.foldl max 0)
    let s := if low.isEmpty then s.set R.scaleLastLowered 0xFFF else s
    let s : State := if bitAt (s.get R.commitVerdictOr) vOVERFLOW then
        let n : Nat := min (s.get R.scaleSkipRun + 1) 65535
        let s : State := s.set R.scaleSkipRun n
        if s.get R.scaleSkipLimit ≠ 0 ∧ n = s.get R.scaleSkipLimit then s.raise 0x0614 pgSCALE { detail := n } else s
      else s
    if bitAt (s.get R.commitVerdictOwn) vOVERFLOW && low.isEmpty then s.raise 0x0613 pgSCALE else s

/-! ## Preparation and write-back (R193, R202) -/

/-- A Curtain act starts: both outcomes of every slot are fixed by the records and the defaults as they stand. -/
def State.startPreparation (s : State) : State :=
  { s with scale := { s.scale with
      step := s.stepRecords, headroom := s.get R.scaleDefaultsHeadroom, backoff := s.get R.scaleDefaultsBackoff, preparing := true,
      ready := false } }

def execScalePreparationDone (s : State) : Host.Outcome State Fault Refusal :=
  if !s.scale.preparing then done s
  else
    let s := { s with scale := { s.scale with preparing := false, ready := true } }
    done (s.set R.scalePrepNs ((1000 + 8 * s.get R.scaleSlots) / 4))

/-- A scale-table entry as it stands in memory (R201). -/
def Slot.bytes (x : Slot) : List Byte :=
  let e := fun (v : Int) => unsignedOf 9 v
  wordsLe ([x.recipe + boolNat x.valid * 2 ^ 8 + x.fill * 2 ^ 16 + x.head * 2 ^ 21,
    e x.scaleExp + e x.ceilExp * 2 ^ 16 + x.ceilLeft * 2 ^ 25, x.lastAmax.toNat,
    boolNat x.lastSeen + boolNat x.lastOvf * 2 + boolNat x.lastInf * 4 + boolNat x.lastNan * 8 + x.lowerings * 2 ^ 16] ++
    List.replicate 12 0 ++ x.ring.map BitVec.toNat)

def State.scaleBase (s : State) : Nat := s.get2 R.scaleTableBaseLo R.scaleTableBaseHi

/-- Every VALID entry is written back. -/
def execScaleWritebackDone (s : State) : Host.Outcome State Fault Refusal :=
  if !s.scale.wb then done s
  else
    let base := s.scaleBase
    let s := s.scale.slots.zipIdx.foldl (fun s x =>
      if x.1.valid then s.tierWrite (base + 128 * x.2) x.1.bytes [] else s) s
    let s := { s with scale := { s.scale with wb := false } }
    done (s.set R.scaleStatusWbSeq ((s.get R.scaleStatusWbSeq + 1) % 2 ^ 32))

/-! ## Scale words (R188) -/

/-- 2^SCALE_EXP as F32. -/
def scaleWord (e : Int) : Word := (toF32 ((Num.ofNat 1).scale e)).1

/-- Before act cycle 0: the scale words of the act's tensor descriptors, for slots in use in cores of the act's rows. -/
def State.writeScaleWords (s : State) (a : ActiveAct) : State :=
  match s.prog a.desc.program with
  | none => s
  | some p =>
    (Config.scaleWords p.image a.desc.act).foldl (fun s w =>
      match s.scale.slots[w.1]? with
      | some x =>
        if x.valid ∧ w.1 < s.get R.scaleSlots ∧ w.2.1 < 4096 ∧ bitAt a.desc.rows (w.2.1 / 256) ∧ w.2.2 % 4 = 0 ∧
            w.2.2 + 4 ≤ LSBYTES then
          s.lsWrite (w.2.1 / 32) (w.2.1 % 32) w.2.2 (natLe 4 (scaleWord x.scaleExp).toNat)
        else s
      | none => s) s

/-! ## Reading the tables (R200, R201, R203, R497) -/

/-- An entry of the recipe table. -/
def recipeOf (b : List Byte) : Recipe :=
  let w0 := u32Of b 0
  let w1 := u32Of b 4
  { kind := bitsOf w0 0 4, fmt := BitVec.ofNat 8 (bitsOf w0 8 8), initExp := signedOf 9 (bitsOf w0 16 9),
    headroom := bitsOf w1 0 4, backoff := bitsOf w1 4 4 }

def Recipe.ok (r : Recipe) : Bool :=
  decide (r.kind ≤ 6) && fmtValid r.fmt && decide (-126 ≤ r.initExp ∧ r.initExp ≤ 127) && r.backoff != 0

/-- An entry of the scale table. -/
def slotOf (b : List Byte) : Slot :=
  let w0 := u32Of b 0
  let w1 := u32Of b 4
  let w3 := u32Of b 12
  { recipe := bitsOf w0 0 8, valid := bitAt w0 8, fill := bitsOf w0 16 5, head := bitsOf w0 21 4,
    scaleExp := signedOf 9 (bitsOf w1 0 9), ceilExp := signedOf 9 (bitsOf w1 16 9), ceilLeft := bitsOf w1 25 5,
    lastAmax := BitVec.ofNat 32 (u32Of b 8), lastSeen := bitAt w3 0, lastOvf := bitAt w3 1, lastInf := bitAt w3 2,
    lastNan := bitAt w3 3, lowerings := bitsOf w3 16 16,
    ring := (List.range 16).map fun i => BitVec.ofNat 32 (u32Of b (64 + 4 * i)) }

def Slot.ok (recipes : Nat) (x : Slot) : Bool :=
  !x.valid || (decide (x.recipe < recipes ∧ x.fill ≤ 16 ∧ x.ceilLeft ≤ 16 ∧ -126 ≤ x.scaleExp ∧ x.scaleExp ≤ 127) &&
    decide (-126 ≤ x.ceilExp ∧ x.ceilExp ≤ 127))

/-- What a table check gives: the first failing entry, or the table. -/
inductive Checked (α : Type) where
  | bad (index : Nat)
  | good (a : α)
  deriving Repr

/-- The first entry of a table that does not lie wholly in Tiers 1 and 2 (R497). -/
def outside (base size n : Nat) : Option Nat :=
  if n = 0 ∨ inTiers12 base (size * n) then none else some (if TIER3 ≤ base then 0 else (TIER3 - base) / size)

/-- The entries of a table. -/
def State.entries (s : State) (base size n : Nat) : List (List Byte) :=
  (List.range n).map fun i => s.peek (base + size * i) size

/-- The tables as read at the check boundary: recipes first (log 21), the index with bit 12 for a recipe. A bad format byte comes
with its event (R81). -/
def State.readScaleTables (s : State) (tbase ns rbase nr : Nat) : Checked (List Slot × List Recipe) × Option Byte :=
  match outside rbase 16 nr with
  | some i => (.bad (i + 4096), none)
  | none =>
    match outside tbase 128 ns with
    | some i => (.bad i, none)
    | none =>
      let rs := (s.entries rbase 16 nr).map recipeOf
      match rs.findIdx? fun r => !r.ok with
      | some i =>
        let f := (rs[i]?).map (·.fmt)
        (.bad (i + 4096), f.filter fun b => !fmtValid b)
      | none =>
        let xs := (s.entries tbase 128 ns).map slotOf
        match xs.findIdx? fun x => !x.ok nr with
        | some i => (.bad i, none)
        | none => (.good (xs, rs), none)

/-- What a reload makes of the entries it took (R203). -/
def enterSlot (recipes : List Recipe) (x : Slot) : Slot :=
  match x.valid, recipes[x.recipe]? with
  | true, some r =>
    if !r.traffic then { x with scaleExp := r.initExp }
    else if x.fill = 0 then { x with scaleExp := if x.ceilLeft = 0 then r.initExp else min r.initExp x.ceilExp }
    else x
  | _, _ => x

end Sys2Proof.Machine
end

