-- ==== Sys2Proof/Machine/Curtain.lean ====
section
/-! DEFINITION. The Curtain (R311 to R321): contribution, the verdict and confirm exchange, the decision, and what the outcome
boundary does on commit and on discard. -/

namespace Sys2Proof.Machine

open Sys2Proof

/-- A Curtain act has started and its outcome boundary has not come: an outcome is pending. -/
def State.outcomePending (s : State) : Bool := match s.job with
  | some j => j.outcomeAt.isSome
  | none => false

/-- The exchange of a Curtain act that starts: nothing combined yet (R313). -/
def CommitSt.begin (c : CommitSt) : CommitSt :=
  { c with contributed := false, andF := BitVec.allOnes 32, orF := 0, peerDirs := [], seenDirs := [], confDirs := [],
           confAll := true, confAny := false, decided := none, outcome := none }

/-- This module's verdict word (R311). -/
def State.verdictWord (s : State) : Word :=
  let time := if s.get R.cueAlignStatusState = 3 then 2 ^ vTIME else 0
  let c := (s.commit.causes.toNat ||| time) / 2 % 2 ^ 10
  BitVec.ofNat 32 (boolNat (c == 0) + c * 2 + s.stepCount % 2 ^ 16 * 2 ^ 16)

/-- A control word goes on to the other torus ports (R45, R313). -/
def State.relayTorus (s : State) (p : Nat) (w : CtlWord) : State :=
  let l := cwWords w
  let hops := bitsOf (l.getD 0 0) 8 8
  let fwd := cwSeal ((l.take 7).set 0 (l.getD 0 0 - hops * 2 ^ 8 + (hops + 1) % 256 * 2 ^ 8))
  (s.torusPorts.filter fun q => decide (q ≠ p)).foldl (fun s q => s.sendCtl q 1 fwd) s

/-- The directions that have trained ports. -/
def State.trainedDirs (s : State) : List Nat := (List.range 6).filter fun d => !(s.portsOf d).isEmpty

/-- The torus directions whose peer sent this word: that of the port it came on when no module relayed it (HOPS 0), and every one whose
trained port knows its peer by the chip the word names (a word that comes by another port or relay, R319). -/
def State.sendersOf (s : State) (p : Nat) (w : CtlWord) : List Nat :=
  let named : Bool := bitAt w.w0.toNat 30
  (List.range 6).filter fun d =>
    (bitsOf w.w0.toNat 8 8 == 0 && s.allot p == d) ||
    (named && (s.portsOf d).any fun q => s.flagReg (R.portPeerChipValid q) && s.get (R.portPeerChip q) == bitsOf w.w0.toNat 16 14)

/-- `dirs` with the directions of `new` that it lacks. -/
def withDirs (dirs new : List Nat) : List Nat := dirs ++ new.filter fun d => !dirs.contains d

/-- D (R313, R314). -/
def State.decide_ (s : State) : State :=
  let c := s.commit
  let differ : Bool := c.andF >>> 16 != c.orF >>> 16
  let orF : Word := if differ then c.orF ||| 1 <<< vDISAGREE else c.orF
  let ok := bitAt c.andF.toNat 0 && bitsOf orF.toNat 1 10 == 0 && !differ
  let s := (s.set R.commitVerdictAnd c.andF.toNat).set R.commitVerdictOr orF.toNat
  let s := { s with commit := { c with orF := orF, decided := some ok, confAll := c.confAll && ok, confAny := c.confAny || ok } }
  s.sendVerdict 3 (boolNat ok) (boolNat ok)

/-- D2 (R313). -/
def State.finalDecision (s : State) (ok : Bool) : State :=
  let c := s.commit
  let commit := ok && c.confAll && c.peerDirs.all c.confDirs.contains
  let s := s.set R.commitOutcomeConfirmAnd (boolNat c.confAll)
  let s := s.set R.commitDecideNs ((2000 + if c.peerDirs.isEmpty then 0 else 2 * (1000 + s.get R.cueFloodNs)) % 2 ^ 24)
  let s := { s with commit := { c with outcome := some commit } }
  if ok && !commit then s.raise 0x0603 pgCOMMIT { detail := 1 } else s

/-- A torus port retrains. -/
def State.torusRetrains (s : State) : Bool := portList.any fun p => s.get (R.portStateState p) == 3 && decide (s.allot p < 6)

/-- C: the verdict word is frozen and sent; a torus port that retrains now sets LINK after it (R367). A machine of one decides from its own word at once. -/
def execCurtainContribute (s : State) : Host.Outcome State Fault Refusal :=
  if !s.dataOn ∨ !s.outcomePending ∨ s.commit.contributed then done s
  else
    let w := s.verdictWord
    let c := s.commit
    let s := s.set R.commitVerdictOwn w.toNat
    let s := { s with commit := { c with
      contributed := true, andF := c.andF &&& w, orF := c.orF ||| w, peerDirs := s.trainedDirs } }
    let s := s.sendVerdict 2 w.toNat w.toNat
    let s := if s.torusRetrains then s.lateLink else s
    if s.commit.peerDirs.isEmpty then
      let s := s.decide_
      done (match s.commit.decided with
        | some ok => s.finalDecision ok
        | none => s)
    else done s

/-- A Curtain word on a torus port: combined, and relayed when it tells something new. It counts as its sender's, also when it comes by
relay (R313, R319). -/
def execCurtainWordReceived (p : PortId) (w : CtlWord) (s : State) : Host.Outcome State Fault Refusal :=
  if !s.dataOn ∨ !s.portLive p then done s
  else if !cwCrcOk w then done (s.inc R.commitWordCrc 1)
  else if bitsOf w.w0.toNat 0 8 ≠ 2 then done (s.inc (R.portCwInvalid p) 1)
  else if 6 ≤ s.allot p ∨ !s.outcomePending ∨ s.commit.decided.isSome then done s
  else
    let c := s.commit
    let andF := c.andF &&& w.w3
    let orF := c.orF ||| w.w4
    let news := andF != c.andF || orF != c.orF
    let s := { s with commit := { c with andF := andF, orF := orF, seenDirs := withDirs c.seenDirs (s.sendersOf p w) } }
    done (if news then s.relayTorus p w else s)

/-- C + port delay + 1 µs. -/
def execCurtainMissingCheck (dir : Fin 6) (s : State) : Host.Outcome State Fault Refusal :=
  let c := s.commit
  if !s.dataOn ∨ !s.inExchange ∨ !s.outcomePending ∨ c.seenDirs.contains dir.val then done s
  else match s.portsOf dir with
    | [] => done s
    | p :: _ =>
      let orF := c.orF ||| 1 <<< vMISSING
      let s := { s with commit := { c with orF := orF } }
      let s := s.sendVerdict 2 c.andF.toNat orF.toNat
      let s := (s.set R.commitMissingLastPort p).set R.commitMissingLastValid 1
      done (s.raise 0x0602 pgCOMMIT { port := p })

/-- D. -/
def execCurtainDecide (s : State) : Host.Outcome State Fault Refusal :=
  if s.dataOn && s.outcomePending && s.inExchange then done s.decide_ else done s

/-- A confirm word on a torus port: bit [0] of its AND and OR fields combined, relayed when either tells something new, and counted as
its sender's (R313, R319). -/
def execConfirmWordReceived (p : PortId) (w : CtlWord) (s : State) : Host.Outcome State Fault Refusal :=
  if !s.dataOn ∨ !s.portLive p then done s
  else if !cwCrcOk w then done (s.inc R.commitWordCrc 1)
  else if bitsOf w.w0.toNat 0 8 ≠ 3 then done (s.inc (R.portCwInvalid p) 1)
  else if 6 ≤ s.allot p ∨ !s.outcomePending ∨ s.commit.outcome.isSome then done s
  else
    let c := s.commit
    let yes := bitAt w.w3.toNat 0
    let some_ := bitAt w.w4.toNat 0
    let s := { s with commit := { c with
      confDirs := withDirs c.confDirs (s.sendersOf p w), confAll := c.confAll && yes, confAny := c.confAny || some_ } }
    done (if c.confAll && !yes || !c.confAny && some_ then s.relayTorus p w else s)

/-- D2. -/
def execCurtainFinalDecision (s : State) : Host.Outcome State Fault Refusal :=
  if !s.dataOn ∨ !s.outcomePending then done s
  else match s.commit.decided, s.commit.outcome with
    | some ok, none => done (s.finalDecision ok)
    | _, _ => done s

/-! ## The outcome boundary (R315) -/

/-- The marked pages of the ranges wait for their resync, and writes that wait for something else wait for it too (R306). -/
def State.startResync (s : State) : State :=
  let s := s.setMem { s.mem with resync := s.mem.resync ++ s.mem.marks.filter (fun p => !s.mem.resync.contains p), marks := [] }
  s.setMem { s.mem with waiting := s.mem.waiting.map s.dateWait }

/-- The layouts on commit and on discard (R268). -/
def State.layoutOutcome (s : State) (commit : Bool) : State :=
  (List.range 16).foldl (fun s g =>
    if s.flagReg (R.collGLayoutPending.at_ g) then
      let s := if commit then s.set (R.collGLayoutCommitted.at_ g) (s.group g).pendingLayout else s
      (s.set (R.collGLayoutPending.at_ g) 0).setGroup g { s.group g with pendingLayout := 0 }
    else s) s

/-- The bytes of a commit record (R320). -/
def State.commitRecord (s : State) (b : Nat) : List Byte :=
  let layout := fun (g : Nat) => s.get (R.collGLayoutCommitted.at_ g)
  let w := wordsLe ([s.get R.commitStepLo, s.get R.commitStepHi, b % 2 ^ 32, b / 2 ^ 32 % 2 ^ 32] ++
    ((List.range 8).map fun i => layout (2 * i) + 2 ^ 16 * layout (2 * i + 1)) ++
    [(s.word R.collShapeX.addr).toNat, (s.get R.scaleStatusWbSeq + 1) % 2 ^ 32, 0])
  w ++ natLe 4 (crc32c w)

/-- The commit record goes to RECORD_BASE; in the Tier 3 window, to host memory (R207). -/
def State.writeCommitRecord (s : State) (b : Nat) : State :=
  let base := s.get2 R.commitRecordBaseLo R.commitRecordBaseHi
  s.tierWrite base (s.commitRecord b) []

/-- Pages still to be resynced have their copies made, and writes that waited for them land, before the versions flip. -/
def State.finishResync (s : State) : State :=
  if s.mem.resync.isEmpty then s else (s.mem.resync.foldl State.resyncPage s).retryWaiting

/-- Steps 1 to 6 of R315 at boundary `b`. -/
def State.outcomeSteps (s : State) (commit : Bool) (b : Nat) : State :=
  let s := s.finishResync
  let s := if commit then
      s.setMem { s.mem with ranges := s.mem.ranges.map fun r => { r with sel := !r.sel } } else s
  let s := ((s.scaleOutcome commit).clearRecords).layoutOutcome commit
  let s := if commit then (s.set2 R.commitStepLo R.commitStepHi ((s.stepCount + 1) % 2 ^ 64)).writeCommitRecord b else s
  let s := if commit then (s.inc R.commitCommits 1).set R.commitSkipRun 0
    else
      let s := s.raise 0x0601 pgCOMMIT
        { tag := s.word R.commitVerdictOwn.addr, tag2 := s.commit.andF, detail := s.commit.orF.toNat }
      (s.inc R.commitSkips 1).inc R.commitSkipRun 1
  let s := (s.set R.commitOutcomeLast (if commit then 1 else 2)).set2 R.commitOutcomeCueLo R.commitOutcomeCueHi b
  let s := s.startResync
  let s := { s with commit := { CommitSt.reset with causes := s.commit.next } }
  let s := s.setMem { s.mem with
    snapAt := if commit && s.mem.onCommit && s.get R.memSnapStatusState == 1 && s.mem.snapAt.isNone then some (s.time + 64000)
      else s.mem.snapAt }
  s

/-- The boundary `b` is the outcome boundary when the Curtain act's deadline has passed, the preceding flood carried no BUSY, and the
final decision is known. -/
def State.outcomeBoundary (s : State) (b : Nat) (held : Bool) : State :=
  match s.job with
  | none => s
  | some j =>
    match j.outcomeAt, s.commit.outcome with
    | some at_, some commit => if held ∨ b < at_ then s else s.outcomeSteps commit b
    | _, _ => s

end Sys2Proof.Machine
end

