-- ==== Sys2Proof/Machine/Fields.lean ====
section
/-! DEFINITION. The range that the register tables give each field software writes (R65, R405), and the one-shot and machine-wide
staged fields (R63, R64). -/

namespace Sys2Proof.Machine

open Sys2Proof

/-- `f` is field `b`, or entry of array `b`. -/
def Fld.isOf (b f : Fld) : Bool :=
  f.page == b.page && f.lo == b.lo && f.w == b.w && decide (b.off ≤ f.off) &&
    (if b.stride = 0 then f.off == b.off else (f.off - b.off) % b.stride == 0 && decide ((f.off - b.off) / b.stride < b.count))

def isAny (l : List Fld) (f : Fld) : Bool := l.any fun b => b.isOf f

/-- Fields with a least and a greatest value. -/
def fieldRanges : List (Fld × Nat × Nat) :=
  [(R.cuePeriodUs, 20, 50000), (R.cueHoldLimit, 1, 65535), (R.cmdTraceSize, 12, 40), (R.scaleRecipes, 0, 256),
   (R.scaleDefaultsHeadroom, 0, 14), (R.scaleDefaultsBackoff, 1, 14), (R.memT3Size, 0, 4096), (R.memHdmBase, 0, 3071),
   (R.memHdmSize, 0, 3072), (R.memArbAct, 1, 15), (R.memArbHost, 1, 15), (R.memArbSnap, 1, 15),
   (R.memScrubHours, 1, 168), (R.memRegions, 0, 64), (R.memSnapCount, 1, 1024)] ++
  [(R.collShapeX, 1, 32), (R.collShapeY, 1, 32), (R.collShapeZ, 1, 16), (R.collVcWeightW2, 1, 15),
   (R.collVcWeightW3, 1, 15), (R.collVcWeightW4, 1, 15), (R.collVcWeightW5, 1, 15), (R.collVcWeightW6, 1, 15),
   (R.collVcWeightW7, 1, 15), (R.collSlackSize, 4, 20), (R.updGroups, 0, 1024),
   (R.updCurvePoints, 0, 65536), (R.commitRanges, 0, 256)] ++
  [(R.hostEvqCtrlSize, 6, 20), (R.hostDmaCtrlSize, 4, 16), (R.mgmtResetCfgPerst, 2, 4), (R.mgmtChipWaitS, 1, 255)]

/-- Fields that hold multiples. -/
def fieldMultiples : List (Fld × Nat) :=
  [(R.cmdTraceBaseLo, 4096), (R.scaleTableBaseLo, 4096), (R.scaleRecipeBaseLo, 4096), (R.memRegionBaseLo, 4096),
   (R.memSnapListLo, 64), (R.collMapBaseLo, 4096), (R.collSlackBaseLo, 4096), (R.updGroupBaseLo, 4096),
   (R.updCurveBaseLo, 4096), (R.commitVerBaseLo, 4096), (R.commitRecordBaseLo, 64), (R.hostEvqBaseLo, 4096),
   (R.hostLoadOffLo, 4096), (R.hostDmaRingLo, 4096)]

/-- The value lies in the field's range. -/
def fieldOk (f : Fld) (v : Nat) : Bool :=
  (match fieldRanges.find? fun r => r.1.isOf f with
   | some r => decide (r.2.1 ≤ v ∧ v ≤ r.2.2)
   | none => true) &&
  (match fieldMultiples.find? fun r => r.1.isOf f with
   | some r => v % r.2 == 0
   | none => true) &&
  (if f = R.mgmtCbTelemMs then decide (v = 0 ∨ (5 ≤ v ∧ v ≤ 100))
   else if f = R.pageTimeoutUs f.page then decide (1 ≤ v ∧ v ≤ 10000)
   else if 0x400 ≤ f.page ∧ f.page < 0x48A ∧ f = R.mboxReqLen (f.page - 0x400) then decide (v ≤ 1024)
   else if R.pwrOpMhz.isOf f then decide (900 ≤ v ∧ v ≤ 2100) && v % 10 == 0
   else if f.page = R.linkAllot0.page ∧ R.linkAllot0.off ≤ f.off ∧ f.off ≤ R.linkAllot3.off then
     (List.range 8).all fun i => decide (bitsOf v (4 * i) 4 ≤ 7)
   else true)

/-- Fields that return to 0 at apply (R64). -/
def oneShots : List Fld :=
  [R.scaleCtrlReload, R.updCtrlReload, R.commitCtrlReload, R.commitCtrlRestore, R.memRekeyT1, R.memRekeyT2,
   R.memRegionCtrlReload, R.collMapCtrlReload, R.mgmtJobCtrlStart, R.mgmtJobCtrlEnd]

/-- The definition fields of group blocks (R250). -/
def groupFields : List Fld :=
  [R.collGDefValid, R.collGDefAxis0, R.collGDefAxis1, R.collGDefAxis2, R.collGDefVc, R.collGDefPortGroup, R.collGDefAcc,
   R.collGBufKib, R.collGA2aCap, R.collGRoundKib]

/-- The machine-wide fields (R63), one entry a field. -/
def machineWide : List Fld :=
  [R.mgmtJobCtrlStart, R.mgmtJobCtrlEnd, R.mgmtJobCtrlProgram, R.mgmtJobBaseLo, R.mgmtJobBaseHi, R.cuePeriodUs,
   R.collShapeX, R.collShapeY, R.collShapeZ, R.collMapCtrlReload, R.collVcWeightW2, R.collVcWeightW3, R.collVcWeightW4,
   R.collVcWeightW5, R.collVcWeightW6, R.collVcWeightW7] ++ groupFields

/-- The staged fields of a word, at its live offset. -/
def stagedRows (addr : Nat) : List RegRow := (rowsAt addr).filter fun r => decide (r.acc = .st)

/-- The bits of a word that some rows hold. -/
def maskOf (l : List RegRow) : Nat := l.foldl (fun m r => m ||| ((2 ^ r.fld.w - 1) * 2 ^ r.fld.lo)) 0

/-- The field's staged value differs from its live value. -/
def State.changed (s : State) (f : Fld) : Bool := s.getStaged f != s.get f

/-! ## The digest of a machine sheet (R63) -/

/-- The words that hold machine-wide fields, ascending. -/
def machineWords : List Nat :=
  [R.mgmtJobCtrlStart.addr, R.mgmtJobBaseLo.addr, R.mgmtJobBaseHi.addr, R.cuePeriodUs.addr, R.collShapeX.addr,
   R.collMapCtrlReload.addr, R.collVcWeightW2.addr] ++
  (List.range 16).flatMap fun g => [(R.collGDefValid.at_ g).addr, (R.collGBufKib.at_ g).addr, (R.collGA2aCap.at_ g).addr,
    (R.collGRoundKib.at_ g).addr]

/-- The digest for a target cue; 0 is sent as 1. -/
def State.sheetDigest (s : State) (target : Nat) : Nat :=
  let part := fun (a : Nat) =>
    natLe 4 ((s.staged a).toNat &&& maskOf ((rowsAt a).filter fun r => isAny machineWide r.fld))
  let d := crc16 (natLe 8 target ++ machineWords.flatMap part)
  if d = 0 then 1 else d

end Sys2Proof.Machine
end

