-- ==== Sys2Proof/Machine/Tables.lean ====
section
/-! DEFINITION. The tables a call sheet takes from module memory, and their checks (R224, R225, R242, R243, R299 to R301, R304,
R309, R320, R322, R497). The scale tables are in Scale.lean. -/

namespace Sys2Proof.Machine

open Sys2Proof

/-- A place that a table entry claims: offset, bytes, and the entry that the check names. -/
structure Claim where
  lo    : Nat
  len   : Nat
  table : Nat
  index : Nat
  group : Nat
  deriving DecidableEq, Repr, Inhabited

/-- The first of some claims that overlaps another one (log 21). `l` numbers every claim of the table. -/
def clash (l : List (Claim × Nat)) (mine : List (Claim × Nat)) : Option Claim :=
  (mine.find? fun x => l.any fun y => y.2 != x.2 && overlaps x.1.lo x.1.len y.1.lo y.1.len).map Prod.fst

/-- The CXL.mem range that the staged registers give (R210, R239). -/
def State.stagedHdm (s : State) : Nat × Nat :=
  (TIER2 + s.getStaged R.memHdmBase * 2 ^ 30, s.getStaged R.memHdmSize * 2 ^ 30)

/-! ## Compressed regions (R224, R225) -/

def regionOf (i : Nat) (b : List Byte) : Option MRegion :=
  let w0 := u32Of b 0
  if !bitAt w0 0 then none
  else
    let t2 := bitAt w0 1
    some { index := i, tier2 := t2, narrow := bitAt w0 2, elem := bitsOf w0 3 2, pages := u32Of b 4,
           base := (if t2 then TIER2 else 0) + u64Of b 8, size := u64Of b 16, map := [], drawn := [], fullRaised := false,
           loose := false, undef := false }

/-- The fields of an entry are valid, its allotment lies in its tier and holds its map and 128 KiB. -/
def MRegion.ok (hdm : Nat × Nat) (r : MRegion) : Bool :=
  let top := if r.tier2 then TIER3 else TIER2
  decide (r.elem ≤ (if r.narrow then 1 else 2)) && decide (1 ≤ r.pages ∧ r.pages ≤ 2 ^ 28) &&
    r.base % 131072 == 0 && r.size % 131072 == 0 && decide (r.base + r.size ≤ top) &&
    decide (r.mapSize + 131072 ≤ r.size) && !overlaps r.base r.size hdm.1 hdm.2

/-- The region table, or its first failing entry: one whose own checks fail, or whose allotment meets another one. -/
def State.readRegions (s : State) : Checked (List MRegion) :=
  let base := s.getStaged2 R.memRegionBaseLo R.memRegionBaseHi
  let n := s.getStaged R.memRegions
  match outside base 32 n with
  | some i => .bad i
  | none =>
    let l := (s.entries base 32 n).zipIdx.filterMap fun e => regionOf e.2 e.1
    let claims := (l.map fun r => (⟨r.base, r.size, 0, r.index, 0⟩ : Claim)).zipIdx
    match l.find? fun r => !r.ok s.stagedHdm || (clash claims (claims.filter fun c => decide (c.1.index = r.index))).isSome with
    | some r => .bad r.index
    | none => .good l

/-! ## Versioned ranges (R304, R309) -/

def vrangeOf (b : List Byte) : Option VRange :=
  if bitAt (u32Of b 0) 0 then some ⟨u64Of b 8, u64Of b 16, u64Of b 24, false⟩ else none

/-- Aligned, both copies inside one tier, clear of the region allotments and of the CXL.mem range. A range of no length holds no byte
that could fail (log 58). -/
def State.vrangeOk (s : State) (regions : List MRegion) (r : VRange) : Bool :=
  let t := tierOf r.base
  let al := if t = 1 then 65536 else 131072
  let inTier := fun (a : Nat) => tierOf a == t && (r.len == 0 || tierOf (a + r.len - 1) == t)
  (t == 1 || t == 2) && r.base % al == 0 && r.alt % al == 0 && r.len % al == 0 && inTier r.base && inTier r.alt &&
    [r.base, r.alt].all fun a => !overlaps a r.len s.stagedHdm.1 s.stagedHdm.2 &&
      !(regions.any fun g => overlaps a r.len g.base g.size)

/-- The version table, or its first failing entry: one whose own checks fail, or one of whose copies meets a copy of another range. -/
def State.readVersions (s : State) (regions : List MRegion) : Checked (List VRange) :=
  let base := s.getStaged2 R.commitVerBaseLo R.commitVerBaseHi
  let n := s.getStaged R.commitRanges
  match outside base 32 n with
  | some i => .bad i
  | none =>
    let l := (s.entries base 32 n).zipIdx.filterMap fun e => (vrangeOf e.1).map fun r => (r, e.2)
    let claims := (l.flatMap fun r => [(⟨r.1.base, r.1.len, 0, r.2, 0⟩ : Claim), ⟨r.1.alt, r.1.len, 0, r.2, 0⟩]).zipIdx
    let own := fun (r : VRange × Nat) => claims.filter fun c => decide (c.1.index = r.2)
    let others := fun (r : VRange × Nat) => claims.filter fun c => decide (c.1.index ≠ r.2)
    match l.find? fun r => !s.vrangeOk regions r.1 || (clash (others r) (own r)).isSome with
    | some r => .bad r.2
    | none => .good (l.map Prod.fst)

/-! ## The commit record (R320, R322) -/

/-- The count and the layouts of the record at RECORD_BASE; a failure's DETAIL: 0 CRC, 1 shape. -/
def State.readRecord (s : State) : Checked (DWord × List Nat) :=
  let base := s.get2 R.commitRecordBaseLo R.commitRecordBaseHi
  if !inTiers12 base 64 then .bad 0
  else
    let b := s.peek base 64
    if crc32c (b.take 60) ≠ u32Of b 60 then .bad 0
    else if u32Of b 48 ≠ (s.staged R.collShapeX.addr).toNat then .bad 1
    else .good (BitVec.ofNat 64 (u64Of b 0), (List.range 16).map fun g => u16Of b (16 + 2 * g))

/-! ## The machine map (R242, R243) -/

def mapEntryOf (chip : Nat) (b : List Byte) : Option (Nat × Nat × Nat × Nat) :=
  let w := u32Of b 0
  if bitAt w 0 then some (chip, bitsOf w 1 6, bitsOf w 7 6, bitsOf w 13 5) else none

/-- The first entry outside the shape or at a position that an earlier one holds. -/
def badEntry (shape : List Nat) : List (Nat × Nat × Nat × Nat) → List (Nat × Nat × Nat) → Option Nat
  | [], _ => none
  | (c, p) :: l, seen =>
    let out := [0, 1, 2].any fun a => decide (shape.getD a 1 ≤ axisOf p a)
    if out ∨ seen.contains p then some c else badEntry shape l (seen ++ [p])

/-- A position one step away in a direction. -/
def neighbour (shape : List Nat) (p : Nat × Nat × Nat) (dir : Nat) : Nat × Nat × Nat :=
  let a := dir / 2
  let n := shape.getD a 1
  let q := (axisOf p a + (if dir % 2 = 0 then 1 else n - 1)) % n
  match a with
  | 0 => (q, p.2)
  | 1 => (p.1, q, p.2.2)
  | _ => (p.1, p.2.1, q)

/-- What the trained ports of a direction say against the map: the chip number named (the own number on an axis of size 1, else the
map's neighbour; log 21). -/
def State.badDir (s : State) (shape : List Nat) (l : List (Nat × Nat × Nat × Nat)) (own : Nat) (here : Nat × Nat × Nat) (dir : Nat) :
    Option Nat :=
  let ports := s.portsOf dir
  if ports.isEmpty then none
  else if shape.getD (dir / 2) 1 < 2 then some own
  else
    let want := ((l.find? fun e => decide (e.2 = neighbour shape here dir)).map (·.1)).getD own
    if ports.all fun p => s.flagReg (R.portPeerChipValid p) && s.get (R.portPeerChip p) == want then none else some want

/-- A wrong number of entries, or no valid own number, names the own number (log 21). -/
def State.readMap (s : State) : Checked (List (Nat × Nat × Nat × Nat)) :=
  let base := s.getStaged2 R.collMapBaseLo R.collMapBaseHi
  match outside base 4 16384 with
  | some i => .bad i
  | none =>
    let shape := [s.getStaged R.collShapeX, s.getStaged R.collShapeY, s.getStaged R.collShapeZ]
    let l := (s.entries base 4 16384).zipIdx.filterMap fun e => mapEntryOf e.2 e.1
    match badEntry shape l [] with
    | some c => .bad c
    | none =>
      let own := s.chip.getD 0
      match (if s.chip.isSome then l.find? fun e => decide (e.1 = own) else none) with
      | none => .bad own
      | some e =>
        if l.length ≠ shape.foldl (· * ·) 1 then .bad own
        else match (List.range 6).findSome? (s.badDir shape l own e.2) with
          | some c => .bad c
          | none => .good l

/-! ## The group, curve and layer tables (R299 to R301) -/

def curveRef (w : Nat) : Nat × Nat := (bitsOf w 0 16, bitsOf w 16 7)

def ugroupOf (b : List Byte) : UGroup :=
  let w := fun (i : Nat) => u32Of b (4 * i)
  let w0 := w 0
  { valid := bitAt w0 0, frozen := bitAt w0 1, strict := bitAt w0 2, net := bitAt w0 3, grain := bitAt w0 4,
    workEn := bitAt w0 5, mround := bitsOf w0 6 2, rule := bitsOf w0 8 4, fallback := bitsOf w0 12 4,
    workFmt := BitVec.ofNat 8 (bitsOf w0 16 8), shardFirst := w 1, shardLen := w 2, master := u64Of b 12, mom1 := u64Of b 20,
    mom2 := u64Of b 28, work := u64Of b 36, gradMul := BitVec.ofNat 32 (w 11), eps := BitVec.ofNat 32 (w 12),
    damp := BitVec.ofNat 32 (w 13), tol := BitVec.ofNat 32 (w 14), iterLimit := bitsOf (w 15) 0 8,
    rootEvery := bitsOf (w 15) 8 16, rootP := bitsOf (w 15) 24 3, seed := BitVec.ofNat 64 (u64Of b 64), birth := w 18,
    layers := bitsOf (w 19) 0 16, layerTable := u64Of b 80, curveLr := curveRef (w 22), curveWd := curveRef (w 23),
    curveB1 := curveRef (w 24), curveB2 := curveRef (w 25) }

def ulayerOf (b : List Byte) : ULayer :=
  let w0 := u32Of b 0
  ⟨bitsOf w0 0 16, bitsOf w0 16 16, u32Of b 4, u64Of b 8⟩

def positive (w : Word) : Bool :=
  match f32 w with
  | .fin false n _ => n != 0
  | _ => false

/-- WORK_FMT (R285). -/
def workFmtOk (f : Byte) : Bool :=
  fmtValid f && !fmtTensorScaled f && decide (1 ≤ f.toNat % 16 ∧ f.toNat % 16 ≤ 4)

/-- Aligned and inside Tiers 1 and 2, whatever its length; a NET group's inside Tier 1. -/
def shardPlaceOk (net : Bool) (x : Nat × Nat) : Bool := x.1 % 64 == 0 && decide (x.1 + x.2 ≤ (if net then TIER2 else TIER3))

/-- The fields of one valid entry; its format byte is valid whether or not a working copy is written (R81). -/
def UGroup.ok (count : Nat) (g : UGroup) : Bool :=
  let pre := g.rule == 8
  (g.rule == 1 || g.rule == 2 || g.rule == 3 || pre) && g.grain == pre &&
    (if pre then g.fallback == 2 || g.fallback == 3 else g.fallback == 0) && decide (g.mround ≤ 1) && !(g.net && pre) &&
    g.shardLen % 64 == 0 && fmtValid g.workFmt && (!g.workEn || workFmtOk g.workFmt) && (!g.hasV || positive g.eps) &&
    (!pre || (positive g.damp && positive g.tol && decide (1 ≤ g.iterLimit ∧ g.iterLimit ≤ 64) && g.rootEvery != 0 &&
      (g.rootP == 2 || g.rootP == 4))) &&
    decide (g.birth ≤ count) && (g.layers == 0 || g.layerTable % 64 == 0) && g.places.all (shardPlaceOk g.net)

/-- The first failing point of a curve: `beta` values lie in [0, 1), the others at or above 0. -/
def badPoint (pts : List (Nat × Word)) (beta : Bool) (c : Nat × Nat) : Option Nat :=
  if c.2 < 1 ∨ 64 < c.2 ∨ pts.length < c.1 + c.2 then some c.1
  else
    let l := (pts.drop c.1).take c.2
    let prev := none :: l.map fun p => some p.1
    ((l.zip prev).findIdx? fun y =>
      let v := f32 y.1.2
      let fin := match v with
        | .fin neg n d => (!neg || n == 0) && (!beta || decide (n < d))
        | _ => false
      let up := match y.2 with
        | some x => decide (x < y.1.1)
        | none => true
      !(fin && up)).map (c.1 + ·)

/-- The failing layer of a group: its shape, its place in the shard, its state block, and what earlier layers hold. -/
def badLayer (g : UGroup) : List ULayer → Nat → List (Nat × Nat) → Option Nat
  | [], _, _ => none
  | y :: l, i, seen =>
    let dim := fun (n : Nat) => n % 32 == 0 && decide (32 ≤ n ∧ n ≤ 8192)
    let n := y.rows * y.cols
    if !(dim y.rows && dim y.cols && y.first % 64 == 0 && decide (y.first + n ≤ g.shardLen) && y.state % 64 == 0 &&
        shardPlaceOk false (y.state, y.stateBytes)) ∨ seen.any (fun z => overlaps y.first n z.1 z.2) then some i
    else badLayer g l (i + 1) (seen ++ [(y.first, n)])

/-- BAD_INDEX: index, table, group. -/
abbrev BadIndex := Nat × Nat × Nat

/-- The checks of one valid group, its curves and its layers. -/
def badGroup (count : Nat) (pts : List (Nat × Word)) (i : Nat) (g : UGroup) (layers : List ULayer) : Option BadIndex :=
  if !g.ok count then some (i, 0, 0)
  else
    match [(false, g.curveLr), (false, g.curveWd), (true, g.curveB1), (true, g.curveB2)].findSome? fun c =>
        badPoint pts c.1 c.2 with
    | some j => some (j, 1, 0)
    | none =>
      match outside g.layerTable 32 g.layers with
      | some j => some (j, 2, i)
      | none => (badLayer g layers 0 []).map fun j => (j, 2, i)

def groupClaims (i : Nat) (g : UGroup) (layers : List ULayer) : List Claim :=
  (g.places.map fun x => ⟨x.1, x.2, 0, i, 0⟩) ++ layers.zipIdx.map fun y => ⟨y.1.state, y.1.stateBytes, 2, y.2, i⟩

/-- The tables, or what BAD_INDEX names, with a format byte that is not valid (R81). `count`: the committed-step count at apply. -/
def State.readUpd (s : State) (count : Nat) :
    Checked (List UGroup × List (List ULayer) × List (Nat × Word)) × BadIndex × Option Byte :=
  let gb := s.getStaged2 R.updGroupBaseLo R.updGroupBaseHi
  let ng := s.getStaged R.updGroups
  let cb := s.getStaged2 R.updCurveBaseLo R.updCurveBaseHi
  let nc := s.getStaged R.updCurvePoints
  match outside gb 128 ng, outside cb 8 nc with
  | some i, _ => (.bad 0, (i, 0, 0), none)
  | none, some i => (.bad 0, (i, 1, 0), none)
  | none, none =>
    let gs := (s.entries gb 128 ng).map ugroupOf
    let pts := (s.entries cb 8 nc).map fun b => (u32Of b 0, BitVec.ofNat 32 (u32Of b 4))
    let layersOf := fun (g : UGroup) =>
      if g.valid && (outside g.layerTable 32 g.layers).isNone then (s.entries g.layerTable 32 g.layers).map ulayerOf else []
    let ls := gs.map layersOf
    let all := (gs.zip ls).zipIdx.filter fun x => x.1.1.valid
    let claims := (all.flatMap fun x => groupClaims x.2 x.1.1 x.1.2).zipIdx
    let meets := fun (i : Nat) =>
      (clash claims (claims.filter fun c => decide ((if c.1.table = 0 then c.1.index else c.1.group) = i))).map
        fun c => (c.index, c.table, c.group)
    match all.findSome? fun x => (badGroup count pts x.2 x.1.1 x.1.2).or (meets x.2) with
    | some b =>
      (.bad 0, b, if b.2.1 = 0 then (gs[b.1]?).bind fun g => if fmtValid g.workFmt then none else some g.workFmt else none)
    | none => (.good (gs, ls, pts), (0, 0, 0), none)

end Sys2Proof.Machine
end

