-- ==== Sys2Proof/Machine/Sheet.lean ====
section
/-! DEFINITION. Call sheets (R60 to R67): arming, staging, the checks, rejection, and everything an accepted sheet applies at once. -/

namespace Sys2Proof.Machine

open Sys2Proof

/-- A failing check: the register's live offset, the cause (R65), and what the failure itself records. -/
structure Failure where
  addr  : Nat
  cause : Nat
  eff   : State → State

def failAt (addr cause : Nat) (eff : State → State := id) : Option Failure := some ⟨addr, cause, eff⟩

def whenFail (c : Bool) (addr cause : Nat) (eff : State → State := id) : Option Failure :=
  if c then failAt addr cause eff else none

/-! ## Restrictions and locks -/

def State.anyAct (s : State) : Bool := !s.acts.isEmpty

/-- A restriction of the owning chapter (cause 0x3) on a staged field that changes. -/
def State.restricted (s : State) (f : Fld) : Bool :=
  let quiet := !s.anyAct && !s.outcomePending
  if f = R.mgmtJobCtrlStart then s.get R.mgmtJobState != 0
  else if f = R.mgmtJobCtrlEnd then s.get R.mgmtJobState != 1
  else if 0x100 ≤ f.page ∧ f.page < 0x108 then s.acts.any fun a => bitAt a.desc.rows 0
  else if f = R.cmdCheckEn then s.anyAct
  else if f = R.scaleCtrlReload ∨ f = R.updCtrlReload then !quiet
  else if f = R.memRegionCtrlReload then s.anyAct
  else if isAny groupFields f then s.acts.any fun a => bitAt a.desc.groups ((f.off - 0x200) / 0x40)
  else if f = R.commitCtrlReload then s.active || !quiet
  else if f = R.commitCtrlActive then !quiet
  else if f = R.commitCtrlRestore then s.active || s.loaded
  else false

/-- Fields that are locked while a program is loaded (cause 0x8). -/
def lockedFields : List Fld :=
  [R.cuePeriodUs, R.collShapeX, R.collShapeY, R.collShapeZ, R.collMapCtrlReload, R.collP2pSaltLo, R.collP2pSaltHi, R.memRekeyT1,
   R.memRekeyT2, R.memT3Size, R.memT3HostGibLo, R.memT3HostGibHi, R.memHdmBase, R.memHdmSize, R.linkAllot0, R.linkAllot1,
   R.linkAllot2, R.linkAllot3]

/-! ## Cross-register rules (cause 0x2) -/

/-- Fields of page SCALE and of page UPD that take effect only through a reload (R204, R302). -/
def scaleReloadFields : List Fld :=
  [R.scaleTableBaseLo, R.scaleTableBaseHi, R.scaleSlots, R.scaleRecipeBaseLo, R.scaleRecipeBaseHi, R.scaleRecipes]
def updReloadFields : List Fld :=
  [R.updGroupBaseLo, R.updGroupBaseHi, R.updGroups, R.updCurveBaseLo, R.updCurveBaseHi, R.updCurvePoints]

/-- FORMAT INVALID for a format byte of a table (R81). -/
def State.formatInvalid (s : State) (source : Nat) : Option Byte → State
  | some b => s.raise 0x0201 pgCMD { detail := b.toNat + source * 256 }
  | none => s

def State.checkScale (s : State) : Option Failure :=
  let a := R.scaleCtrlReload.addr
  if s.getStaged R.scaleCtrlReload = 1 then
    match s.readScaleTables (s.getStaged2 R.scaleTableBaseLo R.scaleTableBaseHi) (s.getStaged R.scaleSlots)
        (s.getStaged2 R.scaleRecipeBaseLo R.scaleRecipeBaseHi) (s.getStaged R.scaleRecipes) with
    | (.good _, _) => none
    | (.bad i, f) => failAt a 2 fun s =>
      let s := (s.set R.scaleBadIndexIndex (i % 4096)).set R.scaleBadIndexRecipe (i / 4096)
      (s.raise 0x0615 pgSCALE { detail := i }).formatInvalid 1 f
  else whenFail (scaleReloadFields.any s.changed) a 2

/-- The committed-step count as it will stand at apply. -/
def State.countAtApply (s : State) : Nat :=
  match (if s.getStaged R.commitCtrlRestore = 1 then s.readRecord else .bad 0) with
  | .good r => r.1.toNat
  | .bad _ => s.stepCount

def State.checkUpd (s : State) : Option Failure :=
  let a := R.updCtrlReload.addr
  if s.getStaged R.updCtrlReload = 1 then
    match s.readUpd s.countAtApply with
    | (.good _, _) => none
    | (.bad _, b, f) => failAt a 2 fun s =>
      let s := ((s.set R.updBadIndexIndex b.1).set R.updBadIndexTable b.2.1).set R.updBadIndexGroup b.2.2
      (s.raise 0x0623 pgUPD { detail := b.1 + b.2.1 * 2 ^ 16 + b.2.2 * 2 ^ 18 }).formatInvalid 2 f
  else whenFail (updReloadFields.any s.changed) a 2

def State.checkRegions (s : State) : Option Failure :=
  if s.getStaged R.memRegionCtrlReload = 1 then
    match s.readRegions with
    | .good _ => none
    | .bad i => failAt R.memRegionCtrlReload.addr 2 fun s =>
      (s.set R.memRegionBad i).raise 0x0305 pgMEM { detail := i }
  else none

/-- HDM_SIZE: a Tier 2 re-key needs it 0 (R215), base and size within the tier, clear of the region allotments (R239). -/
def State.checkHdm (s : State) : Option Failure :=
  let moved := s.changed R.memHdmBase || s.changed R.memHdmSize
  let rekey := s.getStaged R.memRekeyT2 == 1 && s.getStaged R.memHdmSize != 0
  let big := decide (3072 < s.getStaged R.memHdmBase + s.getStaged R.memHdmSize)
  let meets := s.getStaged R.memRegionCtrlReload == 0 &&
    s.mem.regions.any fun r => overlaps r.base r.size s.stagedHdm.1 s.stagedHdm.2
  whenFail (((s.changed R.memRekeyT2 || s.changed R.memHdmSize) && rekey) || (moved && (big || meets))) R.memHdmSize.addr 2

def State.checkMap (s : State) : Option Failure :=
  if s.getStaged R.collMapCtrlReload = 1 then
    match s.readMap with
    | .good _ => none
    | .bad c => failAt R.collMapCtrlReload.addr 2 fun s =>
      (s.set R.collMapBad c).raise 0x0509 pgCOLL { detail := c % 2 ^ 14 }
  else none

def groupInvalid (g : Nat) (s : State) : State := s.raise 0x0508 pgCOLL { group := g, detail := g }

/-- No axis twice, and none after a 0. -/
def axesOk (a b c : Nat) : Bool :=
  if a = 0 then b == 0 && c == 0 else if b = 0 then c == 0 else a != b && (c == 0 || (a != c && b != c))

/-- The rules of one group that are charged to a register (R252). A VC that changes lies from 2 to 5; the other rules bind valid
groups. -/
def State.checkGroup (s : State) (g addr : Nat) : Option Failure :=
  let v := fun (f : Fld) => s.getStaged (f.at_ g)
  let ch := fun (l : List Fld) => l.any fun f => s.changed (f.at_ g)
  let vcBad := decide (v R.collGDefVc < 2 ∨ 5 < v R.collGDefVc)
  if addr = (R.collGDefValid.at_ g).addr ∧ ch [R.collGDefVc] ∧ vcBad then failAt addr 2 (groupInvalid g)
  else if v R.collGDefValid = 0 then none
  else if addr = (R.collGDefValid.at_ g).addr then
    whenFail (ch [R.collGDefValid, R.collGDefAxis0, R.collGDefAxis1, R.collGDefAxis2] &&
      !axesOk (v R.collGDefAxis0) (v R.collGDefAxis1) (v R.collGDefAxis2)) addr 2 (groupInvalid g)
  else if addr = (R.collGRoundKib.at_ g).addr then
    whenFail (ch [R.collGDefValid, R.collGBufKib, R.collGRoundKib] && decide (v R.collGBufKib < v R.collGRoundKib)) addr 2
      (groupInvalid g)
  else if addr = (R.collGBufKib.at_ g).addr then
    let valid := (List.range 16).filter fun h => s.getStaged (R.collGDefValid.at_ h) == 1
    let moved := (List.range 16).any fun h => s.changed (R.collGDefValid.at_ h) || s.changed (R.collGBufKib.at_ h)
    whenFail (moved && valid.getLast? == some g &&
      decide (2560 < (valid.map fun h => s.getStaged (R.collGBufKib.at_ h)).sum)) addr 2 (groupInvalid g)
  else none

/-- The regions as they will stand after apply. -/
def State.regionsAtApply (s : State) : List MRegion :=
  match (if s.getStaged R.memRegionCtrlReload = 1 then s.readRegions else .bad 0) with
  | .good l => l
  | .bad _ => s.mem.regions

def State.checkCommit (s : State) : Option Failure :=
  let a := R.commitCtrlReload.addr
  let table := if s.getStaged R.commitCtrlReload = 1 then
      match s.readVersions s.regionsAtApply with
      | .good _ => none
      | .bad i => failAt a 2 fun s => (s.set R.commitRangeBad i).raise 0x0604 pgCOMMIT { detail := i }
    else none
  match table with
  | some f => some f
  | none =>
    if s.getStaged R.commitCtrlRestore = 1 then
      match s.readRecord with
      | .good _ => none
      | .bad d => failAt a 2 fun s => s.raise 0x0605 pgCOMMIT { detail := d }
    else none

/-- The staged allotment code of a port. -/
def State.stagedAllot (s : State) (p : Nat) : Nat :=
  bitsOf (s.staged (R.linkAllot0.addr + 4 * (p / 8))).toNat (4 * (p % 8)) 4

/-- R348. -/
def State.allotOk (s : State) : Bool :=
  let n := fun (c : Nat) => (portList.filter fun p => s.stagedAllot p == c).length
  n 0 == n 1 && n 2 == n 3 && n 4 == n 5 && decide (n 0 ≤ 8 ∧ n 2 ≤ 8 ∧ n 4 ≤ 8 ∧ n 6 ≤ 8)

def State.checkAllot (s : State) : Option Failure :=
  whenFail ([R.linkAllot0, R.linkAllot1, R.linkAllot2, R.linkAllot3].any s.changed && !s.allotOk) R.linkAllot3.addr 2

/-- JOB_CTRL and JOB_BASE of a START (R454). -/
def State.checkJob (s : State) (addr target : Nat) : Option Failure :=
  if s.getStaged R.mgmtJobCtrlStart = 0 then none
  else if addr = R.mgmtJobCtrlStart.addr then
    let p := s.getStaged R.mgmtJobCtrlProgram
    whenFail (p == 0 || (s.prog p).isNone) addr 2
  else whenFail (decide (s.getStaged2 R.mgmtJobBaseLo R.mgmtJobBaseHi < target)) addr 2

/-- The cross-register rules charged to a register. -/
def State.crossRules (s : State) (addr target : Nat) : Option Failure :=
  if addr = R.cuePeriodUs.addr then
    whenFail (s.changed R.cuePeriodUs && decide (s.getStaged R.cuePeriodUs < s.get R.cueMinPeriodUs)) addr 2
  else if addr = R.mgmtJobCtrlStart.addr ∨ addr = R.mgmtJobBaseHi.addr then s.checkJob addr target
  else if addr = R.scaleCtrlReload.addr then s.checkScale
  else if addr = R.memHdmSize.addr then s.checkHdm
  else if addr = R.memRegionCtrlReload.addr then s.checkRegions
  else if addr = R.collMapCtrlReload.addr then s.checkMap
  else if (R.collGDefValid.at_ 0).addr ≤ addr ∧ addr < (R.collGDefValid.at_ 0).addr + 0x400 then
    s.checkGroup ((addr - (R.collGDefValid.at_ 0).addr) / 0x40) addr
  else if addr = R.updCtrlReload.addr then s.checkUpd
  else if addr = R.commitCtrlReload.addr then s.checkCommit
  else if addr = R.linkAllot3.addr then s.checkAllot
  else none

/-- Registers to which a rule is charged although they may not change. -/
def ruleAddrs : List Nat :=
  [R.mgmtJobBaseHi.addr, R.scaleCtrlReload.addr, R.memHdmSize.addr, R.updCtrlReload.addr, R.linkAllot3.addr] ++
  (List.range 16).flatMap fun g => [(R.collGDefValid.at_ g).addr, (R.collGBufKib.at_ g).addr, (R.collGRoundKib.at_ g).addr]

/-- The checks of one register (R65): range, restriction, lock, cross-register rules. -/
def State.checkWord (s : State) (machine immediate : Bool) (target addr : Nat) : Option Failure :=
  let ch := ((stagedRows addr).map (·.fld)).filter s.changed
  if ch.any fun f => !fieldOk f (s.getStaged f) then failAt addr 1
  else if ch.any fun f => isAny machineWide f && !machine && !(immediate && f == R.cuePeriodUs) then failAt addr 3
  else if ch.any s.restricted then failAt addr 3
  else if s.loaded && ch.any (isAny lockedFields) then failAt addr 8
  else s.crossRules addr target

/-- The first failing check, in ascending offset; a write dropped before them comes first (R61). -/
def State.checkSheet (s : State) (machine immediate : Bool) (target : Nat) : Option Failure :=
  match s.sheet.dropped with
  | some a => failAt a 4
  | none =>
    let l := ((s.shadow.map (·.1)) ++ ruleAddrs).foldl (fun l a => if l.contains a then l else insertNat a l) []
    l.findSome? (s.checkWord machine immediate target)

/-- The table of `n` entries that a reload reads, where it lies in Tiers 1 and 2. -/
def State.touchTable (s : State) (base each n : Nat) : State :=
  if n = 0 ∨ !inTiers12 base (each * n) then s else s.visit base (each * n)

/-- What the reloads of a sheet read at its check is read like any access of the module's own (R214, R402, log 72). -/
def State.touchTables (s : State) : State :=
  let on := fun (f : Fld) => s.getStaged f == 1
  let of := fun (lo hi : Fld) (each n : Nat) (s : State) => s.touchTable (s.getStaged2 lo hi) each n
  let s := if on R.scaleCtrlReload then
      of R.scaleTableBaseLo R.scaleTableBaseHi 128 (s.getStaged R.scaleSlots)
        (of R.scaleRecipeBaseLo R.scaleRecipeBaseHi 16 (s.getStaged R.scaleRecipes) s)
    else s
  let s := if on R.memRegionCtrlReload then of R.memRegionBaseLo R.memRegionBaseHi 32 (s.getStaged R.memRegions) s else s
  let s := if on R.commitCtrlReload then of R.commitVerBaseLo R.commitVerBaseHi 32 (s.getStaged R.commitRanges) s else s
  let s := if on R.commitCtrlRestore then s.touchTable (s.get2 R.commitRecordBaseLo R.commitRecordBaseHi) 64 1 else s
  let s := if on R.collMapCtrlReload then of R.collMapBaseLo R.collMapBaseHi 4 16384 s else s
  if on R.updCtrlReload then
    let base := s.getStaged2 R.updGroupBaseLo R.updGroupBaseHi
    let n := s.getStaged R.updGroups
    let s := of R.updCurveBaseLo R.updCurveBaseHi 8 (s.getStaged R.updCurvePoints) (s.touchTable base 128 n)
    if (outside base 128 n).isSome then s
    else (((s.entries base 128 n).map ugroupOf).filter (·.valid)).foldl (fun s g => s.touchTable g.layerTable 32 g.layers) s
  else s

/-- What the reloads of a sheet read at its check (R497). -/
def State.takeTables (s : State) : Taken :=
  let on := fun (f : Fld) => s.getStaged f == 1
  { slots := if on R.scaleCtrlReload then
      match (s.readScaleTables (s.getStaged2 R.scaleTableBaseLo R.scaleTableBaseHi) (s.getStaged R.scaleSlots)
        (s.getStaged2 R.scaleRecipeBaseLo R.scaleRecipeBaseHi) (s.getStaged R.scaleRecipes)).1 with
      | .good x => some x
      | .bad _ => none
      else none,
    upd := if on R.updCtrlReload then
      match (s.readUpd s.countAtApply).1 with
      | .good x => some x
      | .bad _ => none
      else none,
    regions := if on R.memRegionCtrlReload then
      match s.readRegions with
      | .good x => some x
      | .bad _ => none
      else none,
    ranges := if on R.commitCtrlReload then
      match s.readVersions s.regionsAtApply with
      | .good x => some x
      | .bad _ => none
      else none,
    map := if on R.collMapCtrlReload then
      match s.readMap with
      | .good x => some x
      | .bad _ => none
      else none,
    restore := if on R.commitCtrlRestore then
      match s.readRecord with
      | .good x => some x
      | .bad _ => none
      else none }

/-! ## Rejection -/

/-- A rejected sheet changes no field; its values stay staged (R64). -/
def State.rejectSheet (s : State) (addr cause : Nat) : State :=
  let s := (s.set R.cueCsRejectPage (addr / 0x1000)).set R.cueCsRejectReg (addr % 0x800 / 4)
  let s := (s.set R.cueCsRejectCause cause).set R.cueCsStatusState 4
  { s with sheet := SheetSt.idle }.raise 0x0103 pgCUE { detail := (s.word R.cueCsRejectPage.addr).toNat }

def State.rejectFor (s : State) (f : Failure) : State := (f.eff s).rejectSheet f.addr f.cause

/-! ## Apply (R64) -/

/-- A range of `len` bytes settled from `src` into `dst` (R309): the lines that are not clean, or that meet one in `dst`, are copied as
lines are; the listed bytes of the others at once. -/
def State.copySpan (s : State) (src dst len : Nat) : State :=
  let s := s.touch dst len
  let at_ := fun (lo l : Nat) => decide (lo ≤ 64 * l ∧ 64 * l < lo + len)
  let marked := s.mem.poison ++ s.mem.errs.map (·.1)
  let down := if s.anyDown then
      (List.range (len / 64)).filter fun i => s.stackDown (s.interleave (src + 64 * i)).1 || s.stackDown (s.interleave (dst + 64 * i)).1
    else []
  let odd := ((marked.filterMap fun l => if at_ src l then some (l - src / 64) else if at_ dst l then some (l - dst / 64) else none) ++
    down).eraseDups
  let byLine := fun (c : Nat) => odd.contains (c / 64)
  let b := s.mem.bytes.filter fun c => decide (src ≤ c.1 ∧ c.1 < src + len) && !byLine (c.1 - src)
  let kept := s.mem.bytes.filter fun c => decide (c.1 < dst ∨ dst + len ≤ c.1) || byLine (c.1 - dst)
  let s := s.setMem { s.mem with bytes := b.foldl (fun m c => Memory.write m (c.1 - src + dst) c.2) kept }
  odd.foldl (fun s i => State.copyLines (dst + 64 * i) (src + 64 * i) (dst + 64 * i) 1 s) s

def VRange.pages (r : VRange) : List Nat := (List.range (r.len / 4096)).map fun i => r.base / 4096 + i

/-- The new version table (R309): old ranges whose SEL is 1 are settled into copy 0, the new ones have SEL 0 and every page marked. -/
def State.applyRanges (s : State) (l : List VRange) : State :=
  let old := s.mem.ranges.filter (·.sel)
  let s := old.foldl (fun s r => s.copySpan r.alt r.base r.len) s
  s.setMem { s.mem with ranges := l, marks := l.flatMap VRange.pages, resync := [],
                        settle := s.mem.settle ++ old.flatMap VRange.pages }

/-- The map in force (R243): own position, hash sets (R350), express table (R351). -/
def State.applyMap (s : State) (l : List (Nat × Nat × Nat × Nat)) : State :=
  let here := (l.find? fun e => decide (some e.1 = s.chip)).map (·.2)
  let p := here.getD (0, 0, 0)
  let s := ((s.set R.collPositionX p.1).set R.collPositionY p.2.1).set R.collPositionZ p.2.2
  let s := s.set R.collPositionValid (boolNat here.isSome)
  let s := portList.foldl (fun s q =>
    s.setPort q { s.port q with hashSet := s.portIsUp q && decide (s.allot q < 6) }) s
  let ex := portList.filterMap fun q =>
    let c := s.get (R.portPeerChip q)
    if s.portIsUp q && s.allot q == 6 && s.flagReg (R.portPeerChipValid q) && l.any (fun e => e.1 == c) then some (q, c) else none
  { s with map := { s.map with entries := l, express := ex } }

/-- A re-key: the new key, the tier zeroed, accesses wait until the fill ends (R215). -/
def State.applyRekey (s : State) (tier : Nat) : State :=
  let s := if tier = 1 then
      s.set2 R.memIlKey1Lo R.memIlKey1Hi (s.get2 R.memRekeyKey1Lo R.memRekeyKey1Hi)
    else s.set2 R.memIlKey2Lo R.memIlKey2Hi (s.get2 R.memRekeyKey2Lo R.memRekeyKey2Hi)
  let s := s.zeroTier tier
  s.setMem (if tier = 1 then { s.mem with rekey1 := true } else { s.mem with rekey2 := true })

/-- Registers of some pages in an offset window return to reset: counts that are cleared. -/
def State.clearWords (s : State) (page : Nat → Bool) (off : Nat → Bool) : State :=
  { s with regs := s.regs.filter fun e => !(page (e.1 / 0x1000) && off (e.1 % 0x1000)) }

/-- Sticky counts of a cell (R149, R150). -/
def countWindow (o : Nat) : Bool := decide (0x100 ≤ o ∧ o < 0x500)

/-- COUNT_OVF and COUNT_INV of every group (R274). -/
def groupCountWindow (o : Nat) : Bool :=
  decide (0x200 ≤ o ∧ o < 0x600) && ((o - 0x200) % 0x40 == 0x18 || (o - 0x200) % 0x40 == 0x1C)

def State.clearGroupCounts (s : State) : State := s.clearWords (fun p => p == 6) groupCountWindow

def State.clearCounts (s : State) : State :=
  (s.clearWords (fun p => decide (0x100 ≤ p ∧ p < 0x180)) countWindow).clearGroupCounts

/-- The acts of a step in table order, without Intermission acts. -/
def Program.stepActs (p : Program) (base : Nat) : List DueAct := (p.acts.filter fun a => decide (a.type ≠ 2)).map fun a => ⟨a, base⟩

/-- A job starts at cue `n` (R454). -/
def State.startJob (s : State) (n : Nat) : State :=
  match s.prog (s.get R.mgmtJobCtrlProgram) with
  | none => s
  | some p =>
    let base := s.get2 R.mgmtJobBaseLo R.mgmtJobBaseHi
    let s := (s.set R.mgmtJobState 1).set2 R.mgmtJobStartCueLo R.mgmtJobStartCueHi n
    let s := (((s.set R.cueShift 0).set R.scaleSkipRun 0).set R.commitSkipRun 0).clearCounts.forgetStep
    { s with job := some { program := p.num, base := base, due := p.stepActs base, fresh := true, skipping := false, shiftMark := 0,
                           outcomeAt := none, ending := false } }

/-- A job is to end (R456). -/
def State.endJob (s : State) : State :=
  match s.job with
  | none => s
  | some j => { s.set R.mgmtJobState 2 with job := some { j with ending := true } }

/-- Every staged field becomes live, at once. -/
def State.goLive (s : State) : State :=
  let l := s.shadow
  let s := l.foldl (fun s e =>
    let m := BitVec.ofNat 32 (maskOf (stagedRows e.1))
    s.setWord e.1 ((s.word e.1 &&& ~~~m) ||| (e.2 &&& m))) s
  oneShots.foldl (fun s f => if s.get f = 0 then s else s.set f 0) { s with shadow := [] }

/-- The first act of the step in progress has started: its scalars are fixed (R283). -/
def State.stepBegun (s : State) : Bool := s.job.elim false fun j => !j.fresh

/-- An accepted sheet applies at boundary `n`. -/
def State.applySheet (s : State) (n : Nat) : State :=
  let t := s.sheet.taken
  let on := fun (f : Fld) => s.getStaged f == 1
  let start := on R.mgmtJobCtrlStart
  let stop := on R.mgmtJobCtrlEnd
  let rk1 := on R.memRekeyT1
  let rk2 := on R.memRekeyT2
  let wakes := on R.commitCtrlActive && !s.active
  let moved := portList.filter fun p => s.stagedAllot p != s.allot p
  let s := moved.foldl (fun s p => s.portGoDark p) s
  let s := { s.goLive with sheet := SheetSt.idle }
  let s := moved.foldl (fun s p => s.setPort p { s.port p with code := s.allot p, hashSet := false }) s
  let s := if moved.isEmpty then s else s.tellPeers
  let s := s.resizePools
  let s : State := match t.slots with
    | some x => { s with scale := { s.scale with slots := x.1.map (enterSlot x.2), recipes := x.2 } }
    | none => s
  let s : State := match t.regions with
    | some x => s.setMem { s.mem with regions := x }
    | none => s
  let s : State := match t.ranges with
    | some x => s.applyRanges x
    | none => s
  let s : State := match t.restore with
    | some x =>
      let s : State := s.set2 R.commitStepLo R.commitStepHi x.1.toNat
      (List.range 16).foldl (fun (s : State) g =>
        ((s.set (R.collGLayoutCommitted.at_ g) (x.2.getD g 0)).set (R.collGLayoutPending.at_ g) 0).setGroup g
          { s.group g with pendingLayout := 0 }) s
    | none => s
  let s : State := match t.upd with
    | some x => { s with upd := { s.upd with
        groups := x.1, layers := x.2.1, curves := x.2.2, scalars := if s.stepBegun then s.upd.scalars else [] } }
    | none => s
  let s : State := match t.map with
    | some x => s.applyMap x
    | none => s
  let s := if rk1 then s.applyRekey 1 else s
  let s := if rk2 then s.applyRekey 2 else s
  let s := if wakes then s.startResync else s
  let s := if start then s.startJob n else s
  let s := if stop then s.endJob else s
  (s.set R.cueCsStatusState 3).retryWaiting

/-! ## Arming, disarming, staging -/

/-- LOCKED or HOLDOVER (R40, R67). -/
def State.aligned (s : State) : Bool := decide (2 ≤ s.get R.cueAlignStatusState)

def State.csTarget (s : State) : Nat := s.get2 R.cueCsTargetLo R.cueCsTargetHi

/-- An immediate sheet (R67): checked and applied at once. -/
def State.immediateSheet (s : State) : State :=
  let s := s.touchTables
  match s.checkSheet false true 0 with
  | some f => s.rejectFor f
  | none => { s with sheet := { s.sheet with taken := s.takeTables } }.applySheet s.cueNow

def State.arm (s : State) (machine : Bool) : State :=
  let t := s.csTarget
  let late := R.cueCsTargetLo.addr
  if !s.aligned then
    if !s.loaded && !machine && t == 0 then
      { s with sheet := { SheetSt.idle with armed := true } }.immediateSheet
    else s.rejectSheet late 5
  else if t < s.cueNow + (if machine then 3 else 2) then s.rejectSheet late 5
  else ({ s with sheet := { SheetSt.idle with armed := true } }).set R.cueCsStatusState 1

/-- A write of CS_CTRL (R60, R66): DISARM wins over ARM; MACHINE keeps its value while a sheet is armed. -/
def State.writeCsCtrl (s : State) (path : Path) (v : Nat) : State :=
  let machine := bitAt v 2
  if bitAt v 1 then
    if !s.sheet.armed then s.set R.cueCsCtrlMachine (boolNat machine)
    else if s.sheet.checked then s
    else ({ s with sheet := SheetSt.idle }).set R.cueCsStatusState 0
  else if s.sheet.armed then
    if bitAt v 0 ∨ machine ≠ s.flagReg R.cueCsCtrlMachine then s.refuseAccess path R.cueCsCtrlArm.addr else s
  else
    let s := s.set R.cueCsCtrlMachine (boolNat machine)
    if bitAt v 0 then s.arm machine else s

/-- A write of 1 to CS_CTRL.ARM, with MACHINE as the same write gives it. -/
def execCsArm (path : Path) (machine : Bool) (s : State) : Host.Outcome State Fault Refusal :=
  s.writeAt path R.cueCsCtrlArm fun s => s.writeCsCtrl path (1 + 4 * boolNat machine)

/-- A write of 1 to CS_CTRL.DISARM, with MACHINE as the same write gives it. -/
def execCsDisarm (path : Path) (machine : Bool) (s : State) : Host.Outcome State Fault Refusal :=
  s.writeAt path R.cueCsCtrlDisarm fun s => s.writeCsCtrl path (2 + 4 * boolNat machine)

/-- A page has staged fields (R407). -/
def pageHasStaged (page : Nat) : Bool :=
  match pageKind page with
  | none => false
  | some k => (k.rows page).any fun r => decide (r.acc = .st)

/-- A write of the word of a staging shadow at its BAR0 offset (R60, R61, R405, R407). -/
def State.stageWrite (s : State) (path : Path) (off : Nat) (v : Word) : State :=
  let a := off - 0x800
  let rows := stagedRows a
  if !pageHasStaged (off / 0x1000) then s
  else if rows.isEmpty then s.refuseAccess path off
  else if s.sheet.armed then
    let s := s.inc R.cueCsStatusLateWrites 1
    if s.sheet.checked ∨ s.sheet.dropped.isSome then s else { s with sheet := { s.sheet with dropped := some a } }
  else
    let m := BitVec.ofNat 32 (maskOf rows)
    { s with shadow := AMap.put s.shadow a ((s.word a &&& ~~~m) ||| (v &&& m)) }

/-- A write of a staged word at its shadow, or at its live offset. -/
def execStagingWrite (path : Path) (off : Nat) (v : Word) (s : State) : Host.Outcome State Fault Refusal :=
  if !s.pathOpen path then done s
  else if off % 4 ≠ 0 ∨ !s.pageOpen (off / 0x1000) then done (s.refuseAccess path off)
  else if off % 0x1000 < 0x800 then
    done (if (stagedRows off).isEmpty then s else s.stageWrite path (off + 0x800) v)
  else done (s.stageWrite path off v)

/-! ## At a boundary (R62, step 4 of R52) -/

/-- Boundary `n`, whose preceding flood is `fl`: the state, and the accept bit and digest of this module's marker for cue `n`. -/
def State.sheetBoundary (s : State) (n : Nat) (fl : Flood) : State × Bool × Nat :=
  if !s.sheet.armed then (s, false, 0)
  else
    let machine := s.flagReg R.cueCsCtrlMachine
    let t := s.csTarget
    let late := R.cueCsTargetLo.addr
    if !s.sheet.checked then
      if n + (if machine then 2 else 1) < t then (s, false, 0)
      else if t < n + (if machine then 2 else 1) then (s.rejectSheet late 5, false, 0)
      else
        let digest := if machine then s.sheetDigest t else 0
        let s := (s.set R.cueCsStatusState 2).touchTables
        match s.checkSheet machine false t with
        | some f => (s.rejectFor f, false, digest)
        | none =>
          ({ s with sheet := { s.sheet with checked := true, passed := !machine, taken := s.takeTables } }, machine, digest)
    else if !s.sheet.passed then
      if n + 1 < t then (s, false, 0)
      else if t < n + 1 then (s.rejectSheet late 5, false, 0)
      else if fl.digOr ≠ fl.digAnd then (s.rejectSheet R.cueCsCtrlArm.addr 7, false, 0)
      else if !fl.accept then (s.rejectSheet R.cueCsCtrlArm.addr 6, false, 0)
      else ({ s with sheet := { s.sheet with passed := true } }, false, 0)
    else if n < t then (s, false, 0)
    else if t < n then (s.rejectSheet late 5, false, 0)
    else (s.applySheet n, false, 0)

end Sys2Proof.Machine
end

