-- ==== Sys2Proof/Machine/Sync.lean ====
section
/-! DEFINITION. The sync engine and waits (R159 to R165), gates (R157), MARK and lost trace records (R174, R177), and what makes an
act overrun (R54). -/

namespace Sys2Proof.Machine

open Sys2Proof

/-- A sync-engine command: no windows. -/
def syncPlan (refused : Bool) (_ : State) (_ : Nat) : Plan :=
  { refuse := if refused then some 0x0202 else none, occ := fun _ => 1, eng := 3, visible := fun t => t + 1 }

/-- FLAG.INC k, k from 1 to 255, on any flag of the act's rows but queue flags (R160). -/
def execFlagInc (i : Issue) (flag : FlagRef) (k : Nat) (s : State) : Host.Outcome State Fault Refusal :=
  let plan := fun (s : State) (t : Nat) =>
    syncPlan (flagRefused s i.cell flag || decide (k < 1 ∨ 255 < k)) s t
  done <| s.issue 3 i plan (fun _ s => s) fun r s =>
    s.flagChange flag
      { write := none, add := k, cycle := r.t, cell := i.cell, core := i.core, source := .sync, tag := i.tag }

/-- FLAG.WRITE v on a flag of its own cell but queue flags (R160). -/
def execFlagWrite (i : Issue) (flag : FlagId) (v : Half) (s : State) : Host.Outcome State Fault Refusal :=
  let f : FlagRef := ⟨i.cell, flag⟩
  let plan := fun (s : State) (t : Nat) => syncPlan (flagRefused s i.cell f) s t
  done <| s.issue 3 i plan (fun _ s => s) fun r s =>
    s.flagChange f
      { write := some v, add := 0, cycle := r.t, cell := i.cell, core := i.core, source := .sync, tag := i.tag }

/-- MARK: a trace record, nothing else (R177). -/
def execMark (i : Issue) (v : Word) (s : State) : Host.Outcome State Fault Refusal :=
  done <| s.issue 3 i (syncPlan false) (fun _ s => s) fun r s =>
    s.trace 9 i.tag (tracePlace i.cell i.core 3 0) r.act.desc.act v.toNat r.t

/-- A record that could not be written within 4 µs (R174): the oldest that waits is dropped and counted. -/
def execTraceRecordDrop (s : State) : Host.Outcome State Fault Refusal :=
  match s.traced with
  | [] => done s
  | _ :: l => if s.dataOn then done (({ s with traced := l }).inc R.cmdTraceDrops 1) else done s

/-- A WAIT issues (R162, R163): the sync engine issues nothing else until it completes. Waits whose conditions hold are completed by
WAIT_COMPLETE at the first such cycle. -/
def execWait (i : Issue) (f : WaitFields) (s : State) : Host.Outcome State Fault Refusal :=
  let plan := fun (_ : State) (_ : Nat) =>
    ({ refuse := none, occ := fun _ => 1, eng := 3, visible := fun t => t + 2 } : Plan)
  done <| s.issue 3 i plan (fun _ s => s) fun r s =>
    let k := s.core i.cell i.core
    s.setCore i.cell i.core { k with
      wait := some ⟨i.tag, ⟨i.cell, f.flag⟩, f.target, s.expiry r.act f.timeout, r.t, f.gMat, f.gVec, f.gMov⟩ }

/-- One gate opening at a cycle, at most 15 unconsumed (R157). -/
def State.openGate (s : State) (cell core q c : Nat) (tag : Word) : State :=
  let k := s.core cell core
  let e := k.queue q
  if e.gates.length < 15 then s.setCore cell core (k.setQueue q { e with gates := e.gates ++ [c] })
  else
    let s := s.inc (R.cellGatesLost cell) 1
    match s.actOfCell cell with
    | none => s
    | some a =>
      (s.raiseOnce a cell 0x0207 { tag := tag, cell := cell, core := core, queue := 3, act := some a }).causeIn (some a)
        vCOMMAND

/-- The windows, in every cell, whose increment of a flag the completed wait of a reader has seen (R144, R166, R168): those that its
target counts. -/
def State.markSeen (s : State) (f : FlagRef) (reader : Nat) (target : Half) : State :=
  s.mapWins fun w =>
    if w.flagged = some f ∧ w.landed ∧ reached target w.value ∧ !w.seen.contains reader then { w with seen := w.seen ++ [reader] }
    else w

/-- When a wait may complete: no earlier than its condition can be seen, no later than it must be (R121, R162). -/
def FlagSt.clampHold (g : FlagSt) (cell core issued c : Nat) (target : Half) : Option Nat :=
  match g.firstHold false cell core (issued + 2) target with
  | none => none
  | some lo =>
    match g.firstHold true cell core (issued + 2) target with
    | none => some (max lo c)
    | some hi => some (min hi (max lo c))

/-- A wait completes at a cycle (R162): one gate opens to each engine of its mask, and the sync engine goes on from there. A wait
of a communication queue opens none and lets its queue go on (R253). -/
def execWaitComplete (w : Waiter) (cycle : Nat) (s : State) : Host.Outcome State Fault Refusal :=
  match w with
  | .core cell core =>
    let k := s.core cell core
    match k.wait with
    | none => done s
    | some x =>
      let g := s.flag x.flag
      match g.clampHold cell core x.issued cycle x.target with
      | none => done s
      | some c =>
        let syn := { k.syn with free := c + 1, lastDone := max k.syn.lastDone c }
        let s := (s.setCore cell core { k with wait := none, syn := syn }).reach cell c
        let s := if x.gMat then s.openGate cell core 0 c x.tag else s
        let s := if x.gVec then s.openGate cell core 1 c x.tag else s
        let s := if x.gMov then s.openGate cell core 2 c x.tag else s
        let s := s.markSeen x.flag (cell * 32 + core) x.target
        let v := (g.value).toNat
        let act := (s.actOfCell cell).elim 0 (·.desc.act)
        done (s.trace 4 x.tag (tracePlace cell core 3 0) act c (x.flag.flag.val + x.flag.cell.val * 2 ^ 8 + v * 2 ^ 16))
  | .comm g =>
    match (s.group g).run with
    | none => done s
    | some r =>
      match r.kind with
      | .wait x =>
        let fl := s.flag x.flag
        if reached fl.value x.target then
          let act := (s.actOfGroup g).elim 0 (·.desc.act)
          let s := (s.setRun g none).markSeen x.flag (4096 + g) x.target
          done (s.trace 4 x.tag (tracePlace 0 0 4 g) act cycle
            (x.flag.flag.val + x.flag.cell.val * 2 ^ 8 + fl.value.toNat * 2 ^ 16))
        else done s
      | _ => done s

/-! ## Overrun and expiry (R54, R164) -/

/-- OVERRUN, once for an act, and BUSY in the markers (R54). -/
def State.overrun (s : State) (act : Nat) : State :=
  match s.acts.find? fun a => decide (a.desc.act = act) with
  | none => s
  | some a =>
    if a.overran then s.setAct { a with busy := true }
    else
      let s := (s.setAct { a with overran := true, busy := true }).inc R.cueOverrunCount 1
      s.raise 0x0101 pgCUE { detail := act, act := some a }

/-- The record of an expired wait: event, capture of the first since cleared, trace (R164). -/
def State.waitRecord (s : State) (code cell core queue group : Nat) (x : WaitSt) (a : ActiveAct) : State :=
  let g := s.flag x.flag
  let v := g.value.toNat
  let d := x.flag.flag.val + x.flag.cell.val * 2 ^ 8 + v * 2 ^ 16
  let info : EvInfo :=
    { tag := x.tag, tag2 := g.writer, cell := cell, core := core, queue := queue, group := group, detail := d, act := some a }
  let s := s.raise code (if code = 0x0204 then pgCELL cell else pgCOLL) info
  let s := s.inc R.cmdWxCount 1
  let s :=
    if s.wxHeld then s
    else
      let s := (s.set R.cmdWxTag x.tag.toNat).set R.cmdWxFlagNumber x.flag.flag
      let s := (s.set R.cmdWxFlagCell x.flag.cell).set R.cmdWxFlagValue v
      let s := (s.set R.cmdWxWriter g.writer.toNat).set R.cmdWxWhereCell cell
      let s := ((s.set R.cmdWxWhereCore core).set R.cmdWxWhereQueue queue).set R.cmdWxWhereGroup group
      { s with wxHeld := true }
  s.trace 5 x.tag (tracePlace cell core queue group) a.desc.act g.writer.toNat d

/-- Every queue of a core drops what it holds and what is to come (R164). -/
def EngQ.discard (e : EngQ) : EngQ := { e with stream := [], held := [], gates := [] }

def CoreSt.discard (k : CoreSt) : CoreSt :=
  { k with mat := k.mat.discard, vec := k.vec.discard, mov := k.mov.discard, syn := k.syn.discard, wait := none,
           discarded := true }

/-- A wait reaches its timeout boundary without having completed (R163, R164). -/
def execWaitExpired (w : Waiter) (s : State) : Host.Outcome State Fault Refusal :=
  match w with
  | .core cell core =>
    let k := s.core cell core
    match k.wait, s.actOfCell cell with
    | some x, some a =>
      if s.cueNow + 1 < x.expires then done s
      else
        let s := s.waitRecord 0x0204 cell core 3 0 x a
        let s := s.setCore cell core k.discard
        let s := (s.overrun a.desc.act).causeIn (some a) vCOMMAND
        done (s.abandonAct a)
    | _, _ => done s
  | .comm g =>
    match (s.group g).run, s.actOfGroup g with
    | some r, some a =>
      match r.kind with
      | .wait x =>
        if s.cueNow + 1 < x.expires then done s
        else
          let s := s.waitRecord 0x0501 0 0 4 g x a
          let s := s.setGroup g { s.group g with run := none, stream := [], held := [] }
          let s := (s.overrun a.desc.act).causeIn (some a) vCOMMAND
          done (s.abandonAct a)
      | _ => done s
    | _, _ => done s

end Sys2Proof.Machine
end

