-- ==== Sys2Proof/Machine/Cue.lean ====
section
/-! DEFINITION. Acts and cue boundaries (R44 to R59, R153, R158, R454 to R456, R496): starting an act, the order of work at a boundary,
the end of an act, and the refill of the engine queues. -/

namespace Sys2Proof.Machine

open Sys2Proof

/-! ## Starting an act -/

/-- A queue as it stands before act cycle 0 (R153): the first 64 commands of its stream. -/
def EngQ.load (tags : List Word) : EngQ :=
  { EngQ.empty with stream := tags.drop 64, held := (tags.take 64).map fun t => (t, 0) }

/-- The tags of one queue among the streams that the Prompter expands. -/
def streamOf (l : List (Nat × Nat × Nat × List Word)) (cell core queue : Nat) : List Word :=
  match l.find? fun x => x.1 == cell && x.2.1 == core && x.2.2.1 == queue with
  | some x => x.2.2.2
  | none => []

/-- A core when an act starts: its four queues loaded, nothing under way; its stores and finished tiles stand. -/
def CoreSt.enter (k : CoreSt) (tags : Nat → List Word) : CoreSt :=
  { k with mat := EngQ.load (tags 0), vec := EngQ.load (tags 1), mov := EngQ.load (tags 2), syn := EngQ.load (tags 3),
           wait := none, discarded := false, lastMma := none, lastPush := 0,
           priv := k.priv.map (fun t => { t with ready := 0, first := 0 }),
           ftq := k.ftq.filter fun e => e.freeAt.isNone }

/-- A cell when an act starts: every flag 0 (R159), act cycle 0; only a flagged command of another act may still reach it. -/
def CellSt.enter (c : CellSt) : CellSt :=
  { c with flags := [], cycle := 0,
           wins := (c.wins.filter fun w => w.op.isSome && !w.landed).map fun w =>
             { w with issue := 0, rdUntil := 0, wrFrom := 0, visible := 1 } }

/-- A communication queue when an act starts. -/
def GroupSt.enter (x : GroupSt) (tags : List Word) : GroupSt :=
  { x with stream := tags.drop 256, held := tags.take 256, run := none, abandoned := false, drops := 0,
           issued := 0 }

/-- Keys without repeats, ascending. -/
def distinct (l : List Nat) : List Nat := l.foldl (fun a n => if a.contains n then a else insertNat n a) []

/-- The streams of an act (R153, R181, R416): what the Prompter expands from its segment in the image as it stands in memory, empty
when the segment fails its CRC. -/
def streamsOf (image : List Byte) (d : ActDesc) (chip : Nat) : List (Nat × Nat × Nat × List Word) :=
  if Config.segmentCrcOk image d.segment then
    (Config.expandSegment image d.segment chip).filter fun x =>
      if x.1 < 128 then bitAt d.rows (x.1 / 8) else bitAt d.groups (x.1 - 128)
  else []

/-- Queues, flags and counts of an act's rows and groups before its act cycle 0 (R111, R127, R153, R159). -/
def State.loadStreams (s : State) (d : ActDesc) (l : List (Nat × Nat × Nat × List Word)) : State :=
  let inRows := fun (cell : Nat) => bitAt d.rows (cell / 8)
  let s := s.dropTierWins d.rows
  let s : State := { s with cells := s.cells.map fun (c : Nat × CellSt) => if inRows c.1 then (c.1, c.2.enter) else c }
  let busy := fun (o : Nat) => o == 0x48 || o == 0x7C
  let s := s.clearWords (fun p => decide (0x100 ≤ p ∧ p < 0x180) && inRows (p - 0x100)) busy
  let keys := distinct (((s.cores.map (·.1)).filter fun k => inRows (k / 32)) ++
    (l.filter fun x => decide (x.1 < 128)).map fun x => x.1 * 32 + x.2.1 % 32)
  let s := keys.foldl (fun (s : State) k =>
    s.setCore (k / 32) (k % 32) ((s.core (k / 32) (k % 32)).enter (streamOf l (k / 32) (k % 32)))) s
  (setBitsOf 16 d.groups).foldl (fun (s : State) g =>
    s.setGroup g ((s.group g).enter (streamOf l (128 + g) 0 4))) s

/-- The per-step scalar blocks under OWNER (R283). -/
def State.writeScalarBlocks (s : State) (d : ActDesc) (p : Program) : State :=
  (Config.scalarBlocks p.image d.act).foldl (fun (s : State) b =>
    match s.upd.groups[b.1]? with
    | some g =>
      if g.valid ∧ !g.net ∧ b.2.1 < 4096 ∧ bitAt d.rows (b.2.1 / 256) ∧ b.2.2 + 64 ≤ LSBYTES then
        s.lsWrite (b.2.1 / 32) (b.2.1 % 32) b.2.2 (scalarBlock g (s.scalarsFor b.1 g))
      else s
    | none => s) s

/-- Module-level trace records (R176, R177). -/
def State.traceAct (s : State) (type : Nat) (d : ActDesc) (d0 d1 : Nat) : State :=
  s.trace type (BitVec.ofNat 32 (d.program * 2 ^ 24)) traceModule d.act d0 d1

/-- A Curtain act starts at boundary `n` (R193, R313): its outcome boundary may come at `deadline` + 1. -/
def State.startCurtain (s : State) (deadline : Nat) : State :=
  let s := s.startPreparation
  { s with commit := s.commit.begin, job := s.job.map fun j => { j with outcomeAt := some (deadline + 1) } }

/-- Parameter groups with a property. -/
def State.groupsThat (s : State) (f : UGroup → Bool) : List Nat :=
  s.upd.groups.zipIdx.filterMap fun g => if f g.1 then some g.2 else none

/-- An act starts at boundary `n` (R52, R53). -/
def State.startAct (s : State) (n : Nat) (d : DueAct) : State :=
  match s.prog d.desc.program with
  | none => s
  | some p =>
    let first : Bool := (s.job.elim false (·.fresh)) && d.desc.type != 2
    let s : State := if first ∨ s.upd.scalars.isEmpty then s.deriveScalars else s
    let s : State := if first then { s with job := s.job.map fun j => { j with fresh := false } } else s
    let a : ActiveAct :=
      { desc := d.desc, start := n, deadline := d.base + d.desc.deadline + s.shift, overran := false, busy := false, once := [],
        minClock := s.get R.pwrClockMhz, frozen := s.groupsThat (·.frozen), strict := s.groupsThat (·.strict) }
    let s := s.visit p.off p.len
    let s := s.loadStreams d.desc (streamsOf (s.peek p.off p.len) d.desc (s.chip.getD 0))
    let s : State := { s with acts := s.acts ++ [a], pwr := { s.pwr with lead := false, leadStay := false, throttleOnce := false } }
    let s := (s.writeScaleWords a).writeScalarBlocks d.desc p
    let s := if d.desc.type = 3 then s.startCurtain a.deadline else s
    s.traceAct 1 d.desc (n % 2 ^ 32) s.shift

/-! ## At a boundary (R52) -/

/-- Step 1: acts whose deadline has come. -/
def State.deadlineCheck (s : State) (n : Nat) : State :=
  (s.acts.filter fun a => decide (a.deadline ≤ n)).foldl (fun (s : State) a => s.overrun a.desc.act) s

/-- A2A DROP, once for each group in which the act has dropped rows, with their number (R264, R465). -/
def State.tellDrops (s : State) (a : ActiveAct) : State :=
  (setBitsOf 16 a.desc.groups).foldl (fun (s : State) g =>
    let n := (s.group g).drops
    if n = 0 then s
    else (s.setGroup g { s.group g with drops := 0 }).raise 0x0503 pgCOLL { queue := 4, group := g, detail := n, act := some a }) s

/-- An act's rows are left (R142, R148): counts still to come are made, claimed entries whose last reader has issued are free, landed
windows in the tiers go. -/
def State.leaveRows (s : State) (rows : Nat) : State :=
  let s := (s.settleRows rows).dropTierWins rows
  { s with cores := s.cores.map fun (k : Nat × CoreSt) =>
      if bitAt rows (k.1 / 256) then (k.1, { k.2 with ftq := k.2.ftq.filter (·.freeAt.isNone) }) else k }

/-- An aborted act (R58): its queues stop; what has been issued ends as it would. -/
def State.abortAct (s : State) (a : ActiveAct) : State :=
  let s := ((s.leaveRows a.desc.rows).tellDrops a).raise 0x0102 pgCUE { detail := a.desc.act, act := some a }
  let s : State := { s with
    cores := s.cores.map fun (k : Nat × CoreSt) => if bitAt a.desc.rows (k.1 / 256) then (k.1, k.2.discard) else k,
    acts := s.acts.filter fun b => decide (b.desc.act ≠ a.desc.act) }
  (setBitsOf 16 a.desc.groups).foldl (fun (s : State) g => s.emptyGroup g) s

/-- Step 3: the hold allowance of the step is spent (R58). It acts once for a step: an act that passes its deadline at a later boundary
of that step runs on, and an Intermission act that has not started, which belongs to no step (R496), still starts (DESIGN CHOICE,
log 68). -/
def State.holdLimitCheck (s : State) (n : Nat) : State :=
  match s.job with
  | none => s
  | some j =>
    if j.skipping ∨ s.shift ≤ j.shiftMark + s.get R.cueHoldLimit then s
    else
      let s := s.cause vHOLD
      let s := (s.acts.filter fun a => decide (a.deadline ≤ n)).foldl (fun (s : State) a => s.abortAct a) s
      { s with job := some { j with skipping := true, due := j.due.filter fun d => d.desc.type == 3 || d.base != j.base } }

/-- The Intermission acts of a program that run after a commit which brings the count to `count` (R496). -/
def Program.intermissions (p : Program) (count : Nat) : List ActDesc :=
  p.acts.filter fun a => a.type == 2 && a.every != 0 && count % a.every == 0

/-- The job after an outcome boundary (R456, R496). -/
def State.nextStep (s : State) (committed : Bool) : State :=
  let s := s.forgetStep
  match s.job with
  | none => s
  | some j =>
    match s.prog j.program with
    | none => s
    | some p =>
      if j.ending then { s with job := none }.set R.mgmtJobState 0
      else
        let run := if committed then p.intermissions s.stepCount else []
        let base := j.base + run.foldl (fun m a => max m (a.deadline + 1)) p.stepCues
        { s with job := some { j with
            base := base, due := j.due ++ (run.map fun a => ⟨a, j.base⟩) ++ p.stepActs base, fresh := true,
            skipping := false, shiftMark := s.shift, outcomeAt := none } }

/-- Step 5: the outcome of a Curtain, and the job's next step. A program without a Curtain act goes on when every act of a step has
started (DESIGN CHOICE, log 23). -/
def State.outcomeStep (s : State) (n : Nat) (held : Bool) : State :=
  match s.job with
  | none => s
  | some j =>
    match j.outcomeAt, s.commit.outcome with
    | some at_, some commit => if held ∨ n < at_ then s else (s.outcomeBoundary n held).nextStep commit
    | some _, none => s
    | none, _ =>
      if !j.due.isEmpty then s
      else if j.ending then (if s.acts.isEmpty then s.nextStep false else s)
      else s.nextStep false

/-- Step 6: acts that are due, in table order. -/
def State.startActs (s : State) (n : Nat) : State :=
  match s.job with
  | none => s
  | some j =>
    let due := j.due.filter fun d => d.base + d.desc.start + s.shift == n
    let s : State := { s with job := some { j with due := j.due.filter fun d => d.base + d.desc.start + s.shift != n } }
    due.foldl (fun (s : State) d => s.startAct n d) s

/-- The hops that this module's markers advertise (R40, R43). -/
def State.hopsOut (s : State) : Nat :=
  if s.flagReg R.cueAlignCtrlRoot then 0
  else if s.cue.hasParent ∨ s.get R.cueAlignStatusState = 3 then s.get R.cueAlignStatusHops
  else 0xFF

/-- The cue marker (R45, R338). -/
def State.marker (s : State) (f : Flood) : CtlWord :=
  let n := s.cueNow
  s.ctlWord 1 0 [n % 2 ^ 32, n / 2 ^ 32, f.digOr.toNat + f.digAnd.toNat * 2 ^ 16,
    boolNat f.busy + boolNat f.accept * 2 + s.hopsOut * 4 + s.get R.cuePeriodUs * 2 ^ 16]

/-- Step 7: the marker, on every trained port. -/
def State.markersOut (s : State) (f : Flood) : State :=
  (portList.filter s.portUp).foldl (fun (s : State) p => s.sendCtl p 1 (s.marker f)) s

/-- The first frame that a port sends after a boundary carries a ledger flit, also where the port trains first (R344). -/
def State.ledgersDue (s : State) : State := portList.foldl State.oweLedger s

/-- The four ageing offsets. -/
def State.setOffsets (s : State) (l : List Nat) : State :=
  [0, 1, 2, 3].foldl (fun (s : State) d => s.set (R.pwrAgeOffset.at_ d) (l.getD d 0)) s

/-- The deadline boundary of a completed Intermission act (R380): offsets that were planned for it come into force. -/
def State.gapEnds (s : State) (n : Nat) : State :=
  if s.pwr.gap.any fun d => decide (d ≤ n) then
    let s := match s.pwr.planned with
      | some l => s.setOffsets l
      | none => s
    { s with pwr := { s.pwr with gap := none, planned := none, testEnd := none } }
  else s

/-- A module with no torus port and no root has no cue to follow and starts no act (R47). Its cues count as held (DESIGN CHOICE, log
69). -/
def State.leaderless (s : State) : Bool := s.torusPorts.isEmpty && !s.flagReg R.cueAlignCtrlRoot

/-- The cue that the next boundary begins (R44). -/
def State.nextCue (s : State) : Nat := (s.cueNow + 1) % 2 ^ 64

/-- The cue that ends is held (R47, R52). -/
def State.heldNow (s : State) : Bool := s.cue.flood.busy || s.cue.flood.held || s.leaderless

/-- Steps 1 to 3 of R52: the state in which step 4 finds the module at its next boundary. -/
def State.toSheets (s : State) : State :=
  let n := s.nextCue
  let held := s.heldNow
  let s : State := { s with evCount := [], cue := { s.cue with boundaryTime := s.time } }
  let s := s.set2 R.cueCurCueLo R.cueCurCueHi n
  let s := (s.ledgersDue.gapEnds n).deadlineCheck n
  let s := if held then (s.set R.cueShift ((s.shift + 1) % 2 ^ 32)).inc R.cueHoldCues 1 else s
  s.holdLimitCheck n

/-- Everything a module does at its next cue boundary. -/
def State.boundary (s : State) : State :=
  let n := s.nextCue
  let fl := s.cue.flood
  let held := s.heldNow
  let (s, accept, digest) := s.toSheets.sheetBoundary n fl
  let s := s.outcomeStep n held
  let s : State := if held then { s with pwr := { s.pwr with leadStay := s.pwr.leadStay || s.pwr.lead } } else s.startActs n
  let own : Flood :=
    { busy := s.acts.any (·.busy), held := false, accept := accept, digOr := BitVec.ofNat 16 digest,
      digAnd := BitVec.ofNat 16 digest }
  let s : State := { s with cue := { s.cue with prev := fl, flood := own } }
  s.markersOut own

def execCueBoundary (s : State) : Host.Outcome State Fault Refusal :=
  if s.dataOn then done s.boundary else done s

/-! ## Completion (R56, R158, R272, R386) -/

def EngQ.idle (e : EngQ) : Bool := e.stream.isEmpty && e.held.isEmpty

/-- Nothing of a core is still to issue, and what it issued has completed by act cycle `t`. -/
def CoreSt.idle (k : CoreSt) (t : Nat) : Bool :=
  k.mat.idle && k.vec.idle && k.mov.idle && k.syn.idle && k.wait.isNone && k.priv.isEmpty &&
    decide (k.mat.lastDone ≤ t ∧ k.vec.lastDone ≤ t ∧ k.mov.lastDone ≤ t ∧ k.syn.lastDone ≤ t)

def GroupSt.idle (x : GroupSt) : Bool := x.stream.isEmpty && x.held.isEmpty && x.run.isNone

/-- The act's last command has completed (R158); a Curtain act's also needs its final decision and its preparation (R193, R313). -/
def State.actDone (s : State) (a : ActiveAct) (t : Nat) : Bool :=
  (s.cores.all fun k => !bitAt a.desc.rows (k.1 / 256) || k.2.idle t) &&
  (s.movers.all fun m => !bitAt a.desc.rows (m.cell / 8)) &&
  ((setBitsOf 16 a.desc.groups).all fun g => (s.group g).idle) &&
  (a.desc.type != 3 || (s.commit.outcome.isSome && s.scale.ready))

/-- Time from completion to the absolute deadline, in ns (R56). -/
def State.slack (s : State) (a : ActiveAct) : Int :=
  (s.cue.boundaryTime.toNat : Int) + ((a.deadline : Int) - s.cueNow) * (s.get R.cuePeriodUs * 1000 : Nat) - s.time.toNat

/-- The slack record (R272). -/
def State.slackRecord (s : State) (a : ActiveAct) (m : ActMeasure) (slack : Nat) : State :=
  if !s.flagReg R.collSlackCtrlEn then s
  else
    let size := 2 ^ s.get R.collSlackSize
    let wr := s.get R.collSlackWrptr % size
    let b := wordsLe [s.stepCount % 2 ^ 32, a.desc.act % 2 ^ 16 + a.desc.program % 2 ^ 8 * 2 ^ 16, slack, m.localWait % 2 ^ 32,
      m.creditWait % 2 ^ 32, m.arrivalWait % 2 ^ 32, a.minClock % 2 ^ 16, a.start % 2 ^ 32]
    let s := s.tierWrite (s.get2 R.collSlackBaseLo R.collSlackBaseHi + 32 * wr) b []
    s.set R.collSlackWrptr ((wr + 1) % size)

/-- The act completes. A slack beyond a signed 32-bit number is kept modulo 2^32 (DESIGN CHOICE, log 67: R56 gives no value). -/
def State.endAct (s : State) (a : ActiveAct) (m : ActMeasure) : State :=
  let s := (s.leaveRows a.desc.rows).tellDrops a
  let s := (setBitsOf 16 a.desc.groups).foldl State.dropEarly s
  let slack := unsignedOf 32 (s.slack a)
  let s := s.set R.cueLastSlack slack
  let s := s.slackRecord a m slack
  let s := if s.flagReg R.pwrCtrlLearn then s.set (R.pwrExpectW.at_ (a.desc.phase % 8)) (min m.peakW 8191) else s
  let s := s.traceAct 2 a.desc slack m.actCycle
  let s : State := if a.intermission then { s with pwr := { s.pwr with gap := some a.deadline } } else s
  { s with acts := s.acts.filter fun b => decide (b.desc.act ≠ a.desc.act) }

def execActComplete (second : Bool) (m : ActMeasure) (s : State) : Host.Outcome State Fault Refusal :=
  match s.acts[if second then 1 else 0]? with
  | none => done s
  | some a => if s.dataOn && s.actDone a m.actCycle then done (s.endAct a m) else done s

/-! ## Refill (R153) -/

/-- The queue of a cell that is refilled next: the fewest commands, then the lowest core, then matrix, vector, mover, sync. Queues
with nothing to come or with no room are passed over. -/
def State.neediest (s : State) (cell : Nat) : Option (Nat × Nat) :=
  let l := (s.cores.filter fun k => k.1 / 32 == cell).flatMap fun k =>
    (List.range 4).filterMap fun q =>
      let e := k.2.queue q
      if e.stream.isEmpty ∨ 64 ≤ e.held.length then none else some (e.held.length, k.1 % 32, q)
  (l.foldl (fun (b : Option (Nat × Nat × Nat)) x =>
    match b with
    | none => some x
    | some y => if x.1 < y.1 then some x else some y) none).map (·.2)

def State.refill (cell cycle : Nat) : Nat → State → State
  | 0, s => s
  | n + 1, s =>
    match s.neediest cell with
    | none => s
    | some (core, q) =>
      let k := s.core cell core
      let e := k.queue q
      let e := { e with stream := e.stream.drop 1, held := e.held ++ (e.stream.take 1).map fun t => (t, cycle + 1) }
      State.refill cell cycle n (s.setCore cell core (k.setQueue q e))

/-- Up to 8 commands of a core cycle; they can issue from the next cycle. -/
def execQueueRefill (cell : CellId) (cycle : Nat) (s : State) : Host.Outcome State Fault Refusal :=
  if s.dataOn && (s.actOfCell cell).isSome then done (State.refill cell cycle 8 s) else done s

end Sys2Proof.Machine
end

