-- ==== Sys2Proof/Machine/Align.lean ====
section
/-! DEFINITION. Cue alignment (R38 to R47, R445, R446, R487): link delays, the root's count, parents, lock and loss, received
markers, and reading the counter. -/

namespace Sys2Proof.Machine

open Sys2Proof

def State.root (s : State) : Bool := s.flagReg R.cueAlignCtrlRoot

def State.alignState (s : State) : Nat := s.get R.cueAlignStatusState

/-- 100 ms, the seed window (R40). -/
def SEEDWINDOW : DWord := 100000000

def Waiting.shift (d : DWord) : Waiting → Waiting
  | .write off data po since => .write off data po (since.map (· + d))
  | .mover id since => .mover id (since.map (· + d))
  | .remote r since => .remote r (since.map (· + d))
  | .cxl a since => .cxl a (since.map (· + d))
  | .hostRead f => .hostRead f

def PortSt.shift (d : DWord) (x : PortSt) : PortSt :=
  { x with probeSent := x.probeSent.map (· + d), lastProbe := x.lastProbe + d, nbrTime := x.nbrTime.map (· - d) }

/-- A counter is set once (R38): its new value, and the cue numbering it comes with. The module's own marks on the counter move
with it. -/
def State.setCounter (s : State) (t : DWord) (cue : Nat) : State :=
  let d := t - s.time
  let s : State := { s with
    time := t, cue := { s.cue with counterSet := true, boundaryTime := s.cue.boundaryTime + d },
    start := { s.start with stepBegan := s.start.stepBegan + d, step0End := s.start.step0End + d },
    pwr := { s.pwr with planAt := s.pwr.planAt + d, testEnd := s.pwr.testEnd.map (· + d) },
    ports := s.ports.map fun (x : Nat × PortSt) => (x.1, x.2.shift d) }
  let s := s.setMem { s.mem with snapAt := s.mem.snapAt.map (· + d), waiting := s.mem.waiting.map (Waiting.shift d) }
  s.set2 R.cueCurCueLo R.cueCurCueHi (cue % 2 ^ 64)

/-- The root's counter counts as set (R40, R445): it follows no one, so it is LOCKED. -/
def State.rootSet (s : State) : State :=
  ({ s with cue := { s.cue with counterSet := true, phase := .done, hasParent := false } }).set R.cueAlignStatusState 2

/-- Torus ports with a marker of their neighbour's own since this alignment began that advertises fewer than 0xFF hops. -/
def State.candidates (s : State) : List Nat :=
  s.torusPorts.filter fun p => let x := s.port p; x.fresh && x.nbrTime.isSome && decide (x.nbrHops < 255)

/-- The count of a neighbour as its last marker gives it: timestamp and delay, counted on (R40); DELAY is in units of 1/16 ns. -/
def State.countFrom (s : State) (p : Nat) : DWord :=
  s.time + (s.port p).nbrTime.getD 0 + BitVec.ofNat 64 (s.get (R.portDelay p) / 16)

def State.cueFrom (s : State) (p : Nat) : Nat := s.cueNow + (s.port p).nbrCue

/-- The fewest hops; ties to the lowest port number. -/
def State.fewest (s : State) (l : List Nat) : Option Nat :=
  l.foldl (fun b p => match b with
    | none => some p
    | some q => if (s.port p).nbrHops < (s.port q).nbrHops then some p else some q) none

/-- A module follows a parent (R40). -/
def State.follow (s : State) (p : Nat) : State :=
  let s := (s.set R.cueAlignStatusParent p).set R.cueAlignStatusHops ((s.port p).nbrHops + 1)
  { s with cue := { s.cue with hasParent := true, inBand := 0, outBand := 0 } }

/-- A module that is not the root takes its parent when a neighbour advertises one. -/
def State.chooseParent (s : State) : State :=
  match s.fewest s.candidates with
  | none => s
  | some p =>
    let s := if s.cue.counterSet then s else s.setCounter (s.countFrom p) (s.cueFrom p)
    let s := s.follow p
    { s with cue := { s.cue with phase := .done } }

/-- The root, once every torus port has measured its delay (R40 step 2). A seed edge is held as SEED_TIME less its own count. -/
def State.rootDecides (s : State) : State :=
  if s.cue.counterSet then s.rootSet
  else match s.candidates.head? with
    | some p => (s.setCounter (s.countFrom p) (s.cueFrom p)).rootSet
    | none =>
      if s.flagReg R.cueAlignCtrlUseSeed then
        match s.cue.seedEdge with
        | some d => (s.setCounter (s.time + d) 0).rootSet
        | none => { s with cue := { s.cue with phase := .seedWindow, windowEnd := some (s.time + SEEDWINDOW) } }
      else (s.set2 R.cueCurCueLo R.cueCurCueHi 0).rootSet

/-- Step 1 of an alignment has ended. -/
def State.measured (s : State) : State :=
  if s.root then s.rootDecides
  else ({ s with cue := { s.cue with phase := .waiting } } : State).chooseParent

/-! ## Delay probes (R40, R338) -/

/-- A probe with an index, telling when the peer's last probe arrived. Its own time is kept until the peer tells of it. -/
def State.sendProbe (s : State) (p index : Nat) : State :=
  let x := s.port p
  let s := s.setPort p { x with probeSent := x.probeSent ++ [s.time] }
  s.sendCtl p 0 (s.ctlWord 5 0 [x.lastProbe.toNat % 2 ^ 32, x.lastProbe.toNat / 2 ^ 32, index % 1024])

/-- An alignment begins (R40). A module that reports LOCKED or HOLDOVER keeps reporting it. -/
def State.beginAlign (s : State) : State :=
  let l := s.torusPorts
  let s : State := { s with cue := { s.cue with
    phase := .probing, began := s.time, measured := [], seedEdge := none, windowEnd := none, inBand := 0, outBand := 0 } }
  let s := if s.alignState = 0 then s.set R.cueAlignStatusState 1 else s
  let s := portList.foldl (fun (s : State) p => s.setPort p { s.port p with
    probes := 0, probeSum := 0, probeSent := [], finals := 0, measured := false, fresh := false, nbrTime := none, nbrHops := 255 }) s
  if l.isEmpty then s.measured else l.foldl (fun s p => s.sendProbe p 0) s

def execAlignStart (path : Path) (s : State) : Host.Outcome State Fault Refusal :=
  s.writeAt path R.cueAlignCtrlStart fun s => if s.dataOn then s.beginAlign else s

/-- A write of ALIGN_CTRL. -/
def State.writeAlignCtrl (s : State) (v : Nat) : State :=
  let s := (s.set R.cueAlignCtrlRoot (v % 2)).set R.cueAlignCtrlUseSeed (v / 2 % 2)
  if bitAt v 2 ∧ s.dataOn then s.beginAlign else s

/-- The port measures its delay: it has fewer than 1,024 round trips. -/
def State.measuring (s : State) (p : Nat) : Bool :=
  decide (s.cue.phase = .probing) && !(s.port p).measured && decide (s.allot p < 6 ∧ (s.port p).probes < 1024)

/-- A delay probe (R40, log 91). It tells when this module's oldest probe not yet told of arrived: with its own times, that is a round
trip, less the time that the peer held it. It is answered, so that the peer gets its round trip: by the next probe while this port
measures, and after that while the peer's index shows that it still measures. An end sends the number of round trips it has as its
index, 1,023 when it has all. -/
def execDelayProbeReceived (p : PortId) (m : Probe) (s : State) : Host.Outcome State Fault Refusal :=
  let w := cwWords m.word
  if !s.dataOn ∨ !s.portIsUp p ∨ !cwCrcOk m.word then done s
  else if bitsOf (w.getD 0 0) 0 8 ≠ 5 then done (s.inc (R.portCwInvalid p) 1)
  else
    let x := s.port p
    let peerSent := BitVec.ofNat 64 (w.getD 1 0 + 2 ^ 32 * w.getD 2 0)
    let mineCame := BitVec.ofNat 64 (w.getD 3 0 + 2 ^ 32 * w.getD 4 0)
    let index := bitsOf (w.getD 5 0) 0 10
    let tells : Bool := mineCame != 0 && mineCame != x.probeTold
    let y : PortSt := { x with
      lastProbe := m.arrived, probeTold := if tells then mineCame else x.probeTold, finals := if index < 1023 then 0 else x.finals + 1 }
    let y : PortSt := match x.probeSent with
      | sent :: l =>
        let total := (m.arrived - sent).toNat
        let held := (peerSent - mineCame).toNat
        if !tells ∨ total < held then y
        else if s.measuring p then { y with probeSent := l, probes := x.probes + 1, probeSum := x.probeSum + (total - held) }
        else { y with probeSent := l }
      | [] => y
    let s := s.setPort p y
    done (if s.measuring p then s.sendProbe p y.probes
      else if index < 1023 ∨ x.finals < 2 then s.sendProbe p 1023
      else s)

/-- A port's 1,024 probes are done: half the mean round trip, in units of 1/16 ns, is its delay (R371). Flood time and the least period come with it (R46). -/
def execAlignMeasureDone (p : PortId) (floodNs : Nat) (s : State) : Host.Outcome State Fault Refusal :=
  let x := s.port p
  if !s.dataOn ∨ s.cue.phase ≠ .probing ∨ x.measured ∨ x.probes < 1024 ∨ 6 ≤ s.allot p then done s
  else
    let s := s.setPort p { x with measured := true }
    let s := s.set (R.portDelay p) (min (x.probeSum * 16 / 2048) (2 ^ 24 - 1))
    let s := s.set R.cueFloodNs (min floodNs (2 ^ 24 - 1))
    let s := s.set R.cueMinPeriodUs (max 20 (min (ceilDiv (2 * floodNs) 1000) 65535))
    let s : State := { s with cue := { s.cue with measured := s.cue.measured ++ [p.val] } }
    done (if s.torusPorts.all s.cue.measured.contains then s.measured else s)

/-! ## The cue seed pair (R40, R487) -/

def validPulse (m : SeedPulse) : Bool := decide (100 ≤ m.width ∧ m.width ≤ 10000 ∧ 1000000 ≤ m.gap)

/-- A pulse at the root. One before the end of the measurement waits for it; one inside the window sets the counter. -/
def execCueSeedPulse (m : SeedPulse) (s : State) : Host.Outcome State Fault Refusal :=
  let c := s.cue
  let seed := BitVec.ofNat 64 (s.get2 R.cueSeedTimeLo R.cueSeedTimeHi)
  if !s.dataOn ∨ !s.root ∨ !s.flagReg R.cueAlignCtrlUseSeed ∨ c.counterSet ∨ !validPulse m ∨ m.edge < c.began then done s
  else match c.phase with
    | .probing => done { s with cue := { c with seedEdge := some (c.seedEdge.getD (seed - m.edge)) } }
    | .seedWindow =>
      if (c.windowEnd.getD 0) < m.edge then done s else done ((s.setCounter (s.time + (seed - m.edge)) 0).rootSet)
    | _ => done s

/-- 100 ms with no valid pulse: the root keeps its own count. -/
def execAlignSeedWindowEnd (s : State) : Host.Outcome State Fault Refusal :=
  if s.dataOn && decide (s.cue.phase = .seedWindow) then done (s.set2 R.cueCurCueLo R.cueCurCueHi 0).rootSet else done s

/-! ## Lock and loss (R40 step 4, R43) -/

def execAlignLocked (s : State) : Host.Outcome State Fault Refusal :=
  if s.dataOn && !s.root && s.cue.hasParent && s.cue.counterSet && decide (64 ≤ s.cue.inBand) then
    done (s.set R.cueAlignStatusState 2)
  else done s

/-- The neighbour behind a port. -/
def State.peerOf (s : State) (p : Nat) : Nat := s.get2 (R.portPeerIdLo p) (R.portPeerIdHi p)

/-- 16 consecutive markers beyond ±2 ns: another parent, or holdover. -/
def execAlignLost (s : State) : Host.Outcome State Fault Refusal :=
  if !s.dataOn ∨ s.root ∨ s.alignState ≠ 2 ∨ !s.cue.hasParent ∨ s.cue.outBand < 16 then done s
  else
    let lost := s.peerOf (s.get R.cueAlignStatusParent)
    let l := s.candidates.filter fun p =>
      s.peerOf p != lost && decide ((s.port p).nbrHops ≤ s.get R.cueAlignStatusHops)
    let s := (s.set R.cueAlignStatusState 3).cause vTIME
    match s.fewest l with
    | some p => done ((s.raise 0x0104 pgCUE { detail := p }).follow p)
    | none =>
      let s : State := { s with cue := { s.cue with hasParent := false, inBand := 0, outBand := 0 } }
      done (s.raise 0x0104 pgCUE { detail := 32 })

/-! ## Markers (R45, R47) -/

def Flood.join (a b : Flood) : Flood :=
  { busy := a.busy || b.busy, held := a.held, accept := a.accept && b.accept, digOr := a.digOr ||| b.digOr,
    digAnd := a.digAnd &&& b.digAnd }

/-- What a marker tells of its cue. -/
def floodOf (w : List Nat) : Flood :=
  let w5 := w.getD 5 0
  let w6 := w.getD 6 0
  { busy := bitAt w6 0, held := false, accept := bitAt w6 1, digOr := BitVec.ofNat 16 w5, digAnd := BitVec.ofNat 16 (w5 / 2 ^ 16) }

/-- A marker goes on to all other ports. -/
def State.relayMarker (s : State) (p : Nat) (w : CtlWord) : State :=
  let l := cwWords w
  let hops := bitsOf (l.getD 0 0) 8 8
  let fwd := cwSeal ((l.take 7).set 0 (l.getD 0 0 - hops * 2 ^ 8 + (hops + 1) % 256 * 2 ^ 8))
  (portList.filter fun q => s.portUp q && decide (q ≠ p)).foldl (fun s q => s.sendCtl q 1 fwd) s

/-- The neighbour's own marker: its hops, time and cue, and the residual when it is the parent's. A root that waits for its seed takes
its count and numbering from a neighbour that carries one (R40, R446). -/
def State.neighbourMarker (s : State) (p : Nat) (w : List Nat) (m : MarkerIn) (cue : Nat) : State :=
  let sent := BitVec.ofNat 64 (w.getD 1 0 + 2 ^ 32 * w.getD 2 0)
  let hops := bitsOf (w.getD 6 0) 2 8
  let s := s.setPort p { s.port p with
    nbrHops := hops, nbrTime := some (sent - m.arrived), nbrCue := (cue + 2 ^ 64 - s.cueNow) % 2 ^ 64, fresh := true }
  if s.cue.hasParent ∧ s.get R.cueAlignStatusParent = p then
    let r := m.residual.natAbs
    let s := s.set R.cueAlignOffset (unsignedOf 16 (max (-32768) (min 32767 m.residual)))
    let s := if hops < 255 then s.set R.cueAlignStatusHops (hops + 1) else s
    { s with cue := { s.cue with
      inBand := if 20 * r ≤ 112 then s.cue.inBand + 1 else 0, outBand := if 32 < r then s.cue.outBand + 1 else 0 } }
  else if s.cue.phase = .waiting ∧ !s.root then s.chooseParent
  else if s.cue.phase = .seedWindow ∧ s.root ∧ !s.candidates.isEmpty then s.rootDecides
  else s

/-- A cue marker on a port. -/
def State.takeMarker (s : State) (p : Nat) (m : MarkerIn) : State :=
  let w := cwWords m.word
  let cue := w.getD 3 0 + 2 ^ 32 * w.getD 4 0
  let now := s.cueNow
  let known := s.cue.counterSet
  let before := (now + 2 ^ 64 - 1) % 2 ^ 64
  if bitsOf (w.getD 6 0) 16 16 ≠ s.get R.cuePeriodUs ∨ (known ∧ cue ≠ now ∧ cue ≠ before) then s.inc (R.portCwInvalid p) 1
  else
    let own : Bool := bitsOf (w.getD 0 0) 8 8 == 0
    let info := floodOf w
    let old := if known ∧ cue = before then s.cue.prev else s.cue.flood
    let new := old.join info
    let s : State :=
      if !known then s
      else if cue = before then { s with cue := { s.cue with prev := new } }
      else (({ s with cue := { s.cue with flood := new } } : State)).setPort p { s.port p with markerCue := some cue }
    let s := if known ∧ new ≠ old then s.relayMarker p m.word else s
    if own ∧ s.allot p < 6 then s.neighbourMarker p w m cue else s

def execCueMarkerReceived (p : PortId) (m : MarkerIn) (s : State) : Host.Outcome State Fault Refusal :=
  if !s.dataOn ∨ !s.portIsUp p ∨ !cwCrcOk m.word then done s
  else if bitsOf m.word.w0.toNat 0 8 ≠ 1 then done (s.inc (R.portCwInvalid p) 1)
  else done (s.takeMarker p m)

/-- No marker of the current cue has come on a port by its end. -/
def execMarkerLate (p : PortId) (s : State) : Host.Outcome State Fault Refusal :=
  if s.dataOn && s.portIsUp p && (s.port p).markerCue != some s.cueNow then
    done (s.raise 0x0106 pgCUE { port := p, detail := s.cueNow % 2 ^ 32 })
  else done s

/-- No torus port has delivered a marker of the current cue. -/
def execCueIsolated (s : State) : Host.Outcome State Fault Refusal :=
  let l := s.torusPorts
  if !s.dataOn ∨ l.isEmpty ∨ l.any (fun p => (s.port p).markerCue == some s.cueNow) then done s
  else
    let s := (s.raise 0x0105 pgCUE { detail := s.cueNow % 2 ^ 32 }).cause vTIME
    done { s with cue := { s.cue with flood := { s.cue.flood with held := true } } }

/-! ## Reading the counter (R39) -/

/-- A read of TIME_LO latches the upper half; on a page that does not answer it returns 0 (R410, R443). -/
def execTimeLoRead (path : Path) (s : State) : Host.Outcome State Fault Refusal :=
  if !s.pathOpen path then done s
  else if !s.pageOpen R.cueTimeLo.page then done ((s.refuseAccess path R.cueTimeLo.addr).emit (.readData path 0))
  else
    let t := s.time.toNat
    done ((s.set R.cueTimeHi (t / 2 ^ 32)).emit (.readData path (BitVec.ofNat 32 t)))

end Sys2Proof.Machine
end

