-- ==== Sys2Proof/Machine/Power.lean ====
section
/-! DEFINITION. Power, clock and heat (R373 to R392, R482): the estimate and the cap, the ramp line, the clock setting, ageing, droop and
the thermal controls. None of them changes a value or a cycle count (R36, R109). -/

namespace Sys2Proof.Machine

open Sys2Proof

def State.setPwr (s : State) (x : PwrSt) : State := { s with pwr := x }

/-- The power controller works on the die (R391): input power, and no trip. -/
def State.dieOn (s : State) : Bool := s.start.powered && !s.start.trip

/-! ## Phase and clock (R373 to R377) -/

def State.opMhz (s : State) (p : Nat) : Nat := s.get (R.pwrOpMhz.at_ (p % 8))

/-- A ramp lead runs, and the act that it leads to is still to start: a skipped act ends it (R58). -/
def State.leading (s : State) : Bool := s.pwr.lead && (match s.job with
  | some j => j.due.any fun d => decide ((d.desc.act, d.base) = s.pwr.leadAct)
  | none => false)

/-- The phase in force (R374). -/
def State.phaseNow (s : State) : Nat :=
  if s.leading then s.pwr.phase
  else (s.acts.map (·.desc.phase)).foldl (fun (b : Option Nat) p =>
    match b with
    | none => some p
    | some q => if s.opMhz q < s.opMhz p then some p else some q) none |>.getD 0

/-- The operating point of the phase in force. -/
def State.opNow (s : State) : Nat := s.opMhz s.phaseNow

/-- The limits of R375 that are in force, each with its code. -/
def State.clockLimits (s : State) : List (Nat × Nat) :=
  [(s.opNow, 0), (s.pwr.capLimit, 1), (s.get R.pwrAgeCeilMhz, 2), (s.pwr.throttle, 3)] ++
  (s.pwr.holdLimit.map fun m => (m, 4)).toList ++ (s.pwr.cooling.map fun m => (m, 5)).toList

/-- The lowest limit; the lower code on a tie. -/
def lowest (l : List (Nat × Nat)) : Nat × Nat :=
  match l with
  | [] => (0, 0)
  | x :: r => r.foldl (fun b y => if y.1 < b.1 then y else b) x

/-- The share of edges that the cell array uses (R375): 700 in check mode (R167), the held clock during a protective hold (R389), and
less, by an amount the spec does not give, while edges are withheld for power or stretched for droop. -/
def State.setEdges (s : State) : State :=
  let base := if s.checkMode then 700 else 1000
  let mhz := s.get R.pwrClockMhz
  let base := match s.pwr.holdClock with
    | some c => if mhz = 0 then base else min base (1000 * c / mhz)
    | none => base
  if s.pwr.limiting ∨ s.pwr.droop then
    let (w, s) := s.drawWord
    s.set R.pwrClockEdgePermil (base * (500 + w.toNat % 501) / 1000)
  else s.set R.pwrClockEdgePermil base

/-- The voltage that a domain needs at a setting, in units of 0.5 mV (R378): its table entry plus its ageing offset. -/
def State.supplyAt (s : State) (mhz d : Nat) : Nat :=
  let i := if d < 2 then min 60 (ceilDiv (mhz - 900) 20) else min 63 (s.get R.pwrTjTemp / 16)
  2 * s.get (R.pwrVtable.at_ (64 * d + i)) + s.get (R.pwrAgeOffset.at_ d)

/-- `x` moved toward `y` by at most `d`. -/
def approach (x y d : Nat) : Nat := if x < y then min (x + d) y else max (x - d) y

/-- The voltages move toward what a setting needs by at most `d` units of 0.5 mV: 2 in the 0.5 µs of one clock step (R376). -/
def State.moveVolts (s : State) (mhz d : Nat) : State :=
  s.setPwr { s.pwr with volts := [0, 1, 2, 3].map fun i => approach (s.pwr.volts.getD i 0) (s.supplyAt mhz i) d }

/-- The voltages of the clocked domains are in place for a setting. -/
def State.voltsReach (s : State) (mhz : Nat) : Bool := [0, 1].all fun i => decide (s.supplyAt mhz i ≤ s.pwr.volts.getD i 0)

/-- THERM.STATE (R393). -/
def State.thermState (s : State) : State :=
  s.set R.pwrThermState
    (if s.pwr.cooling.isSome then 4
     else if s.pwr.holdLimit.isSome then (if s.pwr.recovering then 3 else 2)
     else if s.pwr.throttle < s.opNow then 1 else 0)

/-- One step of limit 4 during recovery (R389): the clock that the cells see rises with it, and the hold ends when it reaches the
operating point. -/
def State.recoverStep (s : State) : State :=
  match s.pwr.holdLimit with
  | some m =>
    if !s.pwr.recovering then s
    else if m + 10 < s.opNow then
      s.setPwr { s.pwr with holdLimit := some (m + 10), holdClock := s.pwr.holdClock.map fun c => max c (m + 10) }
    else s.setPwr { s.pwr with holdLimit := none, holdClock := none, recovering := false }
  | none => s

/-- CLOCK BELOW MINIMUM, once per act (R377). -/
def State.belowMinimum (s : State) (old new : Nat) : State :=
  let hit := s.progs.any fun p => decide (new < p.minClock ∧ p.minClock ≤ old)
  let open_ := s.acts.filter fun a => !a.once.contains (128, 0x0708)
  match open_ with
  | [] => s
  | a :: _ =>
    if !hit then s
    else
      let s := open_.foldl (fun (s : State) a => s.setAct { a with once := a.once ++ [(128, 0x0708)] }) s
      s.raise 0x0708 pgPWR { detail := new, act := some a }

/-- The setting moves to `m`. -/
def State.setClock (s : State) (m limit : Nat) : State :=
  let old := s.get R.pwrClockMhz
  let s := (s.set R.pwrClockMhz m).set R.pwrClockLimit limit
  let s : State := { s with acts := s.acts.map fun (a : ActiveAct) => { a with minClock := min a.minClock m } }
  s.belowMinimum old m

/-- One step of 10 MHz at most toward the lowest limit (R376): up once the voltages for it are in place, down before they fall. -/
def State.clockTick (s : State) : State :=
  let s := s.recoverStep
  let (target, limit) := lowest s.clockLimits
  let old := s.get R.pwrClockMhz
  let s :=
    if old < target then
      let new := min (old + 10) target
      let s := s.moveVolts new 2
      s.setClock (if s.voltsReach new then new else old) limit
    else
      let new := max (old - 10) target
      (s.setClock new limit).moveVolts new 2
  s.setEdges.thermState

def execClockStep (s : State) : Host.Outcome State Fault Refusal :=
  if s.dieOn && s.get R.pwrClockMhz != 0 then done s.clockTick else done s

/-! ## Estimate, cap and ramp line (R381 to R386, R482) -/

/-- The cap the controller works to: CAP.W, 57 A × VIN once VIN has been measured, less 5 % while calibration is lost. -/
def State.effectiveCap (s : State) : Nat :=
  let vin := s.get R.pwrVin
  let cap := if vin = 0 then s.get R.pwrCapW else min (s.get R.pwrCapW) (57 * vin / 100)
  if s.pwr.capCut then cap * 95 / 100 else cap

/-- The least clock a limit may ask for (R389). -/
def CLOCKFLOOR : Nat := 540

/-- The cap controller's limit 1, one step (R382). -/
def State.capStep (s : State) (est : Nat) : State :=
  let cap := s.effectiveCap
  let op := s.opNow
  if cap < est then s.setPwr { s.pwr with capLimit := max CLOCKFLOOR (min s.pwr.capLimit op - 10) }
  else if 100 * est < 98 * cap ∧ s.pwr.capLimit < op then s.setPwr { s.pwr with capLimit := min op (s.pwr.capLimit + 10) }
  else s

/-- Power may fall freely (R384). -/
def State.slewExempt (s : State) : Bool := s.start.trip || s.pwr.cooling.isSome || (s.pwr.holdLimit.isSome && !s.pwr.recovering)

/-- The monitors' test patterns run (R380). -/
def State.testing (s : State) : Bool := s.pwr.testEnd.any fun t => decide (s.time < t)

/-- The level that the ramp line goes toward: what the work would take, with the load of the test patterns at the clock in force on top
(R380, log 79); EXPECT_W of the act led to, or the level reached when a hold has put that act off (R386). -/
def State.lineGoal (s : State) (want : Nat) : Nat :=
  max (if s.leading then (if s.pwr.leadStay then s.pwr.line else s.get (R.pwrExpectW.at_ (s.pwr.phase % 8))) else 0)
    (want + if s.testing then s.pwr.testLoad * s.get R.pwrClockMhz / 2100 else 0)

/-- Stagehand load (R383, R385): what fills the gap from the work to the line, about 1 W for each MHz at most, but never so little that
the estimate leaves the line by more than the slew limit, and never above the cap (log 93). -/
def State.stageLoad (s : State) (line work slew : Nat) : Nat :=
  let least := if s.slewExempt then 0 else line - slew - work
  min (min (line - work) (max (s.get R.pwrClockMhz) least)) (min (s.effectiveCap - work) 4095)

/-- One microsecond (R383): the raw estimate of what the work would take, and the 10 µs mean input current in units of 10 mA. Work above
the line is limited, and takes no more than the slew limit above it (log 79). -/
def State.estimateTick (s : State) (raw current : Nat) : State :=
  let want := min (raw * s.get R.pwrCalGain / 4096) 8191
  let was := s.get R.pwrEstW
  let slew := s.get R.pwrSlewWPerUs
  let line := if s.slewExempt ∧ want < s.pwr.line then want else approach s.pwr.line (s.lineGoal want) slew
  let work := min want (line + slew)
  let stage := s.stageLoad line work slew
  let est := min (work + stage) 8191
  let s := s.setPwr { s.pwr with line := line, limiting := decide (line < want) || decide (5800 ≤ current) }
  let s := (s.set R.pwrStageW stage).set R.pwrEstW est
  let s := if est + slew < was then s.inc R.pwrFallExcessUs 1 else s
  (s.capStep est).setEdges

def execPowerEstimateTick (raw : Nat) (current10us : Nat) (s : State) : Host.Outcome State Fault Refusal :=
  if s.start.powered then done (s.estimateTick raw current10us) else done s

/-- One millisecond's comparison (R381): a reading out of range is discarded. -/
def State.calibrate (s : State) (measured vin iin rawMean : Nat) : State :=
  if vin < 5000 ∨ 8500 < vin ∨ 7000 < iin then s.setPwr { s.pwr with badCals := s.pwr.badCals + 1 }
  else
    let (w, s) := s.drawWord
    let gain := if rawMean = 0 then (if measured = 0 then 3277 + w.toNat % 1844 else 5120) else measured * 4096 / rawMean
    let gain := max 3277 (min 5120 gain)
    let old := s.get R.pwrCalGain
    let s := s.set R.pwrCalGain (approach old gain (old * 2 / 100))
    let s := ((s.set R.pwrMeasW (min measured 8191)).set R.pwrVin vin).set R.pwrIin iin
    s.setPwr { s.pwr with badCals := 0, capCut := false }

def execCalibrationTick (measured vin iin rawMean : Nat) (s : State) : Host.Outcome State Fault Refusal :=
  if s.start.powered then done (s.calibrate measured vin iin rawMean) else done s

def execCalibrationLost (s : State) : Host.Outcome State Fault Refusal :=
  if s.start.powered && decide (16 ≤ s.pwr.badCals) && !s.pwr.capCut then
    done ((s.setPwr { s.pwr with capCut := true }).raise 0x0707 pgPWR)
  else done s

/-- The variant's upper bound (R6). -/
def capBound : Nat := if Config.extended then 2600 else 3000

/-- A write of CAP.W: the 12-bit field, clamped (R382). -/
def State.writeCap (s : State) (v : Word) : State :=
  let w := v.toNat % 4096
  let c := max 1200 (min capBound w)
  (s.set R.pwrCapW c).set R.pwrCapClamped (boolNat (decide (c ≠ w)))

def execCapWrite (path : Path) (v : Word) (s : State) : Host.Outcome State Fault Refusal :=
  s.writeAt path R.pwrCapW fun s => s.writeCap v

/-- The start of a due act as it stands. -/
def State.startOf (s : State) (d : DueAct) : Nat := d.base + d.desc.start + s.shift

/-- The act that starts next. -/
def State.nextDue (s : State) : Option DueAct :=
  match s.job with
  | none => none
  | some j => j.due.foldl (fun (b : Option DueAct) d =>
      match b with
      | none => some d
      | some y => if s.startOf d < s.startOf y then some d else some y) none

/-- The ramp lead of a phase in ns (R386). -/
def State.rampLead (s : State) (phase : Nat) : Int :=
  ((s.get (R.pwrExpectW.at_ (phase % 8)) : Int) - s.get R.pwrEstW) * 1000 / (s.get R.pwrSlewWPerUs : Int) +
    (s.get R.pwrLeadMarginUs * 1000 : Nat)

/-- Ns from the last boundary to boundary `n`. -/
def State.untilCue (s : State) (n : Nat) : Int := ((n : Int) - s.cueNow) * (s.get R.cuePeriodUs * 1000 : Nat)

/-- The lead to the act that starts next begins. One that has begun stands, at the level that its line has reached, until its act
starts. -/
def execRampLeadStart (s : State) : Host.Outcome State Fault Refusal :=
  match s.nextDue with
  | none => done s
  | some d =>
    if s.dataOn && !s.leading &&
        decide ((s.cue.boundaryTime.toNat : Int) + s.untilCue (s.startOf d) - s.rampLead d.desc.phase ≤ s.time.toNat) then
      done (s.setPwr { s.pwr with
        lead := true, leadAct := (d.desc.act, d.base), leadStay := false, phase := d.desc.phase })
    else done s

/-! ## Droop (R387) -/

def execDroopDetect (s : State) : Host.Outcome State Fault Refusal :=
  if s.dieOn && !s.pwr.droop then done (((s.setPwr { s.pwr with droop := true }).inc R.pwrDroopEvents 1).setEdges) else done s

def execDroopStretchEnd (cycles : Nat) (s : State) : Host.Outcome State Fault Refusal :=
  if s.dieOn && s.pwr.droop then
    done (((s.setPwr { s.pwr with droop := false }).inc R.pwrDroopCycles cycles).setEdges)
  else done s

/-! ## Thermal (R388 to R392) -/

/-- The lowest reading of a sensor in the last `n` samples before this one. -/
def lowestOf (h : List (List Nat)) (n x : Nat) (now : Nat) : Nat :=
  (h.take n).foldl (fun m l => min m (l.getD x now)) now

/-- The included sensor with the largest value of `f`; the lowest number on a tie. -/
def largest (l : List Nat) (f : Nat → Nat) : Nat × Nat :=
  match l with
  | [] => (0, 0)
  | x :: r => r.foldl (fun b y => if b.1 < f y then (f y, y) else b) (f x, x)

/-- A protective hold begins (R389). -/
def State.startHold (s : State) (rise sensor : Nat) : State :=
  let mhz := s.get R.pwrClockMhz
  let c := max CLOCKFLOOR (mhz * 6 / 10)
  let s := s.setPwr { s.pwr with holdLimit := some (c / 10 * 10), holdClock := some c, recovering := false }
  ((s.inc R.pwrHolds 1).setEdges).raise 0x0701 pgPWR { detail := sensor + rise % 2048 * 2 ^ 16 }

/-- One sample of every sensor in units of 0.125 °C, inlet and outlet in 0.1 °C. -/
def State.thermalTick (s : State) (t : List Nat) (inlet outlet : Nat) : State :=
  let h := s.pwr.history
  let l := (List.range 320).filter fun x => !s.pwr.excluded.contains x
  let now := fun (x : Nat) => t.getD x 0
  let rise := fun (n x : Nat) => now x - lowestOf h n x (now x)
  let top := largest l now
  let r250 := largest l (rise 25)
  let r1ms := largest l (rise 100)
  let s := (s.set R.pwrInlet (min inlet 1023)).set R.pwrOutlet (min outlet 1023)
  let s := (s.set R.pwrTjTemp (min top.1 2047)).set R.pwrTjSensor top.2
  let s := (s.set R.pwrRiseLast (min r250.1 2047)).set R.pwrRiseSensor r250.2
  let s := s.setPwr { s.pwr with history := (t :: h).take 101, trips := if 840 ≤ top.1 then s.pwr.trips + 1 else 0 }
  if s.start.trip ∨ s.get R.pwrClockMhz = 0 then s
  else
    let held := s.pwr.holdLimit.isSome && !s.pwr.recovering
    let fault := decide (160 ≤ r1ms.1) && s.pwr.cooling.isNone
    let s := if (48 < r250.1 ∨ fault) ∧ !held then s.startHold r250.1 r250.2 else s
    let s := if fault then
        (s.setPwr { s.pwr with cooling := s.pwr.holdLimit }).raise 0x0704 pgPWR { detail := r1ms.2 + r1ms.1 % 2048 * 2 ^ 16 }
      else s
    let s := if s.pwr.holdLimit.isSome ∧ !s.pwr.recovering ∧ s.pwr.cooling.isNone ∧ r250.1 < 8 then
        s.setPwr { s.pwr with recovering := true }
      else s
    s.thermState

def execThermalSample (t : List Nat) (inlet outlet : Nat) (s : State) : Host.Outcome State Fault Refusal :=
  if s.start.powered then done (s.thermalTick t inlet outlet) else done s

/-- Three samples at 105 °C or more: clocks and lasers stop, the core, SRAM and link supplies are removed, the stacks refresh
themselves (R391). -/
def execThermalTrip (s : State) : Host.Outcome State Fault Refusal :=
  if s.dieOn && decide (3 ≤ s.pwr.trips) then
    let s : State := { s with start := { s.start with trip := true } }
    let s := portList.foldl (fun (s : State) p => s.emit (.lasers p false)) s
    let s := s.set R.pwrClockMhz 0
    let s := s.setPwr { s.pwr with volts := [0, 0, 0, s.pwr.volts.getD 3 0], refresh := true }
    done (s.raise 0x0703 pgPWR { detail := s.get R.pwrTjTemp })
  else done s

def execSensorExclude (x : SensorId) (s : State) : Host.Outcome State Fault Refusal :=
  if !s.start.powered ∨ s.pwr.excluded.contains x.val then done s
  else
    done (s.setPwr { s.pwr with excluded := s.pwr.excluded ++ [x.val] })

/-- 100 µs at 98 °C or more. -/
def execThrottleStepDown (s : State) : Host.Outcome State Fault Refusal :=
  if s.dieOn && decide (784 ≤ s.get R.pwrTjTemp) then
    let s := s.setPwr { s.pwr with throttle := max CLOCKFLOOR (min s.pwr.throttle s.opNow - 10) }
    let s := if s.pwr.throttleOnce then s
      else (s.setPwr { s.pwr with throttleOnce := true }).raise 0x0702 pgPWR { detail := s.get R.pwrTjTemp }
    done s.thermState
  else done s

/-- 1 ms at 96 °C or less. -/
def execThrottleStepUp (s : State) : Host.Outcome State Fault Refusal :=
  if s.dieOn && decide (s.get R.pwrTjTemp ≤ 768) && decide (s.pwr.throttle < s.opNow) then
    done ((s.setPwr { s.pwr with throttle := s.pwr.throttle + 10 }).thermState)
  else done s

/-- Limit 5 is released; recovery waits for the rate condition (R390). -/
def execCoolingClear (path : Path) (s : State) : Host.Outcome State Fault Refusal :=
  s.writeAt path R.pwrCoolingClear fun s => (s.setPwr { s.pwr with cooling := none }).thermState

/-- The variant's upper inlet limit in 0.1 °C (R6). -/
def inletLimit : Nat := if Config.extended then 450 else 400

/-- Above the limit for 1 s (R392). -/
def execInletHigh (inlet : Nat) (s : State) : Host.Outcome State Fault Refusal :=
  if s.start.powered && !s.pwr.inletHigh && decide (inletLimit < inlet) then
    done ((s.setPwr { s.pwr with inletHigh := true }).raise 0x0709 pgPWR { detail := inlet })
  else done s

/-- 1 °C below the limit for 1 s (R392). -/
def execInletHighRearm (s : State) : Host.Outcome State Fault Refusal :=
  if s.start.powered && decide (s.get R.pwrInlet + 10 ≤ inletLimit) then done (s.setPwr { s.pwr with inletHigh := false })
  else done s

/-! ## Ageing (R379, R380) -/

/-- A clocked domain that needs more than its bound (R379): the ceiling falls in steps of 20 MHz to what meets the margin. -/
def State.ageLimit (s : State) (d ceiling : Nat) : State :=
  let c := min (s.get R.pwrAgeCeilMhz) (2100 - ceilDiv (2100 - ceiling) 20 * 20)
  (s.set R.pwrAgeCeilMhz c).raise 0x0705 pgPWR { detail := d + c * 2 ^ 16 }

/-- The offset of a domain whose monitors need `need` units of 0.5 mV, moved by at most `move`. -/
def State.agePlan (s : State) (need : List Nat) (move : Nat) : List Nat :=
  [0, 1, 2, 3].map fun d =>
    approach (s.get (R.pwrAgeOffset.at_ d)) (min (need.getD d 0) (s.get (R.pwrAgeBound.at_ d))) move

/-- A plan is made: domains that need more than their bound, whose margin is met at a ceiling, lower it. -/
def State.planMade (s : State) (need : List Nat) (ceiling : Nat) : State :=
  let s := [0, 1].foldl (fun (s : State) d =>
    if s.get (R.pwrAgeBound.at_ d) < need.getD d 0 then s.ageLimit d ceiling else s) s
  s.setPwr { s.pwr with planAt := s.time, replanAsk := false, deferred := false }

/-- The plan of start-up step 3, in force at once. -/
def State.planAgeing (s : State) (need : List Nat) (ceiling : Nat) : State :=
  (s.setOffsets (s.agePlan need (2 ^ 20))).planMade need ceiling

/-- Time from now to a boundary, in ns. -/
def State.nsTo (s : State) (n : Nat) : Int := (s.cue.boundaryTime.toNat : Int) + s.untilCue n - s.time.toNat

/-- The interval of R380: an Intermission act has completed, nothing runs, and 150 µs are left to its deadline boundary. -/
def State.ageGap (s : State) : Bool := s.acts.isEmpty && s.pwr.gap.any fun n => decide (150000 ≤ s.nsTo n)

def execAgeCtrlNow (path : Path) (s : State) : Host.Outcome State Fault Refusal :=
  s.writeAt path R.pwrAgeCtrlNow fun s => s.setPwr { s.pwr with replanAsk := true }

/-- In such an interval, after 24 h or on request: each offset moves by 5 mV at most, from the deadline boundary on; test patterns run
for 150 µs, and would take `testW` at 2,100 MHz. -/
def execAgeingReplan (need : List Nat) (ceiling : Nat) (testW : Nat) (s : State) : Host.Outcome State Fault Refusal :=
  if s.dieOn && s.ageGap && (s.pwr.replanAsk || decide (24 ≤ s.ageHours)) then
    let s := s.setPwr { s.pwr with planned := some (s.agePlan need 10), testEnd := some (s.time + 150000), testLoad := testW }
    done (s.planMade need ceiling)
  else done s

def execAgeingDeferred (s : State) : Host.Outcome State Fault Refusal :=
  if s.dieOn && !s.pwr.deferred && decide (48 ≤ s.ageHours) then
    done ((s.setPwr { s.pwr with deferred := true }).raise 0x0706 pgPWR { detail := s.ageHours })
  else done s

end Sys2Proof.Machine
end

