-- ==== Sys2Proof/Machine/Route.lean ====
section
/-! DEFINITION. Point-to-point flits in transit and at their chip (R244 to R246, R350), and port skew (R247). -/

namespace Sys2Proof.Machine

open Sys2Proof

/-- A flit that ends here gives its slot back. -/
def State.releaseFlit (s : State) (p : Nat) (f : Flit) : State := s.leave (some (p, flitPool f))

/-- A flit that goes on toward its chip holds its slot until it has left (R343). -/
def State.goOn (s : State) (p : Nat) (f : Flit) : State := s.forwardFlit f (some (p, flitPool f))

/-- A point-to-point flit: at its own chip it is delivered, and the access it belongs to has its effect when its last line has come
(REMOTE_ACCESS_RECEIVED, REMOTE_REPLY_RECEIVED); elsewhere it goes on toward its chip. -/
def execP2pFlitReceived (p : PortId) (f : Flit) (s : State) : Host.Outcome State Fault Refusal :=
  if !s.dataOn ∨ !cwCrcOk f.hdr ∨ !s.portLive p ∨ flitKind f < 3 ∨ 5 < flitKind f then done s
  else
    let (f, s) := s.arrive p f
    done (if s.chip = some (flitDest f) then s.releaseFlit p f else s.goOn p f)

/-- The windows in a row of one kind, after another window; whether the event is due: the tenth above, armed by ten at or below. -/
def windowRun (hot busy : Bool) (up down : Nat) : Nat × Nat × Bool :=
  let armed := decide (10 ≤ down)
  let up := if hot && busy then min (up + 1) 10 else 0
  if up = 10 ∧ armed then (up, 0, true)
  else (up, if hot then (if armed then 10 else 0) else min (down + 1) 10, false)

/-- One direction's window: flits of each port, and a port's capacity in flits. -/
def State.skewDir (s : State) (flits : List Nat) (capacity dir : Nat) : State :=
  let l := (s.portsOf dir).map fun p => (flits.getD p 0, p)
  let n := l.length
  let sum := (l.map (·.1)).sum
  let top := (l.map (·.1)).foldl max 0
  let hot := decide (3 * sum < top * n)
  let busy := decide (capacity * n ≤ 64 * sum) && sum != 0
  let w := windowRun hot busy (s.map.skewUp.getD dir 0) (s.map.skewDown.getD dir 0)
  let s : State := { s with map := { s.map with skewUp := s.map.skewUp.set dir w.1, skewDown := s.map.skewDown.set dir w.2.1 } }
  if w.2.2 then
    let port := ((l.find? fun e => e.1 == top).map (·.2)).getD 0
    let s := ((s.set R.collSkewLastDir dir).set R.collSkewLastPort port).set R.collSkewLastValid 1
    let s := s.set R.collSkewLastRatio (min (top * n * 128 / sum) 65535)
    s.raise 0x0505 pgCOLL { detail := (s.word R.collSkewLastDir.addr).toNat }
  else s

/-- A 1 ms window: VC 6 flits of every port, and the flits that one port could have sent. -/
def execP2pSkewWindow (flits : List Nat) (capacity : Nat) (s : State) : Host.Outcome State Fault Refusal :=
  if s.dataOn then done ([0, 1, 2, 3, 4, 5].foldl (fun (s : State) d => s.skewDir flits capacity d) s) else done s

end Sys2Proof.Machine
end

