-- ==== Sys2Proof/Machine/HostRegs.lean ====
section
/-! DEFINITION. Register writes in general (R404, R405), the event registers and the host ring (R408, R412, R413), and the small
controls: captures, trace and slack rings, counts, the fault log, the chip number. -/

namespace Sys2Proof.Machine

open Sys2Proof

/-! ## Fields (R405) -/

/-- The RW fields of a word take a write, those that are ignored apart; a value outside a field's range refuses the whole word. -/
def State.writeFields (s : State) (path : Path) (off : Nat) (v : Word) (ignore : Fld → Bool) : State :=
  let rows := (rowsAt off).filter fun r => decide (r.acc = .rw) && !ignore r.fld
  if rows.any fun r => !fieldOk r.fld (bitsOf v.toNat r.fld.lo r.fld.w) then s.refuseAccess path off
  else
    let m := BitVec.ofNat 32 (maskOf rows)
    s.setWord off ((s.word off &&& ~~~m) ||| (v &&& m))

/-! ## Events (R407, R408) -/

/-- The codes of the events that a kind of page raises (R461 to R469). -/
def pageCodes : PageKind → List Nat
  | .host => [0x0801, 0x0802, 0x0803, 0x0804, 0x0805, 0x0806, 0x0807, 0x0808]
  | .mgmt => [0x0901, 0x0902, 0x0903, 0x0906, 0x0907, 0x0908, 0x0909, 0x090A, 0x090B]
  | .cue => [0x0101, 0x0102, 0x0103, 0x0104, 0x0105, 0x0106, 0x0107, 0x0108]
  | .cmd => [0x0201, 0x0205, 0x0208]
  | .scale => [0x0610, 0x0611, 0x0612, 0x0613, 0x0614, 0x0615]
  | .mem => [0x0301, 0x0302, 0x0303, 0x0304, 0x0305, 0x0309, 0x030A]
  | .coll => [0x0501, 0x0502, 0x0503, 0x0504, 0x0505, 0x0506, 0x0507, 0x0508, 0x0509, 0x050A]
  | .upd => [0x0620, 0x0621, 0x0622, 0x0623, 0x0624]
  | .commit => [0x0601, 0x0602, 0x0603, 0x0604, 0x0605]
  | .link => [0x040B, 0x040D]
  | .pwr => [0x0701, 0x0702, 0x0703, 0x0704, 0x0705, 0x0706, 0x0707, 0x0708, 0x0709]
  | .cell _ => [0x0202, 0x0203, 0x0204, 0x0206, 0x0207]
  | .stack _ => [0x0306, 0x0307, 0x0308]
  | .port _ => [0x0401, 0x0402, 0x0403, 0x0404, 0x0405, 0x0406, 0x0407, 0x0408, 0x0409, 0x040A, 0x040C]
  | .mbox _ => [0x0904, 0x0905]

/-- EVENT_FORCE: each event whose bit is written is raised as a test, with none of its actions. A bit of no event does nothing. -/
def State.forceEvents (s : State) (page bits : Nat) : State :=
  match pageKind page with
  | none => s
  | some k =>
    let port := match k with
      | .port p => p
      | _ => 0
    (pageCodes k).foldl (fun (s : State) c => if bitAt bits (c % 32) then s.raiseEv true c page { port := port } else s) s

def execEventForce (path : Path) (page : Nat) (bits : Word) (s : State) : Host.Outcome State Fault Refusal :=
  s.writeAt path (R.pageEventForce page) fun s => s.forceEvents page bits.toNat

/-! ## The host ring (R412, R413) -/

/-- EVQ_RD: the consumer's index; records that were lost are reported first when room returns. -/
def State.writeEvqRd (s : State) (v : Nat) : State := (s.set R.hostEvqRd v).flush.drainHost

def execEvqRdWrite (path : Path) (v : Word) (s : State) : Host.Outcome State Fault Refusal :=
  s.writeAt path R.hostEvqRd fun s => s.writeEvqRd v.toNat

/-- EVQ_CTRL: SIZE is ignored while the ring is in use; records that were held enter a ring put in use. -/
def State.writeEvqCtrl (s : State) (path : Path) (v : Word) : State :=
  let on := s.flagReg R.hostEvqCtrlEn
  (s.writeFields path R.hostEvqCtrlEn.addr v fun f => on && f == R.hostEvqCtrlSize).flush.drainHost

def execEventRingEnable (path : Path) (v : Word) (s : State) : Host.Outcome State Fault Refusal :=
  s.writeAt path R.hostEvqCtrlEn fun s => s.writeEvqCtrl path v

/-- A vector's holdoff ends: one message covers what came meanwhile. -/
def execIrqHoldoffExpire (vec : Fin 16) (s : State) : Host.Outcome State Fault Refusal :=
  if !s.start.powered ∨ !s.host.holdoff.contains vec.val then done s
  else
    let owed := s.host.owed.contains vec.val
    let s : State := { s with host := { s.host with
      holdoff := s.host.holdoff.filter (· != vec.val), owed := s.host.owed.filter (· != vec.val) } }
    done (if owed then s.signal vec else s)

/-! ## Captures, rings, counts, log -/

/-- CAPTURE_CLEAR (R169, R182): bit 0 the first hazard, bit 1 the first expired wait. -/
def State.writeCapture (s : State) (v : Nat) : State :=
  { s with hazHeld := s.hazHeld && !bitAt v 0, wxHeld := s.wxHeld && !bitAt v 1 }

def execCaptureClearHaz (path : Path) (s : State) : Host.Outcome State Fault Refusal :=
  s.writeAt path R.cmdCaptureClearHaz fun s => s.writeCapture 1

def execCaptureClearWx (path : Path) (s : State) : Host.Outcome State Fault Refusal :=
  s.writeAt path R.cmdCaptureClearWx fun s => s.writeCapture 2

/-- TRACE_CTRL (R174): records that wait go out under the old settings; EN from 0 to 1 starts the ring again from its base. -/
def State.writeTraceCtrl (s : State) (path : Path) (v : Word) : State :=
  let s := s.traceOut
  let was := s.flagReg R.cmdTraceCtrlEn
  let s := s.writeFields path R.cmdTraceCtrlEn.addr v fun _ => false
  if !was ∧ s.flagReg R.cmdTraceCtrlEn then s.set2 R.cmdTraceWrptrLo R.cmdTraceWrptrHi 0 else s

def execTraceEnable (path : Path) (v : Word) (s : State) : Host.Outcome State Fault Refusal :=
  s.writeAt path R.cmdTraceCtrlEn fun s => s.writeTraceCtrl path v

/-- SLACK_CTRL and SLACK_SIZE (R272): SIZE is ignored while recording is on; EN from 0 to 1 starts the ring again from its base. -/
def State.writeSlackCtrl (s : State) (path : Path) (v : Word) : State :=
  let was := s.flagReg R.collSlackCtrlEn
  let s := s.writeFields path R.collSlackCtrlEn.addr v fun f => was && f == R.collSlackSize
  if !was ∧ s.flagReg R.collSlackCtrlEn then s.set R.collSlackWrptr 0 else s

def execSlackEnable (path : Path) (v : Word) (s : State) : Host.Outcome State Fault Refusal :=
  s.writeAt path R.collSlackCtrlEn fun s => s.writeSlackCtrl path v

/-- COUNT_CLEAR.ALL of a cell (R149): the counts of what completes in this cycle or later are still owed and kept. -/
def State.clearCell (s : State) (cell : Nat) : State := s.clearWords (fun p => p == 0x100 + cell) countWindow

def execCellCountClear (path : Path) (cell : CellId) (s : State) : Host.Outcome State Fault Refusal :=
  s.writeAt path (R.cellCountClearAll cell) fun s => s.clearCell cell

def execCollCountClear (path : Path) (s : State) : Host.Outcome State Fault Refusal :=
  s.writeAt path R.collCountClearAll State.clearGroupCounts

/-- FAULT_CTRL.CLEAR (R473, R474). -/
def State.clearFaults (s : State) : State :=
  (({ s with faults := [] } : State).set R.mgmtFaultWr 1).set R.mgmtFaultFirstValid 0

def execFaultLogClear (path : Path) (s : State) : Host.Outcome State Fault Refusal :=
  s.writeAt path R.mgmtFaultCtrlClear State.clearFaults

/-! ## The chip number (R427) -/

/-- MGMT.CHIP: refused while a program is loaded; a module that held a position leaves its machine. -/
def State.writeChip (s : State) (path : Path) (v : Word) : State :=
  if s.loaded then s.refuseAccess path R.mgmtChipNumber.addr
  else
    let s := s.writeFields path R.mgmtChipNumber.addr v fun _ => false
    let s : State := if s.flagReg R.collPositionValid then
        let s := s.set R.collPositionValid 0
        let s := (List.range 16).foldl (fun (s : State) g => s.set (R.collGDefValid.at_ g) 0) s
        ({ s with map := { s.map with express := [] } } : State).resizePools
      else s
    s.tellPeers

def execMgmtChipWrite (path : Path) (v : Word) (s : State) : Host.Outcome State Fault Refusal :=
  s.writeAt path R.mgmtChipNumber fun s => s.writeChip path v

end Sys2Proof.Machine
end

