-- ==== Sys2Proof/Machine/Dma.lean ====
section
/-! DEFINITION. The DMA channels (R414, R415, R422) and host-initiated flits (R426). -/

namespace Sys2Proof.Machine

open Sys2Proof

/-! ## Descriptors -/

/-- A descriptor as it stands in the ring. -/
def dmaRunOf (index : Nat) (d : DmaDesc) : DmaRun :=
  let w := fun (i : Nat) => (d.words.getD i 0).toNat
  { hostAddr := w 0 + 2 ^ 32 * w 1, modOff := w 2 + 2 ^ 32 * w 3, len := w 4, toHost := bitAt (w 5) 0, irq := bitAt (w 5) 1,
    fence := bitAt (w 5) 2, remote := if bitAt (w 5) 16 then some (bitsOf (w 5) 17 14) else none, index := index, started := false, bad := none }

def dmaCrcOk (d : DmaDesc) : Bool :=
  crc32c (wordsLe ((List.range 7).map fun i => (d.words.getD i 0).toNat)) == (d.words.getD 7 0).toNat

/-- A remote access to the module's own chip number runs here (R246, R426). -/
def State.ownRun (s : State) (r : DmaRun) : DmaRun := if r.remote.isSome ∧ r.remote = s.chip then { r with remote := none } else r

/-- The cause for which a descriptor stops its channel before it starts (R415). -/
def State.dmaCause (s : State) (d : DmaDesc) (r : DmaRun) : Option Nat :=
  if !dmaCrcOk d then some 1
  else if r.hostAddr % 64 ≠ 0 ∨ r.modOff % 64 ≠ 0 ∨ r.len % 64 ≠ 0 ∨ r.len < 64 ∨ 2 ^ 31 < r.len ∨
      !inTiers12 r.modOff r.len ∨ tierOf (r.modOff + r.len - 1) ≠ tierOf r.modOff then some 2
  else match r.remote with
    | none => if s.inAlt r.modOff r.len then some 2 else none
    | some c => if (s.mapEntry c).isNone ∨ (s.route c r.modOff).isNone then some 4 else none

/-- A descriptor starts: its host data is asked for, or the remote chip's. -/
def State.launch (s : State) (ch : Nat) (r : DmaRun) : State :=
  match r.toHost, r.remote with
  | false, _ => s.emit (.dmaRead ch r.hostAddr r.len)
  | true, some c =>
    match s.route c r.modOff with
    | some p => s.sendFlit p
        { hdr := mkHdr 7 7 false 0 true 64 (c + ownChip s * 2 ^ 14) r.modOff 0, payload := natLe 64 r.len }
    | none => s
  | true, none => s

/-- Descriptors that may start: up to the first that must wait for those before it, or is bad. -/
def launchable : Bool → List DmaRun → List Bool
  | _, [] => []
  | head, r :: l => if (r.fence && !head) || r.bad.isSome then (r :: l).map fun _ => false else true :: launchable false l

def State.launchAll (s : State) (ch : Nat) : State :=
  let l := s.host.dma.getD ch []
  let may := launchable true l
  let s := (l.zip may).foldl (fun (s : State) x => if x.2 ∧ !x.1.started then s.launch ch x.1 else s) s
  let l := (l.zip may).map fun x => { x.1 with started := x.1.started || x.2 }
  { s with host := { s.host with dma := s.host.dma.set ch l } }

/-- The place of a descriptor in its ring in host memory (R414). -/
def State.ringPlace (s : State) (ch index : Nat) : Nat :=
  s.get2 (R.hostDmaRingLo.at_ ch) (R.hostDmaRingHi.at_ ch) + 32 * index

/-- A descriptor that is refused (R415); an access by offset into a copy at ALT counts WINDOW RANGE (R305). -/
def State.refuseDesc (s : State) (ch cause : Nat) (r : DmaRun) : State :=
  (if cause = 2 ∧ r.remote.isNone ∧ s.inAlt r.modOff r.len then s.inc R.memWindowRange 1 else s).dmaError ch cause r.index

/-- Descriptors between those under way and TAIL are read from the ring, as many as the host gives, up to the first that is bad. -/
def State.fetchDescs (ch : Nat) : List DmaDesc → State → State
  | [], s => s
  | d :: l, s =>
    let size := 2 ^ s.get (R.hostDmaCtrlSize.at_ ch)
    let under := s.host.dma.getD ch []
    let next := (s.get (R.hostDmaHead.at_ ch) + under.length) % size
    if next = s.get (R.hostDmaTail.at_ ch) % size ∨ under.any (·.bad.isSome) then s
    else
      let r := s.ownRun (dmaRunOf next d)
      let s := s.emit (.descRead ch (s.ringPlace ch next))
      let r := { r with bad := s.dmaCause d r }
      State.fetchDescs ch l { s with host := { s.host with dma := s.host.dma.set ch (under ++ [r]) } }

/-- The descriptors that may start do; a bad one stops the channel when those before it are done. -/
def State.dmaRun (s : State) (ch : Nat) : State :=
  match s.host.dma.getD ch [] with
  | [] => s
  | r :: _ => match r.bad with
    | some c => s.refuseDesc ch c r
    | none => s.launchAll ch

/-- A channel that runs goes on with the descriptors that have come. -/
def State.dmaGo (s : State) (ch : Nat) (descs : List DmaDesc) : State :=
  if s.get (R.hostDmaStatusState.at_ ch) = 1 then (State.fetchDescs ch descs s).dmaRun ch else s

/-! ## Its registers -/

/-- DMA.TAIL, with the descriptors that the channel then reads. -/
def State.writeTail (s : State) (ch : Nat) (tail : Nat) (descs : List DmaDesc) : State :=
  (s.set (R.hostDmaTail.at_ ch) tail).dmaGo ch descs

def execDmaTailWrite (ch : DmaId) (tail : Nat) (descs : List DmaDesc) (s : State) : Host.Outcome State Fault Refusal :=
  s.writeAt .host (R.hostDmaTail.at_ ch) fun s => s.writeTail ch tail descs

/-- RESET (R415): HEAD and TAIL become 0 and the channel may resume. -/
def State.resetDma (s : State) (ch : Nat) : State :=
  let s : State := { s with host := { s.host with dma := s.host.dma.set ch [] } }
  let s := (s.set (R.hostDmaHead.at_ ch) 0).set (R.hostDmaTail.at_ ch) 0
  s.set (R.hostDmaStatusState.at_ ch) (s.get (R.hostDmaCtrlEn.at_ ch))

def execDmaReset (ch : DmaId) (s : State) : Host.Outcome State Fault Refusal :=
  s.writeAt .host (R.hostDmaCtrlReset.at_ ch) fun s => s.resetDma ch

/-- DMA.CTRL: SIZE, EN and RESET of one write. A channel that is stopped runs no more descriptors than those it has started. -/
def State.writeDmaCtrl (s : State) (ch : Nat) (v : Word) (descs : List DmaDesc) : State :=
  let addr := (R.hostDmaCtrlEn.at_ ch).addr
  if !fieldOk (R.hostDmaCtrlSize.at_ ch) (bitsOf v.toNat 0 5) then s.refuseAccess .host addr
  else
    let s := s.writeFields .host addr v fun _ => false
    let s := if bitAt v.toNat 9 then s.resetDma ch else s
    if s.get (R.hostDmaStatusState.at_ ch) = 2 then s
    else if s.get (R.hostDmaCtrlEn.at_ ch) = 1 then (s.set (R.hostDmaStatusState.at_ ch) 1).dmaGo ch descs
    else
      let l := (s.host.dma.getD ch []).filter (·.started)
      ({ s with host := { s.host with dma := s.host.dma.set ch l } } : State).set (R.hostDmaStatusState.at_ ch) 0

def execDmaChannelEnable (ch : DmaId) (v : Word) (descs : List DmaDesc) (s : State) : Host.Outcome State Fault Refusal :=
  s.writeAt .host (R.hostDmaCtrlEn.at_ ch) fun s => s.writeDmaCtrl ch v descs

/-! ## The end of a descriptor -/

/-- Bytes as a descriptor moves them, all accepted at their destination. A poisoned line keeps its mark (R221). -/
def State.dmaMove (s : State) (r : DmaRun) (d : DmaData) : State :=
  match r.toHost, r.remote with
  | false, none => s.tierWrite r.modOff (fitBytes r.len d.bytes) d.poison
  | true, none =>
    let (x, s) := (s.touch r.modOff r.len).tierRead (Requester.plain .host) r.modOff r.len d.ecc
    s.hostPut r.hostAddr x.data x.poison
  | true, some _ => s.hostPut r.hostAddr (fitBytes r.len d.bytes) d.poison
  | false, some c => s.sendHostLines c r.modOff 0 d.poison (fitBytes r.len d.bytes)

/-- A descriptor cannot be done while bytes that it reads here must wait (R215, R309, R402). -/
def State.dmaHeld (s : State) (r : DmaRun) : Bool :=
  r.toHost && r.remote.isNone && (s.backInvalidate r.modOff r.len).mustWait false r.modOff r.len

/-- The oldest descriptor of a channel is done, or stops it (R415). -/
def execDmaDescriptorDone (ch : DmaId) (data : DmaData) (linkError : Bool) (remoteRefused : Bool) (s : State) : Host.Outcome State Fault Refusal :=
  match s.host.dma.getD ch [] with
  | [] => done s
  | r :: l =>
    if !s.dataOn ∨ !r.started then done s
    else if linkError then done (s.dmaError ch 3 r.index)
    else if remoteRefused ∧ r.remote.isSome then done (s.dmaError ch 4 r.index)
    else if s.dmaHeld r then done (s.backInvalidate r.modOff r.len)
    else
      let s := s.dmaMove r data
      let s : State := { s with host := { s.host with dma := s.host.dma.set ch l } }
      let size := 2 ^ s.get (R.hostDmaCtrlSize.at_ ch)
      let s := (s.set (R.hostDmaHead.at_ ch) ((r.index + 1) % size)).inc (R.hostDmaDone.at_ ch) 1
      let s := if r.irq then s.signal 1 else s
      done (s.dmaRun ch)

/-! ## Host-initiated flits (R426) -/

/-- A host-initiated flit: passed on, or at its chip a write, a read request, or an answer to this module's own descriptor (whose effect
is DMA_DESCRIPTOR_DONE). -/
def execHostInitiatedFlitReceived (p : PortId) (f : Flit) (role : HostFlit) (s : State) : Host.Outcome State Fault Refusal :=
  if !s.dataOn ∨ !cwCrcOk f.hdr ∨ !s.portLive p ∨ flitKind f ≠ 7 then done s
  else
    let (f, s) := s.arrive p f
    if s.chip ≠ some (flitDest f) then done (s.goOn p f)
    else match role with
      | .write => done ((s.serveHost f true []).releaseFlit p f)
      | .request ecc => done ((s.serveHost f false ecc).releaseFlit p f)
      | .answer => done (s.releaseFlit p f)

end Sys2Proof.Machine
end

