-- ==== Sys2Proof/Machine/Load.lean ====
section
/-! DEFINITION. Program images (R48 to R51, R178 to R181, R397, R416): the request to load, the checks in the order of R179, and the
unload. -/

namespace Sys2Proof.Machine

open Sys2Proof

/-! ## The image -/

/-- An act descriptor of the table (R48). -/
def actDescOf (b : List Byte) : ActDesc :=
  let w0 := u32Of b 0
  let w3 := u32Of b 12
  let w4 := u32Of b 16
  { act := w0 % 2 ^ 16, type := bitsOf w0 16 4, phase := bitsOf w0 20 3, overlap := bitAt w0 23, program := bitsOf w0 24 8,
    start := u32Of b 4, deadline := u32Of b 8, rows := w3 % 2 ^ 16, portGroups := bitsOf w3 16 8, groups := w4 % 2 ^ 16,
    every := bitsOf w4 16 16, segment := u64Of b 20 }

def disjointBits (a b : Nat) : Bool := a &&& b == 0

/-- The checks of R51 on one descriptor, after its predecessor and the act before that. -/
def actDescOk (stepCues : Nat) (two one : Option ActDesc) (b : List Byte) : Bool :=
  let d := actDescOf b
  let crc := crc32c (slice b 0 28) == u32Of b 28
  let type := d.type == 1 || d.type == 2 || d.type == 3
  let every := if d.type = 2 then d.every != 0 else d.every == 0
  let order := one.elim true fun p => decide (p.start ≤ d.start)
  let laps := one.elim false fun p => decide (d.start ≤ p.deadline)
  let apart := one.elim true fun p =>
    !laps || (disjointBits p.rows d.rows && disjointBits p.portGroups d.portGroups && disjointBits p.groups d.groups)
  let third := two.elim true fun p => decide (p.deadline + 1 ≤ d.start)
  crc && type && every && decide (d.start < d.deadline) && order && (d.overlap == laps) && apart && third &&
    (d.type == 2 || decide (d.deadline + 1 ≤ stepCues))

/-- The first failing descriptor, counted from 0. -/
def badAct (stepCues : Nat) : Nat → Nat → Option ActDesc → Option ActDesc → List Byte → Option Nat
  | 0, _, _, _, _ => none
  | n + 1, i, two, one, b =>
    if actDescOk stepCues two one (b.take 32) then
      badAct stepCues n (i + 1) one (some (actDescOf (b.take 32))) (b.drop 32)
    else some i

def actTable : Nat → List Byte → List ActDesc
  | 0, _ => []
  | n + 1, b => actDescOf (b.take 32) :: actTable n (b.drop 32)

def seedTable : Nat → List Byte → List DWord
  | 0, _ => []
  | n + 1, b => BitVec.ofNat 64 (u64Of b 0) :: seedTable n (b.drop 8)

/-- A table of `n` bytes at `off` ends inside the image. -/
def within (len off n : Nat) : Bool := n == 0 || decide (off + n ≤ len)

/-- The Evostior majors that a running Prompter accepts (R431). -/
def evostiorOk (major : Nat) (fw : List Byte) : Bool := decide (byteOf fw 0x14 ≤ major ∧ major ≤ byteOf fw 0x15)

/-- What a load check finds (R179): the cause and, where another event names it, what that event says. -/
inductive LoadResult where
  | refused (cause : Nat)
  | badAct (index : Nat)
  | badFormat (b : Byte)
  | loaded (p : Program)
  deriving DecidableEq, Repr

/-- Bytes and tables inside the image, and field ranges (R178, R179 cause 3). An image that does not lie whole in Tiers 1 and 2 fails
here too (DESIGN CHOICE, log 27). -/
def imageShapeOk (off : Nat) (h : List Byte) : Bool :=
  let len := u64Of h 0x10
  decide (128 ≤ len) && inTiers12 off len && (tierOf off == tierOf (off + len - 1)) && u64Of h 0x18 % 32 == 0 &&
    decide (1 ≤ u32Of h 0x20 ∧ u32Of h 0x20 ≤ 65535) && decide (900 ≤ u16Of h 0x28 ∧ u16Of h 0x28 ≤ 2100) &&
    within len (u64Of h 0x18) (32 * u32Of h 0x20) && within len (u64Of h 0x38) (8 * u32Of h 0x40) &&
    within len (u64Of h 0x48) (u32Of h 0x44) && within len (u64Of h 0x50) (u64Of h 0x58)

/-- The F32-to-F21 conversion field of a matrix command: TYPE F21, no scaling, ROUND 0 or 2 (R80). -/
def f21FieldOk (b : Byte) : Bool := b == 0x07 || b == 0x87

/-- The first format byte of an image that is not valid where it stands (R80, R81, R129). -/
def badImageFormat (img : List Byte) : Option Byte :=
  ((Config.imageFormats img).find? fun b => !fmtValid b).or
    (((Config.imageArithmetic img).find? fun b => !arithmeticOk b).or ((Config.imageF21 img).find? fun b => !f21FieldOk b))

/-- Every stream of an act's segment is for a cell, a group or a port group of the act (R179). -/
def segmentInside (image : List Byte) (chip : Nat) (d : ActDesc) : Bool :=
  (Config.expandSegment image d.segment chip).all fun x =>
    if x.1 < 128 then bitAt d.rows (x.1 / 8) else if x.1 < 144 then bitAt d.groups (x.1 - 128) else bitAt d.portGroups (x.1 - 144)

/-- The first failing check, or the program. -/
def State.checkImage (s : State) (off : Nat) : LoadResult :=
  let h := s.peek off 128
  let num := byteOf h 8
  let len := u64Of h 0x10
  if u32Of h 0 ≠ 0x50375442 ∨ u16Of h 4 ≠ 1 ∨ u16Of h 6 ≠ 0x80 then .refused 1
  else if crc32c (slice h 0 0x7C) ≠ u32Of h 0x7C then .refused 2
  else if !imageShapeOk off h then .refused 3
  else
    let img := s.peek off len
    let acts := slice img (u64Of h 0x18) (32 * u32Of h 0x20)
    if crc32c (img.drop 0x80) ≠ u32Of h 0x60 then .refused 3
    else if num = 0 ∨ (s.prog num).isSome then .refused 4
    else if !(evostiorOk (byteOf h 10) (s.fw.running.getD 2 []) && evostiorOk (byteOf h 10) (s.fw.running.getD 3 [])) then
      .refused 5
    else if [byteOf h 0x32, byteOf h 0x33, byteOf h 0x34] ≠ s.shapeOf then .refused 6
    else if u16Of h 0x2A ≠ s.get R.cuePeriodUs then .refused 7
    else
      match badAct (u32Of h 0x24) (u32Of h 0x20) 0 none none acts with
      | some i => .badAct i
      | none =>
        match badImageFormat img with
        | some b => .badFormat b
        | none =>
          let table := actTable (u32Of h 0x20) acts
          if !Config.privateAccepted s.fw.running img ∨ !table.all (segmentInside img (s.chip.getD 0)) then .refused 10
          else
            .loaded { num := num, off := off, len := len, stepCues := u32Of h 0x24, minClock := u16Of h 0x28, image := img, acts := table,
                      seeds := seedTable (u32Of h 0x40) (slice img (u64Of h 0x38) (8 * u32Of h 0x40)) }

/-! ## Commands -/

/-- GO (R397, R416). -/
def State.loadGo (s : State) (path : Path) : State :=
  if s.host.loading.isSome ∨ (s.get R.hostLinkRate ≠ 0 ∧ !s.flagReg R.hostLinkCxl) then
    s.refuseAccess path R.hostLoadCtrlGo.addr
  else
    { s.set R.hostLoadStatusBusy 1 with
      host := { s.host with loading := some (s.get2 R.hostLoadOffLo R.hostLoadOffHi) } }

def execLoadGo (path : Path) (s : State) : Host.Outcome State Fault Refusal :=
  s.writeAt path R.hostLoadCtrlGo fun s => s.loadGo path

/-- PROGRAM REFUSED with its cause. -/
def State.refuseProgram (s : State) (num cause : Nat) : State :=
  (s.set R.cmdLoadStatusCause cause).raise 0x0208 pgCMD { detail := num + cause * 256 }

/-- The result of a load check stands in CMD.LOAD_STATUS. -/
def State.loadResult (s : State) (num : Nat) : LoadResult → State
  | .refused c => s.refuseProgram num c
  | .badAct i => (s.refuseProgram num 8).raise 0x0107 pgCUE { detail := i }
  | .badFormat b => (s.refuseProgram num 9).formatInvalid 0 (some b)
  | .loaded p => { s.set R.cmdLoadStatusCause 0 with progs := s.progs ++ [p] }

/-- The image's lines are asked for (R402), once its header gives its length, and whether they need not wait (R215, R309). -/
def State.fetchImage (s : State) (off : Nat) : State × Bool :=
  let s := s.touch off 128
  if s.mustWait false off 128 then (s, false)
  else
    let s := s.visit off 128
    let len := u64Of (s.peek off 128) 0x10
    if !imageShapeOk off (s.peek off 128) then (s, true)
    else
      let s := s.touch off len
      if s.mustWait false off len then (s, false) else (s.visit off len, true)

/-- The check ends, once the image can be read. -/
def execLoadCheckDone (s : State) : Host.Outcome State Fault Refusal :=
  match s.host.loading with
  | none => done s
  | some off =>
    if !s.dataOn then done s
    else
      let (s, whole) := s.fetchImage off
      if !whole then done s
      else
        let num := byteOf (s.peek off 128) 8
        let s : State := { s.set R.hostLoadStatusBusy 0 with host := { s.host with loading := none } }
        done ((s.set R.cmdLoadStatusProgram num).loadResult num (s.checkImage off))

/-- Why an unload is refused: 1 not loaded, 2 an act active, 3 named by a job or an armed job start (R407). -/
def State.unloadStatus (s : State) (prog : Nat) : Nat :=
  if (s.prog prog).isNone then 1
  else if s.acts.any fun a => a.desc.program == prog then 2
  else if s.job.elim false (fun j => j.program == prog) ∨
      (s.sheet.armed ∧ s.getStaged R.mgmtJobCtrlStart = 1 ∧ s.getStaged R.mgmtJobCtrlProgram = prog) then 3
  else 0

/-- UNLOAD of the program that LOAD_CTRL.PROGRAM names. -/
def State.unload (s : State) : State :=
  let prog := s.get R.hostLoadCtrlProgram
  let r := s.unloadStatus prog
  let s := s.set R.hostLoadStatusUnload r
  if r = 0 then { s with progs := s.progs.filter fun p => p.num != prog } else s

def execLoadUnload (path : Path) (prog : Byte) (s : State) : Host.Outcome State Fault Refusal :=
  s.writeAt path R.hostLoadCtrlUnload fun s => (s.set R.hostLoadCtrlProgram prog.toNat).unload

/-- The word LOAD_CTRL written whole. -/
def State.writeLoadCtrl (s : State) (path : Path) (v : Nat) : State :=
  let s := s.set R.hostLoadCtrlProgram (bitsOf v 8 8)
  let s := if bitAt v 0 then s.loadGo path else s
  if bitAt v 1 then s.unload else s

end Sys2Proof.Machine
end

