-- ==== Sys2Proof/Machine/Startup.lean ====
section
/-! DEFINITION. Start-up and reset (R438, R442 to R453), the loss and return of input power (R479 to R484), and the test port. -/

namespace Sys2Proof.Machine

open Sys2Proof

/-! ## Firmware images and boot (R431, R432) -/

/-- What the signature covers: header bytes 0x00 to 0x3F and the body. -/
def signedPart (img : List Byte) : List Byte := img.take 0x40 ++ slice img 0x80 (u32Of img 0x10)

def imageHash (img : List Byte) : List Byte := fitBytes 64 (Config.sha512 (signedPart img))

/-- The signature of an image verifies under the key slot that it names, one of 0 to 3 (R2, R431). -/
def signatureOk (img : List Byte) : Bool := decide (byteOf img 5 ≤ 3) && Config.trehusSigOk (byteOf img 5) (signedPart img) (slice img 0x40 64)

/-- An image passes: its signature verifies, its key slot is not revoked, its SVN is at least the type's minimum. -/
def State.fwPasses (s : State) (t : Nat) : Option (List Byte) → Bool
  | none => false
  | some img => signatureOk img && !bitAt s.keysRevoked (byteOf img 5) && decide (s.minSvn t ≤ byteOf img 12)

/-- The result of checking an image of type `t` (R430, R432): 0 when it passes. -/
def State.fwCheck (s : State) (t : Nat) (img : List Byte) : Nat :=
  if u32Of img 0 ≠ 0x46375442 ∨ byteOf img 4 ≠ t ∨ u16Of img 6 ≠ 1 ∨ 8 * 2 ^ 20 < u32Of img 0x10 ∨
      img.length < 0x80 + u32Of img 0x10 then 3
  else if !signatureOk img then 3
  else if bitAt s.keysRevoked (byteOf img 5) then 5
  else if byteOf img 12 < s.minSvn t then 4
  else 0

def typeOk (t : Nat) : Bool := decide (1 ≤ t ∧ t ≤ 4)

/-- The inactive slot of type `t` holds an image, or `none` that passes no check (R433, R451). -/
def State.setInactive (s : State) (t : Nat) (img : Option (List Byte)) : State :=
  if bitAt (s.get R.mgmtFwActiveSlot) (t - 1) then { s with fw := { s.fw with slotA := s.fw.slotA.set (t - 1) img } }
  else { s with fw := { s.fw with slotB := s.fw.slotB.set (t - 1) img } }

/-- The slot of type `t`: B or A. -/
def FwSt.slot (x : FwSt) (t : Nat) (b : Bool) : Option (List Byte) := ((if b then x.slotB else x.slotA)[t - 1]?).join

/-- The slot that type `t` starts from, and its image: the selected one, or the other; none when both fail. -/
def State.fwChoice (s : State) (t : Nat) : Option (Bool × List Byte) :=
  let sel := bitAt (s.get R.mgmtFwNextSlot) (t - 1)
  if s.fwPasses t (s.fw.slot t sel) then (s.fw.slot t sel).map fun i => (sel, i)
  else if s.fwPasses t (s.fw.slot t !sel) then (s.fw.slot t !sel).map fun i => (!sel, i)
  else none

/-- The running images: their SVNs stand in MGMT.SVN, and none runs from slot B until a start from storage says so. -/
def State.runFirmware (s : State) (l : List (List Byte)) : State :=
  let svn := (l.zipIdx.map fun x => byteOf x.1 12 * 2 ^ (8 * x.2)).sum
  let s := (s.set R.mgmtFwActiveSlot 0).set R.mgmtFwFallback 0
  { s.set R.mgmtSvn svn with fw := { s.fw with running := l } }

/-- Step 2: every type started from a slot, or firmware recovery (R432, R434). -/
def State.bootFirmware (s : State) : State × Bool :=
  let pick := [1, 2, 3, 4].map s.fwChoice
  if pick.all (·.isSome) then
    let got := pick.filterMap id
    let active := (got.zipIdx.map fun x => boolNat x.1.1 * 2 ^ x.2).sum
    let fell := active ^^^ s.get R.mgmtFwNextSlot
    let s := (((s.runFirmware (got.map (·.2))).set R.mgmtFwActiveSlot active).set R.mgmtFwFallback fell).set R.mgmtFwRecovery 0
    (if fell = 0 then s else s.raise 0x0901 pgMGMT { detail := fell }, true)
  else
    let s := ((s.runFirmware []).set R.mgmtFwRecovery 1).set R.mgmtStartState 3
    ({ s with fw := { s.fw with sram := [none, none, none, none], stage := [] } }, false)

/-! ## The sequence (R442 to R445) -/

/-- START-UP STEP FAILED with its cause; fatal or not (R443). -/
def State.stepFails (s : State) (cause : Nat) (fatal : Bool) : State :=
  let step := s.get R.mgmtStartStep
  let s := s.set R.mgmtStartCause cause
  let s := if fatal then s.set R.mgmtStartState 2 else s
  s.raise 0x0909 pgMGMT { detail := step + cause * 256, severe := fatal }

/-- The count is at least `t`: an interval that began on this count has ended. -/
def State.atLeast (s : State) (t : DWord) : State := if s.time < t then { s with time := t } else s

/-- A step begins. Step 6 trains every usable port (R353), step 7 begins the alignment. -/
def State.beginStep (s : State) (k : Nat) : State :=
  let s : State := { s.set R.mgmtStartStep k with start := { s.start with stepBegan := s.time, chipRaised := false } }
  if k = 6 then portList.foldl State.train s
  else if k = 7 then s.beginAlign
  else s

/-- The first step of a sequence and the step after another (R447): level 0 is power-up. -/
def firstStep (level : Nat) : Nat := match level with
  | 0 => 0
  | 2 => 5
  | _ => 1

def stepAfter (level k : Nat) : Nat := if level = 3 ∧ k = 3 then 5 else k + 1

/-- Step 3: the ageing offsets planned anew, the clock at the lowest limit with its voltages in place (R376, R378, R379). -/
def State.powerDomains (s : State) (r : StepReport) : State :=
  let s := s.set R.pwrAgeCeilMhz 2100
  let s := s.planAgeing r.offsets r.ceiling
  let (m, l) := lowest s.clockLimits
  let s := (s.moveVolts m (2 ^ 20)).setPwr { (s.moveVolts m (2 ^ 20)).pwr with refresh := false }
  (((s.set R.pwrClockMhz m).set R.pwrClockLimit l).setEdges).thermState

/-- Step 4: Tiers 1 and 2 filled, keys drawn and open, far stacks that did not train down (R214, R223, R442). -/
def State.trainMemory (s : State) (r : StepReport) : State :=
  let s := (s.zeroTier 1).zeroTier 2
  let k := s.free
  let s : State := { s with free := s.free + 2 }
  let s := s.set2 R.memIlKey1Lo R.memIlKey1Hi (Config.entropy k).toNat
  let s := s.set2 R.memIlKey2Lo R.memIlKey2Hi (Config.entropy (k + 1)).toNat
  let s := (s.set R.memIlStatusLocked1 0).set R.memIlStatusLocked2 0
  (List.range 16).foldl (fun (s : State) i =>
    if bitAt r.farOk.toNat i then s.set (R.stackLinkLanes (8 + i)) 8
    else (s.set (R.stackLinkLanes (8 + i)) 0).raise 0x0308 (pgSTACK (8 + i))) s

/-- Step 5: the cages, and the calibration page of each NV-OP32 (R353). -/
def State.inventory (s : State) (r : StepReport) : State :=
  portList.foldl (fun (s : State) c =>
    let code := r.cages.getD c 0 % 4
    let s := s.setCage c code
    if code = 1 then s.readCalibration c (r.biasBol.getD c []) else s.raise 0x040B pgLINK { detail := c + code * 2 ^ 8 }) s

/-- Step 8 has ended: START-UP COMPLETE, with the ms since step 0 ended, or since the reset where step 0 was not rerun. -/
def State.startDone (s : State) : State :=
  let ms := (s.time - s.start.step0End).toNat / 1000000
  ((s.set R.mgmtStartState 1).set R.mgmtStartMs ms).raise 0x090A pgMGMT { detail := ms }

/-! ## The test port (R438) -/

/-- The whole die is held in reset until the end of step 0 takes the module controller out of it (R442). -/
def State.dieInReset (s : State) : Bool :=
  s.get R.mgmtStartState == 0 && s.get R.mgmtStartStep == 0

/-- What an instruction acts as. -/
def State.testActs (s : State) (j : JtagInstr) : JtagInstr :=
  match j with
  | .idcode => .idcode
  | .samplePreload => if s.dieInReset then .samplePreload else .bypass
  | .extest => if s.dieInReset then .extest else .bypass
  | _ => .bypass

/-- The instruction in the test port where the die may have left its reset. -/
def State.releaseTest (s : State) : State := { s with test := s.testActs s.test }

/-- The running step has done its work. -/
def State.stepDone (s : State) (r : StepReport) : State :=
  let k := s.get R.mgmtStartStep
  let next := fun (s : State) => s.beginStep (stepAfter s.start.resetLevel k)
  match k with
  | 0 =>
    let s := s.atLeast (s.start.rangeSince + 20000000)
    (next { s with start := { s.start with step0End := s.time } }).releaseTest
  | 2 =>
    let (s, ok) := s.bootFirmware
    if ok then next s else s
  | 3 => next (s.powerDomains r)
  | 4 => if r.nearOk then next (s.trainMemory r) else s.stepFails 5 true
  | 5 => next (s.inventory r)
  | 7 => if s.alignState = 2 then next s else s
  | 8 => if s.flagReg R.mgmtChipValid then s.startDone else s
  | _ => next s

/-- A step ends. Only a running sequence has a step. -/
def execStartupStepComplete (r : StepReport) (s : State) : Host.Outcome State Fault Refusal :=
  if s.start.powered && s.get R.mgmtStartState == 0 && !s.start.trip then done (s.stepDone r) else done s

/-- A step's timeout in ns (R442). -/
def State.stepLimit (s : State) (k : Nat) : Nat :=
  1000000 * (match k with
    | 0 => 500
    | 1 => 50
    | 2 => 1000
    | 3 => 200
    | 4 => 2000
    | 5 => 100
    | 6 => 500
    | 7 => 10000
    | _ => 1000 * s.get R.mgmtChipWaitS)

/-- A step fails at its timeout, or in steps 1, 3 and 4 with a cause of its own. -/
def State.stepTimeout (s : State) (cause : Nat) : State :=
  let k := s.get R.mgmtStartStep
  let own := (k = 1 ∧ (cause = 2 ∨ cause = 3)) ∨ (k = 4 ∧ cause = 5)
  let s := if own ∨ k = 3 then s else s.atLeast (s.start.stepBegan + BitVec.ofNat 64 (s.stepLimit k))
  match k with
  | 0 => s.stepFails 1 false
  | 1 => s.stepFails (if own then cause else 6) true
  | 2 => s.stepFails 6 true
  | 3 => s.stepFails 4 true
  | 4 => s.stepFails (if own then 5 else 6) true
  | 7 => (s.stepFails 7 false).beginStep 8
  | 8 =>
    if s.start.chipRaised then s
    else
      let s := s.stepFails 8 false
      { s with start := { s.start with chipRaised := true } }
  | _ => (s.stepFails 6 false).beginStep (k + 1)

def execStartupStepTimeout (cause : Nat) (s : State) : Host.Outcome State Fault Refusal :=
  if s.start.powered && s.get R.mgmtStartState == 0 && !s.start.trip then done (s.stepTimeout cause) else done s

/-- During step 0 the input leaves 56 V to 72 V: the 20 ms start again when it returns (R442, R480). -/
def execInputRangeLeave (s : State) : Host.Outcome State Fault Refusal :=
  if s.start.powered && s.get R.mgmtStartState == 0 && s.get R.mgmtStartStep == 0 then
    done { s with start := { s.start with rangeSince := s.time } }
  else done s

/-! ## What a reset clears (R449 to R451) -/

/-- Every SAT field back to its reset value. -/
def State.clearSat (s : State) : State :=
  { s with regs := s.regs.map fun (e : Nat × Word) =>
      let m := BitVec.ofNat 32 (maskOf ((rowsAt e.1).filter fun r => decide (r.acc = .sat)))
      (e.1, (e.2 &&& ~~~m) ||| (regReset e.1 &&& m)) }

/-- A staging cut short, of an image that passes, leaves the inactive slot failing its check, unless it is the selected one, which stays
as it was (R433, R451). -/
def State.cutStaging (s : State) : State :=
  match (AMap.find s.mbox 0).bind MboxSt.stage with
  | some (t, off, len) =>
    if s.fwCheck t (s.peek off len) ≠ 0 ∨
        bitAt (s.get R.mgmtFwActiveSlot) (t - 1) ≠ bitAt (s.get R.mgmtFwNextSlot) (t - 1) then s
    else s.setInactive t none
  | none => s

/-- What every level clears: programs, job, acts, queues, flags, stores, an armed sheet, a snapshot, DMA, mailbox requests, the
step's records and causes, sticky counts. -/
def State.clearWork (s : State) : State :=
  let s := ((s.cutStaging.abortSnapshot).clearCounts).forgetStep
  let s := s.clearWords (fun p => decide (0x400 ≤ p ∧ p < 0x48A)) fun o => o == 0x44 || o == 0x4C || o == 0x54
  let s := ((s.set R.mgmtJobState 0).set R.cueCsStatusState 0).set R.hostLoadStatusBusy 0
  let s := [0, 1, 2, 3].foldl (fun (s : State) ch =>
    if s.get (R.hostDmaStatusState.at_ ch) = 2 then s else s.set (R.hostDmaStatusState.at_ ch) 0) s
  let s := (List.range 16).foldl (fun (s : State) g => s.set (R.collGLayoutPending.at_ g) 0) s
  { s with
    shadow := [], sheet := SheetSt.idle, progs := [], job := none, acts := [], cells := [], cores := [], movers := [],
    groups := [], t3 := [], serves := [], commit := CommitSt.reset, mbox := [],
    scale := { s.scale with step := [], preparing := false, ready := false, wb := false },
    traced := [],
    mem := { s.mem with waiting := s.mem.waiting.filter fun w => match w with
      | .cxl _ _ => true
      | _ => false },
    pwr := { s.pwr with lead := false, leadStay := false, gap := none, planned := none, testEnd := none }, map := { s.map with relayed := [] },
    host := { s.host with dma := [[], [], [], []], loading := none },
    start := { s.start with lostData := s.start.lostData + 1 } }

/-- Every page of every versioned range marked and resynced (R306, R450). -/
def State.markAll (s : State) : State :=
  let pages := s.mem.ranges.flatMap fun r => (List.range (r.len / 4096)).map fun i => r.base / 4096 + i
  (s.setMem { s.mem with marks := pages }).startResync

/-- Level 1 keeps trained ports: what their buffers held is lost, and their credits are reinitialised (R346). -/
def State.refreshPorts (s : State) : State :=
  (portList.filter s.portIsUp).foldl (fun (s : State) p =>
    let x := s.port p
    let x := { x with txq := [], pools := x.pools.map fun q => { q with held := 0, old := 0 } }
    (s.setPort p x).beginReinit p) s

/-- Levels 2 and above darken every port; its page starts anew. The hash sets of the map that is kept stand (R350, R449). -/
def State.darkenAll (s : State) : State :=
  let live := portList.filter s.portLive
  let s := live.foldl (fun (s : State) p => s.emit (.lasers p false)) s
  let s := s.clearWords (fun p => decide (0x300 ≤ p ∧ p < 0x320)) fun o => decide (0x40 ≤ o ∧ o < 0x800)
  let s := live.foldl (fun (s : State) p => s.set (R.portStateState p) 5) s
  { s with ports := s.ports.map fun (x : Nat × PortSt) => (x.1, { PortSt.reset with hashSet := x.2.hashSet }) }

/-- The counter starts again from 0, not aligned (R38, R447). -/
def State.restartTime (s : State) : State :=
  let s := s.clearWords (fun p => p == 2) fun o => (decide (0x4C ≤ o ∧ o < 0x58)) || decide (0x60 ≤ o ∧ o < 0x70)
  { s with time := 0, cue := CueSt.reset, pwr := { s.pwr with planAt := s.pwr.planAt - s.time },
           mem := { s.mem with snapAt := none }, start := { s.start with step0End := 0, rangeSince := 0 } }

/-- The CXL link trains again (R449): it is down until CXL_LINK_UP, and tracks nothing. -/
def State.retrainCxl (s : State) : State :=
  let s := ((s.set R.hostLinkRate 0).set R.hostLinkWidth 0).set R.hostLinkCxl 0
  { s with host := { s.host with snoop := [], biWait := [] }, mem := { s.mem with waiting := [] } }

/-- Firmware reloads (level 3 and above): host configuration, mailboxes, limits and holds start anew; clocks stop until step 3, and the
stacks refresh themselves (R447). -/
def State.reloadControllers (s : State) : State :=
  let s := s.clearWords (fun p => p == 0 || decide (0x400 ≤ p ∧ p < 0x48A)) fun o => decide (0x40 ≤ o)
  let s := s.set R.pwrClockMhz 0
  { s with host := { s.host with holdoff := [], owed := [] }, start := { s.start with trip := false },
           pwr := { PwrSt.reset with refresh := true, history := s.pwr.history, excluded := s.pwr.excluded, planAt := s.pwr.planAt,
                                     inletHigh := s.pwr.inletHigh, badCals := s.pwr.badCals, capCut := s.pwr.capCut } }

/-- The words of page MGMT that level 4 keeps: the Callboard position, firmware slots, RESET_CFG and CHIP_WAIT_S. -/
def keptWords : List Nat :=
  [R.mgmtCbPosition.addr, R.mgmtFwNextSlot.addr, R.mgmtResetCfgPerst.addr, R.mgmtChipWaitS.addr]

/-- Level 4: memory, tables, map and every other register start anew. -/
def State.clearFull (s : State) : State :=
  { s with
    regs := s.regs.filter fun e => keptWords.contains e.1, scale := ScaleSt.reset, upd := UpdSt.reset, mem := MemSt.reset,
    map := MapSt.reset, faults := [], faultSeq := 0, evCount := [],
    pwr := { PwrSt.reset with history := s.pwr.history, excluded := s.pwr.excluded } }

/-- Everything a reset of a level does to the state (R449). -/
def State.applyReset (s : State) (level : Nat) (perst : Bool) : State :=
  let s := s.clearWork
  let s := if level = 1 then s.refreshPorts else (s.clearSat.darkenAll).restartTime
  let s := if 3 ≤ level then s.reloadControllers else s
  let s := if 3 ≤ level ∨ perst then s.retrainCxl else s
  if level = 4 then s.clearFull else s.markAll

/-! ## Resets (R447, R448, R451, R452) -/

/-- A thermal trip or firmware recovery makes any reset one of level 3 at least. -/
def State.levelOf (s : State) (level : Nat) : Nat :=
  if s.start.trip ∨ s.get R.mgmtStartState = 3 then max 3 level else level

/-- A start-up is in progress: of a reset's level, or level 0 from power. -/
def State.starting (s : State) : Bool := s.get R.mgmtStartState == 0 && !s.start.trip

/-- A start-up of a higher level is in progress. -/
def State.higherRuns (s : State) (level : Nat) : Bool := s.starting && decide (level < s.start.resetLevel)

/-- A start-up from power has not yet done a step that the level does not rerun (log 33). -/
def State.owesSteps (s : State) (level : Nat) : Bool :=
  let k := s.get R.mgmtStartStep
  s.starting && s.start.resetLevel == 0 && (decide (k < firstStep level) || (level == 3 && decide (k ≤ 4)))

/-- The steps of a level run from the first that it reruns (R447, R448). Where a start-up from power still owes steps that the level
does not rerun, that start-up goes on from there (log 33). -/
def State.rerun (s : State) (level k : Nat) (owes : Bool) : State :=
  let first := if owes then min k (firstStep level) else firstStep level
  ({ s.set R.mgmtStartState 0 with start := { s.start with resetLevel := if owes then 0 else level } }).beginStep first

/-- A reset of a level from a source. Level 1 reruns no step: a start-up from power goes on, and a failed module stays failed. -/
def State.resetModule (s : State) (level source : Nat) : State :=
  let level := s.levelOf level
  if s.higherRuns level then s
  else
    let owes := s.owesSteps level
    let state := s.get R.mgmtStartState
    let step := s.get R.mgmtStartStep
    let cause := s.get R.mgmtStartCause
    let s := s.flush.applyReset level (source == 3)
    let s := (s.set R.mgmtResetCauseLevel level).set R.mgmtResetCauseSource source
    let s := (s.raise 0x090B pgMGMT { detail := level + source * 16 }).flush
    if level = 1 then ((s.set R.mgmtStartState state).set R.mgmtStartStep step).set R.mgmtStartCause cause
    else s.rerun level step owes

/-- MGMT.RESET.LEVEL: 1 to 4; other values are refused. -/
def State.writeReset (s : State) (path : Path) (level : Nat) : State :=
  if 1 ≤ level ∧ level ≤ 4 then s.resetModule level 2 else s.refuseAccess path R.mgmtResetLevel.addr

def execResetLevelWrite (path : Path) (level : Nat) (s : State) : Host.Outcome State Fault Refusal :=
  s.writeAt path R.mgmtResetLevel fun s => s.writeReset path (level % 8)

/-- PERST# at the level of RESET_CFG.PERST. -/
def execPerstAssert (s : State) : Host.Outcome State Fault Refusal :=
  powered s fun s => s.resetModule (s.get R.mgmtResetCfgPerst) 3

/-- The module controller has not served its watchdog for 1 s. -/
def execWatchdogExpire (s : State) : Host.Outcome State Fault Refusal :=
  powered s fun s => s.resetModule 3 4

/-! ## Input power (R448, R449, R479, R480, R484) -/

/-- What stands without power: fuses and what has been burned, firmware storage and the slot selection. -/
def State.unpowered (s : State) : State :=
  let next := s.get R.mgmtFwNextSlot
  let fw := s.cutStaging.fw
  let r : State := { State.reset with
    pending := s.pending, free := s.free, out := s.out,
    fw := { fw with sram := [none, none, none, none], stage := [], running := [] },
    start := { StartSt.powerUp with
      powered := false, lostData := s.start.lostData + 1, pres := s.start.pres, switch := s.start.switch } }
  r.set R.mgmtFwNextSlot next

/-- The input switch opens or closes. -/
def State.setSwitch (s : State) (closed : Bool) : State :=
  if s.start.switch = closed then s
  else ({ s with start := { s.start with switch := closed } }).emit (.inputSwitch closed)

/-- The input rises above 54 V, PRES mated to the shelf's return, which closes the switch (R484, log 95): step 0 begins. -/
def execPowerInputRise (s : State) : Host.Outcome State Fault Refusal :=
  if s.start.powered then done s
  else done (State.setSwitch { s with start := { s.start with powered := true, pres := true } } true)

/-- Below 50 V for 10 µs. -/
def execUvloFall (s : State) : Host.Outcome State Fault Refusal :=
  powered s State.unpowered

/-- Above 75 V for 10 µs: the input switch opens. -/
def execOvervoltageDisconnect (s : State) : Host.Outcome State Fault Refusal :=
  powered s fun s => (s.setSwitch false).unpowered

/-- PRES breaks: the input switch opens, and a running module loses power (R484). -/
def execPresBreak (s : State) : Host.Outcome State Fault Refusal :=
  let s := State.setSwitch { s with start := { s.start with pres := false } } false
  if s.start.powered then done s.unpowered else done s

/-- What the selected register holds: the IDCODE, 0 in the bypass register, what the pins show in the boundary register (free). -/
def State.testWord (s : State) (a : JtagInstr) : Word × State :=
  match a with
  | .idcode => (Config.idcode, s)
  | .samplePreload => s.drawWord
  | .extest => s.drawWord
  | _ => (0, s)

def execTestPortInstruction (j : JtagInstr) (s : State) : Host.Outcome State Fault Refusal :=
  powered s fun s =>
    let a := s.testActs j
    let (w, s) := s.testWord a
    ({ s with test := a } : State).emit (.testPort a w)

end Sys2Proof.Machine
end

