-- ==== Sys2Proof/Machine/Mailbox.lean ====
section
/-! DEFINITION. Mailboxes, firmware staging, fuses and attestation (R425, R428 to R437). The work of a request is done when its
doorbell is accepted; its result stands when MAILBOX_DONE says that it has completed. -/

namespace Sys2Proof.Machine

open Sys2Proof

/-! ## Callboard frames as bytes, and their answers (R418, R420, R425) -/

/-- The bytes of a frame, header to CRC. -/
def cbBytes (f : CbFrame) : List Byte := cbHdr f ++ [f.hcrc] ++ f.payload ++ natLe 4 f.crc.toNat

/-- A frame from its bytes; none when their number does not match LEN. -/
def cbOfBytes (b : List Byte) : Option CbFrame :=
  let len := u16Of b 4
  if b.length = 12 + len ∧ len ≤ 256 then
    some { dest := byteOf b 0 % 64, bcast := bitAt (byteOf b 0) 6, up := bitAt (byteOf b 0) 7, src := byteOf b 1 % 64,
           type := b.getD 2 0, seq := b.getD 3 0, payload := slice b 8 len, hcrc := b.getD 7 0,
           crc := BitVec.ofNat 32 (u32Of b (8 + len)) }
  else none

/-- A management mirror flit (R425). -/
def mirrorFlit (dest src : Nat) (f : CbFrame) : Flit :=
  let b := natLe 4 (dest % 2 ^ 14 + src % 2 ^ 14 * 2 ^ 14) ++ cbBytes f
  { hdr := mkHdr 7 6 false 0 true b.length (dest + src * 2 ^ 14) 0 0, payload := b }

/-- An answer to the sender of a frame: on the Callboard, or back to the chip that sent it as a mirror. -/
def State.answerCb (s : State) (via : Option Nat) (dest : Nat) (type seq : Byte) (payload : List Byte) : State :=
  match via with
  | none => s.sendOwn dest type seq payload
  | some c =>
    match s.route c 0 with
    | none => s
    | some p => s.sendFlit p (mirrorFlit c (ownChip s) (cbMake dest false true s.cbPos type seq payload))

/-! ## Firmware images (R431 to R433) -/

/-- A request's result and response. -/
abbrev Answer := Nat × List Byte

/-- FW_STAGE: type (1 byte), offset (8), length (4), and the staging to make; 0x07 while a recovery image comes in (DESIGN CHOICE, log 28).
The lines of the image are asked for at once (R402). -/
def State.fwStage (s : State) (req : List Byte) : Answer × Option (Nat × Nat × Nat) × State :=
  let t := byteOf req 0
  let off := u64Of req 1
  let len := u32Of req 9
  if req.length ≠ 13 then ((2, []), none, s)
  else if !typeOk t ∨ len < 0x80 ∨ !inTiers12 off len then ((6, []), none, s)
  else if !s.fw.stage.isEmpty then ((7, []), none, s)
  else ((0, []), some (t, off, len), s.touch off len)

/-- A staging (R433): the image is checked and written to the inactive slot of its type, or FIRMWARE REJECTED; its result. -/
def State.fwWrite (s : State) (t off len : Nat) : Nat × State :=
  let s := s.visit off len
  let img := s.peek off len
  let r := s.fwCheck t img
  if r ≠ 0 then (r, s.raise 0x0903 pgMGMT { detail := t + r * 256 })
  else (0, s.setInactive t (some (img.take (0x80 + u32Of img 0x10))))

/-- FW_SELECT: type, slot (0 A, 1 B). -/
def State.fwSelect (s : State) (req : List Byte) : Answer × State :=
  let t := byteOf req 0
  let b := byteOf req 1
  if req.length ≠ 2 then ((2, []), s)
  else if !typeOk t ∨ 1 < b then ((6, []), s)
  else ((0, []), s.set R.mgmtFwNextSlot (withBits (s.get R.mgmtFwNextSlot) (t - 1) 1 b))

/-! ## Fuses (R435) -/

/-- SVN_ADVANCE: the type's minimum becomes the SVN of its running image, where that is larger. -/
def State.svnAdvance (s : State) (req : List Byte) : Answer × State :=
  let t := byteOf req 0
  if req.length ≠ 1 then ((2, []), s)
  else if !typeOk t then ((6, []), s)
  else
    let v := byteOf (s.fw.running.getD (t - 1) []) 12
    if v ≤ s.minSvn t then ((0, [BitVec.ofNat 8 (s.minSvn t)]), s)
    else
      let s : State := { s with fw := { s.fw with burnedSvn := s.fw.burnedSvn.set (t - 1) v } }
      ((0, [BitVec.ofNat 8 v]), s.raise 0x0908 pgMGMT { detail := t * 256 })

/-- KEY_REVOKE: refused for the slot that signed the running module-controller image. -/
def State.keyRevoke (s : State) (req : List Byte) : Answer × State :=
  let k := byteOf req 0
  if req.length ≠ 1 then ((2, []), s)
  else if 3 < k then ((6, []), s)
  else if s.fw.running[0]?.any (fun img => byteOf img 5 == k) then ((8, []), s)
  else if bitAt s.keysRevoked k then ((0, []), s)
  else
    let s : State := { s with fw := { s.fw with burnedKeys := s.fw.burnedKeys ||| 2 ^ k } }
    ((0, []), s.raise 0x0908 pgMGMT { detail := 1 + k * 256 })

/-! ## Attestation (R436, R437) -/

/-- The variant as data reports it (R436). -/
def variantByte : Byte := if Config.extended then 2 else 1

/-- The identity statement written at test (R436). -/
def identityStatement : List Byte :=
  natLe 4 0x49375442 ++ natLe 2 1 ++ [variantByte, Config.statementKey] ++ natLe 8 Config.identity.toNat ++
    fitBytes 32 Config.pubKey ++ fitBytes 16 Config.statementRest ++ fitBytes 64 Config.statementSignature

/-- The report over a nonce, signed by the identity key. -/
def State.attestation (s : State) (nonce : List Byte) : List Byte :=
  let body := wordsLe [0x41375442, 1 + 448 * 2 ^ 16] ++ natLe 8 Config.identity.toNat ++
    [variantByte, BitVec.ofNat 8 (3 + s.keysRevoked * 4),
     BitVec.ofNat 8 (s.get R.mgmtFwActiveSlot), BitVec.ofNat 8 (s.get R.mgmtFwRecovery)] ++
    natLe 4 (s.get R.mgmtSvn) ++ [1, 2, 3, 4].map (fun t => BitVec.ofNat 8 (s.minSvn t)) ++ natLe 4 0 ++
    natLe 8 s.time.toNat ++ List.replicate 24 0 ++ fitBytes 32 nonce ++
    [0, 1, 2, 3].flatMap (fun i => imageHash (s.fw.running.getD i [])) ++ fitBytes 32 Config.pubKey
  body ++ fitBytes 64 (Config.identitySign body)

/-- ATTEST: a 32-byte nonce. -/
def State.attest (s : State) (req : List Byte) : Answer :=
  if req.length ≠ 32 then (2, []) else (0, s.attestation req)

/-- A request without operands. -/
def noOperands (req resp : List Byte) : Answer := if req.length ≠ 0 then (2, []) else (0, resp)

/-! ## REMOTE_MGMT (R425) -/

/-- REMOTE_MGMT: chip (2 bytes), then a Callboard frame; it waits for the answering frame. -/
def State.remoteMgmt (s : State) (req : List Byte) : Answer × Option Nat × State :=
  let c := u16Of req 0
  match cbOfBytes (req.drop 2) with
  | none => ((2, []), none, s)
  | some f =>
    match (if s.chip = some c then none else s.route c 0) with
    | none => ((6, []), none, s)
    | some p => ((0, []), some c, s.sendFlit p (mirrorFlit c (ownChip s) f))

/-! ## Requests (R429, R430) -/

/-- The time limit of an opcode in ms; a private diagnostic's is not given. -/
def State.mboxLimit (s : State) (opcode : Nat) : Nat × State :=
  if 0x80 ≤ opcode then
    let (w, s) := s.drawWord
    (w.toNat % 2 ^ 16, s)
  else (match opcode with
    | 3 => 50
    | 4 => 2000
    | 5 => 100
    | 6 => 500
    | 7 => 500
    | 8 => 100
    | _ => 10, s)

/-- What a request has been given: its answer, the chip whose answer it waits for, and the staging that its completion makes. -/
structure Served where
  answer : Answer
  awaits : Option Nat := none
  stage  : Option (Nat × Nat × Nat) := none
  deriving DecidableEq, Repr

/-- What a request does. Opcodes 0x02 to 0x08 are the module controller's. -/
def State.serveMbox (s : State) (m opcode : Nat) (req : List Byte) : Served × State :=
  let plain := fun (a : Answer) => (({ answer := a } : Served), s)
  let pair := fun (x : Answer × State) => (({ answer := x.1 } : Served), x.2)
  if opcode = 1 then plain (noOperands req (Config.versionResponse m))
  else if 0x80 ≤ opcode then plain (0, Config.diagnosticResponse m opcode req)
  else if m ≠ 0 then plain (1, [])
  else match opcode with
    | 2 => plain (noOperands req identityStatement)
    | 3 => plain (s.attest req)
    | 4 => let x := s.fwStage req; ({ answer := x.1, stage := x.2.1 }, x.2.2)
    | 5 => pair (s.fwSelect req)
    | 6 => pair (s.svnAdvance req)
    | 7 => pair (s.keyRevoke req)
    | 8 => let x := s.remoteMgmt req; ({ answer := x.1, awaits := x.2.1 }, x.2.2)
    | _ => plain (1, [])

/-- The request buffer as it stands. -/
def State.mboxRequest (s : State) (m : Nat) : List Byte :=
  let n := s.get (R.mboxReqLen m)
  ((List.range (ceilDiv n 4)).flatMap fun i => natLe 4 (s.get ((R.mboxReq m).at_ i))).take n

/-- A doorbell: accepted by an idle mailbox only, from the host or from the sender of an MBOX_REQ. -/
def State.doorbell (s : State) (path : Path) (m opcode seq cbSrc : Nat) (cbSeq : Byte) (via : Option Nat) : State :=
  if s.get (R.mboxMstateState m) ≠ 0 then
    (s.set (R.mboxMstateCollide m) 1).raise 0x0905 (pgMBOX m) { detail := opcode }
  else
    let req := s.mboxRequest m
    let s := ((s.set (R.mboxMstateState m) 1).set (R.mboxMstateCollide m) 0).set (R.mboxMstateOwner m) (pathBit path)
    let s := (s.set (R.mboxMstateSeq m) seq).set (R.mboxMstateResult m) 0
    let (limit, s) := s.mboxLimit opcode
    let s := s.set (R.mboxMlimitMs m) limit
    let (a, s) := s.serveMbox m opcode req
    let x : MboxSt :=
      { opcode := opcode, req := req, result := a.answer.1, resp := a.answer.2.take 768, cbSrc := cbSrc, cbSeq := cbSeq, via := via,
        awaits := a.awaits, stage := a.stage }
    { s with mbox := AMap.put s.mbox m x }

/-- A write of DOORBELL by a path. -/
def State.ring (s : State) (path : Path) (m opcode seq : Nat) : State :=
  s.doorbell path m opcode seq 0 (BitVec.ofNat 8 seq) none

def execVersion (path : Path) (m : MboxId) (seq : Byte) (s : State) : Host.Outcome State Fault Refusal :=
  s.writeAt path (R.mboxDoorbellOpcode m) fun s => s.ring path m 1 seq.toNat

def execIdentity (path : Path) (m : MboxId) (seq : Byte) (s : State) : Host.Outcome State Fault Refusal :=
  s.writeAt path (R.mboxDoorbellOpcode m) fun s => s.ring path m 2 seq.toNat

def execAttest (path : Path) (m : MboxId) (seq : Byte) (s : State) : Host.Outcome State Fault Refusal :=
  s.writeAt path (R.mboxDoorbellOpcode m) fun s => s.ring path m 3 seq.toNat

def execFwStage (path : Path) (m : MboxId) (seq : Byte) (s : State) : Host.Outcome State Fault Refusal :=
  s.writeAt path (R.mboxDoorbellOpcode m) fun s => s.ring path m 4 seq.toNat

def execFwSelect (path : Path) (m : MboxId) (seq : Byte) (s : State) : Host.Outcome State Fault Refusal :=
  s.writeAt path (R.mboxDoorbellOpcode m) fun s => s.ring path m 5 seq.toNat

def execSvnAdvance (path : Path) (m : MboxId) (seq : Byte) (s : State) : Host.Outcome State Fault Refusal :=
  s.writeAt path (R.mboxDoorbellOpcode m) fun s => s.ring path m 6 seq.toNat

def execKeyRevoke (path : Path) (m : MboxId) (seq : Byte) (s : State) : Host.Outcome State Fault Refusal :=
  s.writeAt path (R.mboxDoorbellOpcode m) fun s => s.ring path m 7 seq.toNat

def execRemoteMgmt (path : Path) (m : MboxId) (seq : Byte) (s : State) : Host.Outcome State Fault Refusal :=
  s.writeAt path (R.mboxDoorbellOpcode m) fun s => s.ring path m 8 seq.toNat

/-- An opcode of 0x80 to 0xFF. -/
def execMboxDiagnostic (path : Path) (m : MboxId) (opcode seq : Byte) (s : State) : Host.Outcome State Fault Refusal :=
  s.writeAt path (R.mboxDoorbellOpcode m) fun s => s.ring path m (128 + opcode.toNat % 128) seq.toNat

/-! ## Completion and the end of a request -/

/-- Bytes into the response buffer. -/
def State.putResponse (s : State) (m : Nat) (b : List Byte) : State :=
  let s := s.set (R.mboxRespLen m) b.length
  (List.range (ceilDiv b.length 4)).foldl (fun (s : State) i => s.set ((R.mboxResp m).at_ i) (u32Of b (4 * i))) s

/-- A busy request completes: the host is signalled, or the Callboard sender gets MBOX_RESP with as much of the response as a frame
holds. -/
def State.mboxComplete (s : State) (m : Nat) (x : MboxSt) : State :=
  let s := ((s.set (R.mboxMstateState m) 2).set (R.mboxMstateResult m) x.result).putResponse m x.resp
  let s : State := { s with mbox := AMap.del s.mbox m }
  if s.flagReg (R.mboxMstateOwner m) then
    let seq := BitVec.ofNat 8 (s.get (R.mboxMstateSeq m))
    s.answerCb x.via x.cbSrc 0x41 x.cbSeq (natLe 2 m ++ [BitVec.ofNat 8 x.result, seq] ++ x.resp.take 252)
  else s.signal 0

/-- A request is done; one that waits for another chip's answer, or for the lines of an image (R215, R309, R402), is not. -/
def execMailboxDone (m : MboxId) (s : State) : Host.Outcome State Fault Refusal :=
  powered s fun s =>
    match AMap.find s.mbox m with
    | some x =>
      match x.stage with
      | some (t, off, len) =>
        if s.mustWait false off len then s
        else
          let (r, s) := s.fwWrite t off len
          s.mboxComplete m { x with result := r }
      | none => if x.awaits.isSome then s else s.mboxComplete m x
    | none => s

/-- A busy request ends as expired; what it has done stands. -/
def State.mboxExpire (s : State) (m : Nat) : State :=
  { s.set (R.mboxMstateState m) 3 with mbox := AMap.del s.mbox m }

/-- Busy at MLIMIT_MS. -/
def execMailboxExpired (m : MboxId) (s : State) : Host.Outcome State Fault Refusal :=
  powered s fun s =>
    match AMap.find s.mbox m with
    | some x => (s.mboxExpire m).raise 0x0904 (pgMBOX m) { detail := x.opcode }
    | none => s

/-- A write of MCTRL (R428, R429): refused from the path that does not own the request. -/
def State.writeMctrl (s : State) (path : Path) (m v : Nat) : State :=
  let st := s.get (R.mboxMstateState m)
  if v % 4 = 0 then s
  else if s.get (R.mboxMstateOwner m) ≠ pathBit path then s.refuseAccess path (R.mboxMctrlAck m).addr
  else
    let s := if bitAt v 1 ∧ st = 1 then s.mboxExpire m else s
    if bitAt v 0 ∧ 2 ≤ st then s.set (R.mboxMstateState m) 0 else s

def execMctrlAck (path : Path) (m : MboxId) (s : State) : Host.Outcome State Fault Refusal :=
  s.writeAt path (R.mboxMctrlAck m) fun s => s.writeMctrl path m 1

def execMctrlAbort (path : Path) (m : MboxId) (s : State) : Host.Outcome State Fault Refusal :=
  s.writeAt path (R.mboxMctrlAbort m) fun s => s.writeMctrl path m 2

end Sys2Proof.Machine
end

