-- ==== Sys2Proof/Machine/Writes.lean ====
section
/-! DEFINITION. A write of any BAR0 word (R404 to R410), with the effect its register has, and an access that no block answers. -/

namespace Sys2Proof.Machine

open Sys2Proof

/-! ## Words with an effect of their own -/

/-- A write that is dropped while something holds. -/
def State.unless (s : State) (held : Bool) (f : State → State) : State := if held then s else f s

/-- CS_TARGET (R60): kept while a sheet is armed. -/
def State.writeTarget (s : State) (path : Path) (off : Nat) (v : Word) : State :=
  if s.sheet.armed then (if v = s.word off then s else s.refuseAccess path off) else s.setWord off v

/-- The words of page HOST. The Callboard does not write the DMA block (R422). -/
def State.writeHost (s : State) (path : Path) (o : Nat) (v : Word) : State :=
  if 0x100 ≤ o ∧ o < 0x180 then
    let ch := (o - 0x100) / 0x20
    if path = .callboard then s.refuseAccess path o
    else if o % 0x20 = 0x08 then s.writeDmaCtrl ch v []
    else if o % 0x20 = 0x0C then s.writeTail ch (v.toNat % 2 ^ 16) []
    else s.writeFields path o v fun _ => false
  else if o = R.hostEvqBaseLo.addr ∨ o = R.hostEvqBaseHi.addr then
    s.unless (s.flagReg R.hostEvqCtrlEn) fun s => s.writeFields path o v fun _ => false
  else if o = R.hostEvqCtrlEn.addr then s.writeEvqCtrl path v
  else if o = R.hostEvqRd.addr then s.writeEvqRd v.toNat
  else if o = R.hostLoadCtrlGo.addr then s.writeLoadCtrl path v.toNat
  else s.writeFields path o v fun _ => false

def State.writeMgmt (s : State) (path : Path) (off : Nat) (v : Word) : State :=
  if off = R.mgmtChipNumber.addr then s.writeChip path v
  else if off = R.mgmtResetLevel.addr then s.writeReset path (v.toNat % 8)
  else if off = R.mgmtFaultCtrlClear.addr then (if bitAt v.toNat 0 then s.clearFaults else s)
  else s.writeFields path off v fun _ => false

def State.writeCue (s : State) (path : Path) (off : Nat) (v : Word) : State :=
  if off = R.cueAlignCtrlStart.addr then s.writeAlignCtrl v.toNat
  else if off = R.cueCsCtrlArm.addr then s.writeCsCtrl path v.toNat
  else if off = R.cueCsTargetLo.addr ∨ off = R.cueCsTargetHi.addr then s.writeTarget path off v
  else s.writeFields path off v fun _ => false

def State.writeCmd (s : State) (path : Path) (off : Nat) (v : Word) : State :=
  if off = R.cmdCaptureClearHaz.addr then s.writeCapture v.toNat
  else if off = R.cmdTraceCtrlEn.addr then s.writeTraceCtrl path v
  else if off = R.cmdTraceBaseLo.addr ∨ off = R.cmdTraceBaseHi.addr ∨ off = R.cmdTraceSize.addr then
    s.unless (s.flagReg R.cmdTraceCtrlEn) fun s => s.writeFields path off v fun _ => false
  else s.writeFields path off v fun _ => false

/-- Interleave keys are fixed once locked (R214). -/
def State.writeMemPage (s : State) (path : Path) (off : Nat) (v : Word) : State :=
  if off = R.memIlCtrlLock1.addr then s.writeIlCtrl v.toNat
  else if off = R.memIlKey1Lo.addr ∨ off = R.memIlKey1Hi.addr then
    s.unless (s.flagReg R.memIlStatusLocked1) fun s => s.setWord off v
  else if off = R.memIlKey2Lo.addr ∨ off = R.memIlKey2Hi.addr then
    s.unless (s.flagReg R.memIlStatusLocked2) fun s => s.setWord off v
  else if off = R.memUncClear.addr then (if bitAt v.toNat 0 then s.set R.memUncFirstValid 0 else s)
  else if off = R.memSnapCtrlArm.addr then
    let s := if bitAt v.toNat 0 then s.armSnapshot path else s
    if bitAt v.toNat 1 then s.abortSnapshot else s
  else s.writeFields path off v fun _ => false

def State.writeColl (s : State) (path : Path) (off : Nat) (v : Word) : State :=
  if off = R.collSlackCtrlEn.addr then s.writeSlackCtrl path v
  else if off = R.collSlackBaseLo.addr ∨ off = R.collSlackBaseHi.addr then
    s.unless (s.flagReg R.collSlackCtrlEn) fun s => s.writeFields path off v fun _ => false
  else if off = R.collCountClearAll.addr then (if bitAt v.toNat 0 then s.clearGroupCounts else s)
  else s.writeFields path off v fun _ => false

/-- A slew limit outside 1 to 20 is ignored (R393). -/
def State.writePwr (s : State) (path : Path) (off : Nat) (v : Word) : State :=
  if off = R.pwrCapW.addr then s.writeCap v
  else if off = R.pwrSlewWPerUs.addr then
    s.unless (v.toNat % 32 == 0 || decide (20 < v.toNat % 32)) fun s => s.set R.pwrSlewWPerUs (v.toNat % 32)
  else if off = R.pwrCoolingClear.addr then
    (if bitAt v.toNat 0 then (s.setPwr { s.pwr with cooling := none }).thermState else s)
  else if off = R.pwrAgeCtrlNow.addr then (if bitAt v.toNat 0 then s.setPwr { s.pwr with replanAsk := true } else s)
  else s.writeFields path off v fun _ => false

/-- The request buffer and its length are fixed while the request is busy (R429). -/
def State.writeMboxPage (s : State) (path : Path) (m off : Nat) (v : Word) : State :=
  let o := off % 0x1000
  if o = 0x40 then s.ring path m (v.toNat % 256) (v.toNat / 256 % 256)
  else if o = 0x50 then s.writeMctrl path m v.toNat
  else if s.get (R.mboxMstateState m) = 1 then s.refuseAccess path off
  else s.writeFields path off v fun _ => false

/-- The registers common to every page (R407, R408): EVENT is cleared by writing ones, EVENT_FORCE raises. -/
def State.writeCommon (s : State) (path : Path) (off : Nat) (v : Word) : State :=
  let page := off / 0x1000
  if off % 0x1000 = 0x10 then s.setWord off (s.word off &&& ~~~v)
  else if off % 0x1000 = 0x18 then s.forceEvents page v.toNat
  else s.writeFields path off v fun _ => false

/-- The words of a page with an effect of its own. -/
def State.writePage (s : State) (path : Path) (off : Nat) (v : Word) : PageKind → State
  | .host => s.writeHost path off v
  | .mgmt => s.writeMgmt path off v
  | .cue => s.writeCue path off v
  | .cmd => s.writeCmd path off v
  | .mem => s.writeMemPage path off v
  | .coll => s.writeColl path off v
  | .link => if off = R.linkCtrlTrain.addr then s.writeLinkCtrl v.toNat else s.writeFields path off v fun _ => false
  | .pwr => s.writePwr path off v
  | .cell c => if off % 0x1000 = 0x78 then (if bitAt v.toNat 0 then s.clearCell c else s) else s.writeFields path off v fun _ => false
  | .port p => if off % 0x1000 = 0x60 then s.writePortCtrl path p v.toNat else s.writeFields path off v fun _ => false
  | .mbox m => s.writeMboxPage path m off v
  | .scale => s.writeFields path off v fun _ => false
  | .upd => s.writeFields path off v fun _ => false
  | .commit => s.writeFields path off v fun _ => false
  | .stack _ => s.writeFields path off v fun _ => false

/-- One aligned 32-bit write (R405): a shadow word, a staged word at its live offset, or a live word that software may write. -/
def State.writeWord (s : State) (path : Path) (off : Nat) (v : Word) : State :=
  if !s.pageOpen (off / 0x1000) then s.refuseAccess path off
  else match pageKind (off / 0x1000) with
    | none => s.refuseAccess path off
    | some kind =>
      if 0x800 ≤ off % 0x1000 then s.stageWrite path off v
      else
        let open_ := (rowsAt off).filter fun r => decide (r.acc ≠ .ro ∧ r.acc ≠ .sat)
        if open_.isEmpty then s.refuseAccess path off
        else if open_.any fun r => decide (r.acc = .st) then s.stageWrite path (off + 0x800) v
        else if off % 0x1000 < 0x40 then s.writeCommon path off v
        else s.writePage path off v kind

/-- A write of a size in bytes (R404): 64 bits count as two words, lower address first. -/
def State.writeSized (s : State) (path : Path) (off size : Nat) (v : DWord) : State :=
  if off % 4 ≠ 0 ∨ (size ≠ 4 ∧ size ≠ 8) then s.refuseAccess path off
  else
    let s := s.writeWord path off (v.setWidth 32)
    if size = 8 then s.writeWord path (off + 4) ((v >>> 32).setWidth 32) else s

def execRegisterWrite (path : Path) (off : Nat) (size : Nat) (v : DWord) (s : State) : Host.Outcome State Fault Refusal :=
  if s.pathOpen path then done (s.writeSized path off size v) else done s

end Sys2Proof.Machine
end

