-- ==== Sys2Proof/Machine/Callboard.lean ====
section
/-! DEFINITION. The Callboard (R417 to R425): frames that arrive, forwarding, enumeration, register access, telemetry, firmware
recovery, and management mirrors. -/

namespace Sys2Proof.Machine

open Sys2Proof

/-! ## Symbols (R417) -/

/-- A symbol of a pair before its 8b/10b code (log 94): K28.5 on an idle line, K27.7 and K29.7 around a frame, and its bytes. -/
inductive CbSymbol where
  | k28_5
  | k27_7
  | k29_7
  | data (b : Byte)
  deriving DecidableEq, Repr

/-- A frame on a pair. -/
def cbSymbols (f : CbFrame) : List CbSymbol := .k27_7 :: (cbBytes f).map .data ++ [.k29_7]

/-! ## Frames (R418, R420) -/

/-- A frame sent on, either way. -/
def State.forwardCb (s : State) (f : CbFrame) : State := s.emit (.callboard f)

/-- CALLBOARD FRAME ERROR: 0 HCRC, 1 CRC. -/
def State.frameError (s : State) (crc : Bool) : State :=
  (s.inc (if crc then R.mgmtCbCrcErrors else R.mgmtCbHcrcErrors) 1).raise 0x0906 pgMGMT { detail := boolNat crc }

/-- A frame that comes from downstream shows that the module is no tail (R421). -/
def State.fromBelow (s : State) (f : CbFrame) : State := if f.up then s.set R.mgmtCbTail 0 else s

/-- A downstream frame for this module. -/
def State.cbMine (s : State) (f : CbFrame) : Bool := !f.up && (f.bcast || (s.cbValid && f.dest == s.cbPos))

/-- A frame that arrives, of a type this module acts on: sent on where it is for others, dropped where a check fails. `first`: a
broadcast goes on before the act. -/
def State.cbReceive (s : State) (f : CbFrame) (first : Bool) (act : State → State) : State :=
  if !cbHcrcOk f then s.frameError false
  else if !s.cbMine f then (s.fromBelow f).forwardCb f
  else if !cbCrcOk f then (if f.bcast then s.forwardCb f else s).frameError true
  else if !f.bcast then act s
  else if first then act (s.forwardCb f)
  else (act s).forwardCb f

/-- Types of a request to a module, which have rows of their own. -/
def requestType (t : Byte) : Bool := t == 0x10 || t == 0x12 || t == 0x30 || t == 0x40 || t == 0x50

/-- A frame that is not addressed to the module (R420), or is and has a type that no other row takes: its CRC is checked, and it is
dropped (R418, R419). -/
def execCallboardForward (f : CbFrame) (s : State) : Host.Outcome State Fault Refusal :=
  powered s fun s =>
    if f.type = 0x01 ∨ (requestType f.type ∧ s.cbMine f) then (if cbHcrcOk f then s else s.frameError false)
    else s.cbReceive f false fun s => s

/-! ## Enumeration (R421) -/

/-- ENUMERATE: the module takes the next position; the tail, or a module past position 63, reports to the head. -/
def State.onEnumerate (s : State) (f : CbFrame) : State :=
  if f.payload.length ≠ 1 then s
  else
    let next := byteOf f.payload 0
    if 63 < next then (s.set R.mgmtCbValid 0).sendOwn 0 0x02 f.seq [63, 1]
    else
      let s := (s.set R.mgmtCbPosition next).set R.mgmtCbValid 1
      if s.flagReg R.mgmtCbTail then s.sendOwn 0 0x02 f.seq [BitVec.ofNat 8 next, 0]
      else s.forwardCb (cbMake f.dest f.bcast false next 0x01 f.seq [BitVec.ofNat 8 (next + 1)])

def execEnumerate (f : CbFrame) (s : State) : Host.Outcome State Fault Refusal :=
  powered s fun s =>
    if f.type ≠ 0x01 ∨ f.up then s
    else if !cbHcrcOk f then s.frameError false
    else if !cbCrcOk f then s.frameError true
    else s.onEnumerate f

/-- ENUM_DONE goes on toward the head, and its length is kept. -/
def State.onEnumDone (s : State) (f : CbFrame) : State :=
  let s := s.forwardCb f
  let n := byteOf f.payload 0
  if f.payload.length ≠ 2 ∨ !cbCrcOk f then s
  else (s.set R.mgmtCbLength n).raise 0x0907 pgMGMT { detail := n }

def execEnumDone (f : CbFrame) (s : State) : Host.Outcome State Fault Refusal :=
  powered s fun s =>
    if f.type ≠ 0x02 ∨ !f.up then s
    else if !cbHcrcOk f then s.frameError false
    else (s.fromBelow f).onEnumDone f

/-- No idle symbols from downstream for 100 µs. -/
def execCallboardTailDetect (s : State) : Host.Outcome State Fault Refusal :=
  powered s fun s => s.set R.mgmtCbTail 1

/-! ## Register access (R404, R405, R422) -/

/-- A read of an aligned word: its value, and whether its page refuses; TIME_LO latches TIME_HI (R39). The word `dead` does not answer in
time (R406). -/
def State.readReg (s : State) (path : Path) (dead : Option Nat) (off : Nat) : Word × Bool × State :=
  if dead = some off then (BitVec.allOnes 32, false, s)
  else if !s.pageOpen (off / 0x1000) then (0, true, s.refuseAccess path off)
  else
    let s := if off = R.cueTimeLo.addr then s.set R.cueTimeHi (s.time.toNat / 2 ^ 32) else s
    (s.readWord off, false, s)

/-- `n` words from an offset on, and whether any was refused. -/
def State.readRegs (path : Path) (dead : Option Nat) : Nat → Nat → State → List Byte × Bool × State
  | 0, _, s => ([], false, s)
  | n + 1, off, s =>
    let (v, bad, s) := s.readReg path dead off
    let (l, more, s) := State.readRegs path dead n (off + 4) s
    (natLe 4 v.toNat ++ l, bad || more, s)

/-- A read of a size in bytes (R404): 64 bits count as two words, lower address first; any other size returns bytes of the aligned
word. -/
def State.readSized (s : State) (path : Path) (off size : Nat) : List Byte × Bool × State :=
  if size = 8 then State.readRegs path none 2 (off / 4 * 4) s
  else
    let (l, bad, s) := State.readRegs path none 1 (off / 4 * 4) s
    (slice l (off % 4) (min size (4 - off % 4)), bad, s)

/-- The status of a register answer (R419). -/
def regStatus (dead : Option Nat) (bad : Bool) : Byte := if dead.isSome then 2 else BitVec.ofNat 8 (boolNat bad)

/-- REG_READ; `dead` names a word that does not answer in time. -/
def State.onRegRead (s : State) (via : Option Nat) (f : CbFrame) (dead : Option Nat) : State :=
  let n := byteOf f.payload 4
  if f.payload.length ≠ 5 ∨ n = 0 ∨ 62 < n then s.answerCb via f.src 0x11 f.seq [3, 0, 0, 0]
  else
    let (l, bad, s) := State.readRegs .callboard dead n (u32Of f.payload 0 / 4 * 4) s
    s.answerCb via f.src 0x11 f.seq ([regStatus dead bad, 0, 0, 0] ++ l)

/-- A write and whether it was refused. -/
def State.tryWrite (s : State) (path : Path) (off : Nat) (v : Word) : State × Bool :=
  if off = R.mgmtResetLevel.addr then
    (s.writeWord path off v, v.toNat % 8 = 0 || decide (4 < v.toNat % 8))
  else
    let n := s.get R.hostBadAccess
    let s := (s.set R.hostBadAccess 0).writeSized path off 4 (v.setWidth 64)
    let m := s.get R.hostBadAccess
    (s.set R.hostBadAccess (min (n + m) (2 ^ 32 - 1)), m != 0)

/-- Words in order up to the first that is refused; the word `dead` is dropped (R406). -/
def State.writeRegs (path : Path) (dead : Option Nat) : Nat → Nat → List Byte → State → State × Bool
  | 0, _, _, s => (s, false)
  | n + 1, off, b, s =>
    let (s, bad) := if dead = some off then (s, false) else s.tryWrite path off (BitVec.ofNat 32 (u32Of b 0))
    if bad then (s, true) else State.writeRegs path dead n (off + 4) (b.drop 4) s

/-- REG_WRITE; `dead` names a word that does not answer in time. -/
def State.onRegWrite (s : State) (via : Option Nat) (f : CbFrame) (dead : Option Nat) : State :=
  let n := (f.payload.length - 4) / 4
  if f.payload.length % 4 ≠ 0 ∨ n = 0 ∨ 62 < n then s.answerCb via f.src 0x13 f.seq [3]
  else
    let (s, bad) := State.writeRegs .callboard dead n (u32Of f.payload 0) (f.payload.drop 4) s
    s.answerCb via f.src 0x13 f.seq [regStatus dead bad]

/-- Register requests are answered from the end of start-up step 1 on (R444). -/
def State.whenOpen (s : State) (act : State → State) : State := if s.pathOpen .callboard then act s else s

def execRegRead (f : CbFrame) (s : State) : Host.Outcome State Fault Refusal :=
  powered s fun s => if f.type = 0x10 then s.cbReceive f false fun s => s.whenOpen fun s => s.onRegRead none f none else s

def execRegWrite (f : CbFrame) (s : State) : Host.Outcome State Fault Refusal :=
  powered s fun s => if f.type = 0x12 then s.cbReceive f false fun s => s.whenOpen fun s => s.onRegWrite none f none else s

/-- A block does not answer within its page's timeout (R406): a read returns all ones, a write is dropped. The Callboard request that
the access belongs to is answered with status 2 (R419). -/
def execRegisterTimeout (path : Path) (off : Nat) (acc : LateAccess) (s : State) : Host.Outcome State Fault Refusal :=
  if !s.pathOpen path ∨ !s.pageOpen (off / 0x1000) then done s
  else
    let dead := some (off / 4 * 4)
    let late := fun (s : State) => s.raise 0x0807 pgHOST { detail := off / 0x1000 }
    match acc with
    | .read => done ((late s).emit (.readData path (BitVec.allOnes 32)))
    | .write => done (late s)
    | .request f =>
      if path = .host then done (late s)
      else done (s.cbReceive f false fun s =>
        if f.type = 0x12 then (late s).onRegWrite none f dead
        else if f.type = 0x10 then (late s).onRegRead none f dead
        else s)

/-! ## Reset, mailboxes (R419, R423, R429) -/

/-- RESET: a level of 1 to 4; any other value makes the frame malformed. -/
def State.onReset (s : State) (f : CbFrame) : State :=
  let level := byteOf f.payload 0
  if f.payload.length ≠ 1 ∨ level = 0 ∨ 4 < level then s else s.resetModule level 1

/-- A broadcast RESET goes on before the module acts on it. -/
def execReset (f : CbFrame) (s : State) : Host.Outcome State Fault Refusal :=
  powered s fun s => if f.type = 0x30 then s.cbReceive f true fun s => s.onReset f else s

/-- A request for the Callboard: its bytes in the buffer of an idle mailbox, and its doorbell. -/
def State.onMbox (s : State) (via : Option Nat) (f : CbFrame) : State :=
  let m := u16Of f.payload 0
  let seq := f.payload.getD 3 0
  let req := f.payload.drop 4
  if f.payload.length < 4 ∨ 138 ≤ m then s.answerCb via f.src 0x41 f.seq (natLe 2 m ++ [3, seq])
  else if !s.pageOpen (pgMBOX m) then
    (s.refuseAccess .callboard (R.mboxDoorbellOpcode m).addr).answerCb via f.src 0x41 f.seq (natLe 2 m ++ [1, seq])
  else
    let s := if s.get (R.mboxMstateState m) ≠ 0 then s
      else
        let s := s.set (R.mboxReqLen m) req.length
        (List.range (ceilDiv req.length 4)).foldl (fun (s : State) i => s.set ((R.mboxReq m).at_ i) (u32Of req (4 * i))) s
    s.doorbell .callboard m (byteOf f.payload 2) seq.toNat f.src f.seq via

def execMboxReq (f : CbFrame) (s : State) : Host.Outcome State Fault Refusal :=
  powered s fun s => if f.type = 0x40 then s.cbReceive f false fun s => s.whenOpen fun s => s.onMbox none f else s

/-! ## Firmware recovery (R434) -/

/-- The header and body of the image under way have come. -/
def imageWhole (b : List Byte) : Bool := decide (0x80 ≤ b.length ∧ 0x80 + u32Of b 0x10 ≤ b.length)

/-- The images started from SRAM: the sequence goes on with step 3. -/
def State.startFromSram (s : State) : State :=
  if s.fw.sram.all (·.isSome) then
    let s := (s.runFirmware (s.fw.sram.filterMap id)).raise 0x0902 pgMGMT
    (s.set R.mgmtStartState 0).beginStep 3
  else s

/-- A block at a byte offset; offset 0 begins an image. A whole image is checked under R432 and kept in SRAM. A malformed block is answered
with status 3; R419 gives the status of an acknowledgement no other value: it is the boot ROM's. -/
def State.onRecovery (s : State) (via : Option Nat) (f : CbFrame) (status : Byte) : State :=
  let off := u32Of f.payload 0
  let ack := fun (s : State) (status : Byte) => s.answerCb via f.src 0x51 f.seq (natLe 4 off ++ [status])
  if s.get R.mgmtStartState ≠ 3 then s
  else if f.payload.length < 5 then ack s 3
  else
    let b := fitBytes off s.fw.stage ++ f.payload.drop 4
    if !imageWhole b then ack { s with fw := { s.fw with stage := b } } status
    else
      let t := byteOf b 4
      let good := u32Of b 0 == 0x46375442 && u16Of b 6 == 1 && typeOk t && s.fwPasses t (some b)
      let s : State := { s with fw := { s.fw with stage := [], sram := if good then s.fw.sram.set (t - 1) (some b) else s.fw.sram } }
      (ack s status).startFromSram

def execRecoveryBlock (f : CbFrame) (status : Byte) (s : State) : Host.Outcome State Fault Refusal :=
  powered s fun s => if f.type = 0x50 then s.cbReceive f false fun s => s.onRecovery none f status else s

/-! ## Telemetry (R424) -/

/-- The 48 bytes of a TELEMETRY frame. -/
def State.telemetryBytes (s : State) : List Byte :=
  let b2 := fun (f : Fld) => natLe 2 (s.get f)
  natLe 8 s.time.toNat ++ b2 R.pwrMeasW ++ b2 R.pwrEstW ++ b2 R.pwrVin ++ b2 R.pwrIin ++ b2 R.pwrTjTemp ++ b2 R.pwrInlet ++
    b2 R.pwrOutlet ++ b2 R.pwrClockMhz ++ natLe 1 (s.get R.pwrThermState) ++
    natLe 1 (boolNat (s.get R.hostLinkRate != 0) + boolNat s.loaded * 2 + s.get R.mgmtFwRecovery * 4) ++
    natLe 4 (portMask s.portIsUp).toNat ++ natLe 2 0 ++ natLe 8 s.stepCount ++ natLe 4 s.host.evSince ++ natLe 4 0

/-- A module with a position, TELEM_MS not 0. -/
def execTelemetry (s : State) : Host.Outcome State Fault Refusal :=
  powered s fun s =>
    if !s.cbValid ∨ s.get R.mgmtCbTelemMs = 0 then s
    else
      let s := s.sendOwn 0 0x21 (BitVec.ofNat 8 s.cb.seq) s.telemetryBytes
      { s with cb := { s.cb with seq := (s.cb.seq + 1) % 256 }, host := { s.host with evSince := 0 } }

/-! ## A nanosecond with no command (R38, R39) -/

/-- The oldest own frame that waits goes out. -/
def State.sendHeldFrame (s : State) : State :=
  match s.cb.own with
  | [] => s
  | f :: l => { s with cb := { s.cb with own := l }, out := s.out ++ [.callboard f] }

/-- The counter counts while the module has power; the oldest own frame leaves (R420), and trace records that wait are written (R174). -/
def State.idle (s : State) : State :=
  if s.start.powered then { s.sendHeldFrame.traceOut.flush with time := s.time + 1 } else s

/-! ## Management mirrors (R425) -/

/-- The answer that a REMOTE_MGMT waits for. -/
def State.onAnswer (s : State) (src : Nat) (f : CbFrame) : State :=
  match AMap.find s.mbox 0 with
  | some x =>
    if x.awaits = some src then { s with mbox := AMap.put s.mbox 0 { x with resp := cbBytes f, awaits := none } } else s
  | none => s

/-- What a mirrored frame does, by its type. -/
def State.mirrored (s : State) (src : Nat) (f : CbFrame) : State :=
  match f.type.toNat with
    | 0x01 => s.onEnumerate f
    | 0x02 => s.onEnumDone f
    | 0x10 => s.onRegRead (some src) f none
    | 0x12 => s.onRegWrite (some src) f none
    | 0x30 => s.onReset f
    | 0x40 => s.onMbox (some src) f
    | 0x11 => s.onAnswer src f
    | 0x13 => s.onAnswer src f
    | 0x41 => s.onAnswer src f
    | 0x50 => s.onRecovery (some src) f 0
    | 0x51 => s.onAnswer src f
    | _ => s

/-- A mirrored frame, as if it had come on the module's own Callboard: it is for this module whatever its position, a broadcast goes on
down the chain, and answers go back to its chip. -/
def State.takeMirror (s : State) (src : Nat) (f : CbFrame) : State :=
  if !cbHcrcOk f then s.frameError false
  else if !cbCrcOk f then s.frameError true
  else if !f.bcast ∨ f.type = 0x01 ∨ f.type = 0x02 then s.mirrored src f
  else if f.type = 0x30 then (s.forwardCb f).mirrored src f
  else (s.mirrored src f).forwardCb f

/-- A management mirror flit: passed on, or taken at its chip. -/
def execMgmtMirrorReceived (p : PortId) (destChip srcChip : Nat) (frame : CbFrame) (s : State) :
    Host.Outcome State Fault Refusal :=
  if !s.dataOn ∨ !s.portLive p then done s
  else
    let (f, s) := s.arrive p (mirrorFlit destChip srcChip frame)
    if s.chip = some destChip then done ((s.releaseFlit p f).takeMirror srcChip frame)
    else done (s.goOn p f)

end Sys2Proof.Machine
end

