-- ==== Sys2Proof/Machine/Lanes.lean ====
section
/-! DEFINITION. The understudy, narrowing and lane switches (R332, R360 to R363, R366), credit reinitialisation (R346), and the
optical monitors (R358, R359). -/

namespace Sys2Proof.Machine

open Sys2Proof

/-! ## Swaps and narrowings -/

/-- A lane command on VC 0 (R338, R361). -/
def State.laneCmd (s : State) (p op lane frame : Nat) : State := s.sendCtl p 0 (laneWord s op lane frame)

def State.setDir (s : State) (p : Nat) (d : Dir) (y : DirSt) : State := s.setPort p ((s.port p).setDir d y)

/-- The transmitting end announces a switch on every active lane for 16 frames (R332); while a credit reinitialisation runs it waits
(R366). -/
def State.announce (s : State) (p : Nat) (narrow : Bool) : State :=
  let x := s.port p
  let y := x.tx
  if x.reinit then s.setDir p .tx { y with swap := if narrow then .narrowing else .verified }
  else
    let d := { y with swap := if narrow then SwapPhase.narrowing else .switching, switchAt := some (wrap32 (x.nextTx + 16)) }
    (List.range 16).foldl (fun (s : State) i =>
      let frame := wrap32 (x.nextTx + i)
      s.emit (.markers p frame ((d.map.take d.inUse).map (d.marker frame)))) (s.setDir p .tx d)

/-- A lane of a direction with no understudy narrows without loss (R363): the receiving end asks, the transmitting end announces. -/
def State.narrowLane (s : State) (p : Nat) (d : Dir) (lane : Nat) : State :=
  let y := (s.port p).dir d
  let k := y.logicalOf lane
  match d with
  | .rx =>
    let s := s.setDir p .rx { y with swap := .narrowing, target := k, own := true }
    s.laneCmd p 4 k (s.port p).lastGood
  | .tx => (s.setDir p .tx { y with target := k, own := true }).announce p true

/-- The transmitting end begins a swap (R361 order 2). -/
def State.startSwapTx (s : State) (p k u : Nat) (own : Bool) : State :=
  let y := (s.port p).tx
  let s := s.setDir p .tx { y with lanes := y.lanes.set u .training, swap := .training, target := k, own := own }
  s.emit (.trainLane p u)

/-- One lane meets a trigger (R360, R363, R366): it swaps, narrows, waits for the swap under way, or finds no spare. -/
def State.trigger (s : State) (p : Nat) (d : Dir) (lane : Nat) : State :=
  let y := (s.port p).dir d
  if y.lanes.getD lane .failed ≠ .active ∨ !s.portIsUp p then s
  else if y.narrow then s.portEvent p 0x0407 (laneDetail d lane)
  else if y.swap ≠ .none then
    if y.later.contains lane ∨ y.logicalOf lane = y.target then s
    else s.setDir p d { y with later := y.later ++ [lane] }
  else match y.spare with
    | none => s.narrowLane p d lane
    | some u =>
      let k := y.logicalOf lane
      match d with
      | .tx => s.startSwapTx p k u true
      | .rx =>
        let s := s.setDir p .rx { y with lanes := y.lanes.set u .training, swap := .training, target := k, own := true }
        s.laneCmd p 1 k 0

/-- The swap or narrowing of a direction has ended: lanes that waited meet their trigger now (R366). -/
def State.afterSwap (s : State) (p : Nat) (d : Dir) : State :=
  let l := ((s.port p).dir d).later
  let s := s.setDir p d { (s.port p).dir d with later := [] }
  l.foldl (fun s lane => s.trigger p d lane) s

/-- A lane meets a condition of R360: the receiving end counts windows of errors and readings of the margin, the transmitting end
windows of the bias. -/
def LaneMon.triggered (m : LaneMon) : Dir → Bool
  | .rx => decide (10 ≤ m.berRun) || decide (100 ≤ m.omaRun)
  | .tx => decide (10 ≤ m.biasRun)

/-- Lanes of one evaluation in order of their OMA margins (R366). -/
def insertMargin (e : Nat × Int) : List (Nat × Int) → List (Nat × Int)
  | [] => [e]
  | y :: l => if e.2 < y.2 then e :: y :: l else y :: insertMargin e l

/-- The active lanes that meet a trigger: by margin where this end measures it, else by number (log 77). -/
def State.triggered (s : State) (p : Nat) (d : Dir) : List Nat :=
  let x := s.port p
  let l := (List.range 9).filter fun i =>
    decide ((x.dir d).lanes.getD i .failed = .active) && (x.mons.getD i LaneMon.empty).triggered d
  match d with
  | .tx => l
  | .rx => (l.foldl (fun o i => insertMargin (i, signedOf 16 (s.get ((R.portLaneOmaMargin p).at_ i))) o) []).map (·.1)

/-- An evaluation of some lanes: those that meet a trigger are seen to; what counted toward it starts again. -/
def execUnderstudyTrigger (p : PortId) (d : Dir) (lanes : List LaneId) (s : State) : Host.Outcome State Fault Refusal :=
  if !s.dataOn ∨ !s.portIsUp p then done s
  else
    let l := (s.triggered p d).filter fun i => lanes.any fun x => decide (x.val = i)
    let clear := fun (m : LaneMon × Nat) =>
      if !l.contains m.2 then m.1
      else match d with
        | .rx => { m.1 with berRun := 0, omaRun := 0 }
        | .tx => { m.1 with biasRun := 0 }
    let s := s.setPort p { s.port p with mons := (s.port p).mons.zipIdx.map clear }
    done (l.foldl (fun s i => s.trigger p d i) s)

/-- OP 1 (R361): the transmitting end trains the understudy for lane k. -/
def execLaneCmdRequest (p : PortId) (lane : LogicalId) (s : State) : Host.Outcome State Fault Refusal :=
  let y := (s.port p).tx
  if !s.dataOn ∨ !s.portIsUp p ∨ y.narrow then done s
  else
    let phys := y.map.getD lane 9
    if y.swap ≠ .none then
      done (if y.later.contains phys ∨ y.target = lane.val then s
        else s.setDir p .tx { y with later := y.later ++ [phys] })
    else match y.spare with
      | some u => done (s.startSwapTx p lane u false)
      | none => done s

/-- OP 2: the transmitting end mirrors lane k onto the understudy. -/
def execLaneCmdUnderstudyLocked (p : PortId) (_lane : LogicalId) (s : State) : Host.Outcome State Fault Refusal :=
  let y := (s.port p).tx
  if !s.dataOn ∨ !s.portIsUp p ∨ y.swap ≠ .training then done s
  else match y.lanes.findIdx? fun l => decide (l = .training) with
    | none => done s
    | some u => done ((s.setDir p .tx { y with swap := .mirroring }).emit (.mirrorLane p y.target u))

/-- OP 3: the switch is announced. -/
def execLaneCmdMirrorVerified (p : PortId) (_lane : LogicalId) (_frame : Nat) (s : State) :
    Host.Outcome State Fault Refusal :=
  if !s.dataOn ∨ !s.portIsUp p ∨ (s.port p).tx.swap ≠ .mirroring then done s
  else done (s.announce p false)

/-- OP 4: the transmitting end announces the narrowing; in 7-lane mode nothing changes. -/
def execLaneCmdNarrowRequest (p : PortId) (lane : LogicalId) (_frame : Nat) (s : State) : Host.Outcome State Fault Refusal :=
  let y := (s.port p).tx
  if !s.dataOn ∨ !s.portIsUp p then done s
  else if y.narrow then done (s.portEvent p 0x0407 (laneDetail .tx (y.map.getD lane 0)))
  else if y.swap ≠ .none then done (s.setDir p .tx { y with later := y.later ++ [y.map.getD lane 9] })
  else done ((s.setDir p .tx { y with target := lane, own := false }).announce p true)

/-- The understudy of a direction fails (R362): the attempt stops, and the lane it was for is handled as one with no understudy, by
the end that met its trigger. -/
def State.understudyFails (s : State) (p : Nat) (d : Dir) : State :=
  let y := (s.port p).dir d
  let training := y.lanes.findIdx? fun l => decide (l = .training)
  match (match d with
    | .rx => training.or y.spare
    | .tx => training) with
  | none => s
  | some u =>
    let own := y.own
    let phys := y.map.getD y.target 9
    let later := if own then phys :: y.later else y.later
    let s := s.setDir p d { y.stop with lanes := y.lanes.set u .failed, later := later }
    (s.portEvent p 0x0406 (laneDetail d u)).afterSwap p d

/-- 1 ms of qualification for logical lane k ends (R361 order 2): OP 2 for k where the understudy has locked and qualifies under R354, or
nothing, when the transmitting end will time out. -/
def execUnderstudyQualifyDone (p : PortId) (q : Qualified) (s : State) : Host.Outcome State Fault Refusal :=
  let y := (s.port p).rx
  if !s.dataOn ∨ !s.portIsUp p ∨ !q.locked then done s
  else
    let u := match y.swap with
      | .none => y.spare
      | .training => y.lanes.findIdx? fun l => decide (l = .training)
      | _ => none
    match u with
    | none => done s
    | some u =>
      if !laneOk 1 q.meas ((s.port p).mons.getD u LaneMon.empty).peerBol then done s
      else
        let s := s.setDir p .rx { y with lanes := y.lanes.set u .training, swap := .mirroring, target := q.lane }
        done (s.laneCmd p 2 q.lane 0)

/-- 64 mirrored frames have been compared (R361 order 3, R362): OP 3, or nothing, when the transmitting end stops the attempt. -/
def execMirrorCompareDone (p : PortId) (equal : Bool) (s : State) : Host.Outcome State Fault Refusal :=
  let y := (s.port p).rx
  if !s.dataOn ∨ !s.portIsUp p ∨ y.swap ≠ .mirroring then done s
  else if equal then
    done ((s.setDir p .rx { y with swap := .switching }).laneCmd p 3 (y.target % 8) (s.port p).lastGood)
  else done s

/-- No OP 2 within 2 ms of the request, or no OP 3 for the mirrored frames: the transmitting end stops the attempt (R362). -/
def execUnderstudyTimeout (p : PortId) (s : State) : Host.Outcome State Fault Refusal :=
  let y := (s.port p).tx
  if !s.dataOn ∨ !s.portIsUp p ∨ (y.swap ≠ .training ∧ y.swap ≠ .mirroring) then done s
  else done ((s.laneCmd p 6 y.target 0).understudyFails p .tx)

/-- OP 6: the transmitting end has stopped the attempt; the understudy is that of this end's receive direction. -/
def execLaneCmdUnderstudyFailed (p : PortId) (s : State) : Host.Outcome State Fault Refusal :=
  if !s.dataOn ∨ !s.portIsUp p then done s else done (s.understudyFails p .rx)

/-- From the switch frame (R332, R333, R361, R363): logical lane k on the understudy, its old lane retired; or 7-lane mode on the
other lanes. The transmitting end switches at the frame it announced; the receiving end at the frame the markers gave. -/
def execLaneSwitch (p : PortId) (d : Dir) (frame : Nat) (lane : LogicalId) (narrow : Bool) (s : State) :
    Host.Outcome State Fault Refusal :=
  let y := (s.port p).dir d
  let due : Bool := match d with
    | .tx => decide (y.switchAt = some frame ∧ y.target = lane.val ∧ y.swap = (if narrow then .narrowing else .switching))
    | .rx => narrow || decide (y.swap = .switching)
  if !s.dataOn ∨ !s.portIsUp p ∨ !due ∨ y.narrow then done s
  else
    let old := y.map.getD lane 9
    let end_ := fun (s : State) => match d with
      | .tx => s.emit (.laneIdle p old)
      | .rx => s
    if narrow then
      let s := s.setDir p d { y with
        lanes := y.lanes.set old .retired, map := y.map.eraseIdx lane, narrow := true, swap := .none, switchAt := none,
        own := false }
      let s := (end_ s).inc (R.portSwaps p) 1
      done ((s.portEvent p 0x0402 (laneDetail d old)).afterSwap p d)
    else match y.lanes.findIdx? fun l => decide (l = .training) with
      | none => done s
      | some u =>
        let s := s.setDir p d { y with
          lanes := (y.lanes.set old .retired).set u .active, map := y.map.set lane u, swap := .none, switchAt := none,
          own := false }
        let s := (end_ s).inc (R.portSwaps p) 1
        done ((s.portEvent p 0x0401 (laneDetail d old)).afterSwap p d)

/-! ## Credit reinitialisation (R346) -/

/-- OP 5 and the peer's report: the credits it gives, the frames after the last good one again, counts from 0. The end that had not
seen the fault joins the sequence first. Flits that the frames sent again hold count as sent and take their credits. -/
def execLaneCmdCreditReinit (p : PortId) (free : List Nat) (lastGood : Nat) (s : State) :
    Host.Outcome State Fault Refusal :=
  if !s.dataOn ∨ !s.portIsUp p then done s
  else
    let s := if (s.port p).reinit then s else (s.linkCause p).beginReinit p
    let x := (s.port p).take lastGood
    let fresh := fun (y : Pool × Nat) => y.1.granted (free.getD y.2 0) (x.owedFlits y.2)
    let s := s.setPort p { x with pools := x.pools.zipIdx.map fresh, reinit := false }
    let s := s.resendAll p
    let s := match (s.port p).tx.swap, (s.port p).tx.switchAt with
      | .verified, _ => s.announce p false
      | .narrowing, none => s.announce p true
      | _, _ => s
    done (State.returnCredits p 20 (s.pump p))

/-! ## Monitors (R358) -/

/-- One reading among the last 16. -/
def pushSample (l : List Int) (v : Int) : List Int := (l ++ [v]).drop (l.length + 1 - 16)

def meanOf (l : List Int) : Int := if l.isEmpty then 0 else l.foldl (· + ·) 0 / l.length

/-- A reading in the calibrated range joins its average; one outside it is counted and discarded. -/
def State.takeReading (s : State) (p kind : Nat) (l : List Int) (v : Int) : List Int × State :=
  if Config.monRangeOk kind v then (pushSample l v, s) else (l, s.inc (R.portMonReject p) 1)

def State.setMon (s : State) (p lane : Nat) (m : LaneMon) : State :=
  let x := s.port p
  s.setPort p { x with mons := x.mons.set lane m }

/-- The transmitting end's three values of a lane, and the monitor word that carries them. -/
def State.sendReading (s : State) (p lane : Nat) (r : TxReading) : State :=
  let m := (s.port p).mons.getD lane LaneMon.empty
  let (a, s) := s.takeReading p 0 m.bias r.bias
  let (b, s) := s.takeReading p 1 m.bf r.backFacet
  let (c, s) := s.takeReading p 2 m.mod r.modOma
  let s := s.setMon p lane { m with bias := a, bf := b, mod := c }
  let bias := unsignedOf 16 (meanOf a)
  let bf := unsignedOf 16 (meanOf b)
  let mod := unsignedOf 16 (meanOf c)
  let s := s.set ((R.portLaneTxBias p).at_ lane) bias
  let s := (s.set ((R.portLaneTxBackfacet p).at_ lane) bf).set ((R.portLaneTxModOma p).at_ lane) mod
  s.sendCtl p 0 (s.ctlWord 7 0 [lane + bias * 2 ^ 16, bf + mod * 2 ^ 16])

/-- Counts of a condition in a row. -/
def inRow (b : Bool) (n : Nat) : Nat := if b then n + 1 else 0

/-- The transmitting end's condition at the end of a one-second window (R360): bias above 1.3 times its beginning of life, with
back-facet power within 0.5 dB of its value at training. -/
def State.biasWindow (s : State) (p : Nat) : State :=
  let one := fun (m : LaneMon × Nat) =>
    let bol := s.get ((R.portLaneTxBiasBol p).at_ m.2)
    let bf := signedOf 16 (s.get ((R.portLaneTxBackfacet p).at_ m.2)) - m.1.bfTrain
    let high := decide (13 * bol < 10 * s.get ((R.portLaneTxBias p).at_ m.2))
    { m.1 with biasRun := inRow (high && decide (-50 ≤ bf ∧ bf ≤ 50)) m.1.biasRun }
  s.setPort p { s.port p with mons := (s.port p).mons.zipIdx.map one, secTx := 0 }

/-- The readings of 1 ms; the thousandth ends a one-second window. -/
def execMonitorSend (p : PortId) (r : List TxReading) (s : State) : Host.Outcome State Fault Refusal :=
  if !s.dataOn ∨ !s.portLive p then done s
  else
    let s := (r.take 9).zipIdx.foldl (fun s x => s.sendReading p x.2 x.1) s
    let x := s.port p
    done (if x.secTx = 999 then s.biasWindow p else s.setPort p { x with secTx := x.secTx + 1 })

def execMonitorWordReceived (p : PortId) (w : CtlWord) (s : State) : Host.Outcome State Fault Refusal :=
  if !s.dataOn ∨ !s.portLive p ∨ !cwCrcOk w then done s
  else
    let lane := bitsOf w.w3.toNat 0 4
    if bitsOf w.w0.toNat 0 8 ≠ 7 ∨ 8 < lane then done (s.inc (R.portCwInvalid p) 1)
    else
      let m := (s.port p).mons.getD lane LaneMon.empty
      let r : TxReading :=
        ⟨bitsOf w.w3.toNat 16 16, signedOf 16 (bitsOf w.w4.toNat 0 16), signedOf 16 (bitsOf w.w4.toNat 16 16)⟩
      let s := s.setMon p lane { m with peer := r }
      done (s.setPort p { s.port p with stale := false })

/-- 10 ms without a valid monitor word. -/
def execMonitorStale (p : PortId) (s : State) : Host.Outcome State Fault Refusal :=
  if !s.dataOn ∨ !s.portLive p then done s else done (s.setPort p { s.port p with stale := true })

/-- The class of a lane (R359), in hundredths of a dB: the first row that holds. -/
def laneClass (m : LaneMon) (stale : Bool) (loss lossBol margin : Int) (corrBits : Nat) : Nat :=
  let bfDrop := m.train.backFacet - m.peer.backFacet
  let near := decide (-50 ≤ bfDrop ∧ bfDrop ≤ 50)
  let tapDrop := (m.train.modOma - m.train.backFacet) - (m.peer.modOma - m.peer.backFacet)
  if !stale && (decide (100 < bfDrop) || (decide (13 * m.peerBol < 10 * m.peer.bias) && near)) then 1
  else if !stale && decide (100 < tapDrop) then 2
  else if lossBol + 100 < loss then 3
  else if margin < 150 ∨ 4250000 < corrBits then 4
  else 0

/-- The receiving end measures and classifies a lane (R359), and counts what R360 asks of it: the margin at each reading, the error rate
at the end of each one-second window. -/
def State.classify (s : State) (p lane : Nat) (r : RxReading) : State :=
  let x := s.port p
  let m := x.mons.getD lane LaneMon.empty
  let (o, s) := s.takeReading p 3 m.oma r.rxOma
  let oma := meanOf o
  let margin := oma + 600
  let m := { m with oma := o, omaRun := inRow (decide (margin < 150)) m.omaRun,
                    berRun := if x.secRx = 999 then inRow (decide (4250000 < r.corrBits)) m.berRun else m.berRun }
  let s := s.setMon p lane m
  let loss := m.peer.modOma - oma
  let bol := signedOf 16 (s.get ((R.portLanePathLossBol p).at_ lane))
  let s := s.set ((R.portLaneCorrBits p).at_ lane) r.corrBits
  let s := (s.set ((R.portLaneOmaMargin p).at_ lane) (unsignedOf 16 margin)).set ((R.portLaneRxOma p).at_ lane) (unsignedOf 16 oma)
  let s := s.set ((R.portLanePathLoss p).at_ lane) (unsignedOf 16 loss)
  let was := s.get ((R.portLaneFaultClass p).at_ lane)
  let c := laneClass m x.stale loss bol margin r.corrBits
  let s := s.set ((R.portLaneFaultClass p).at_ lane) c
  if was = 0 ∧ c ≠ 0 then s.portEvent p 0x0408 (laneDetail .rx lane + c * 2 ^ 8) else s

def execLaneClassify (p : PortId) (r : List RxReading) (s : State) : Host.Outcome State Fault Refusal :=
  if !s.dataOn ∨ !s.portLive p then done s
  else
    let s := (r.take 9).zipIdx.foldl (fun s x => s.classify p x.2 x.1) s
    let x := s.port p
    done (s.setPort p { x with secRx := (x.secRx + 1) % 1000 })

end Sys2Proof.Machine
end

