-- ==== Sys2Proof/Machine/Matrix.lean ====
section
/-! DEFINITION. The matrix engine: MMA (R112 to R117) into an accumulator tile or the finished-tile queue, and the queue's pushes
(R123 to R125). -/

namespace Sys2Proof.Machine

open Sys2Proof

def isQ (b : Byte) : Bool := decide (3 ≤ b.toNat % 16 ∧ b.toNat % 16 ≤ 6)
def is16 (b : Byte) : Bool := decide (b.toNat % 16 = 1 ∨ b.toNat % 16 = 2)

/-- Cycles of one group of 16 for an operand pair (R114). -/
def pairCycles (a b : Byte) : Option Nat :=
  if a.toNat % 16 = 6 ∧ b.toNat % 16 = 6 then some 8
  else if isQ a ∧ isQ b then some 16
  else if (is16 a ∨ isQ a) ∧ (is16 b ∨ isQ b) then some 32
  else if a.toNat % 16 = 0 ∧ b.toNat % 16 = 0 then some 64
  else none

/-- K outside R112. -/
def badK (k : Nat) : Bool := decide (k < 16 ∨ 2048 < k ∨ k % 16 ≠ 0)

/-- Occupancy (R115); 1 where the fields do not give it (R113). -/
def mmaOcc (f : MmaFields) : Nat :=
  match pairCycles f.aFmt f.bFmt with
  | none => 1
  | some g => if badK f.k then 1 else g * f.k / 16

/-- Scale bytes of one row of K elements. -/
def rowScales (fmt : Byte) (k : Nat) : Nat := if fmtBlock fmt ≠ 0 then ceilDiv k (fmtBlock fmt) else 0

/-- Scale bytes of an operand of `rows` rows. -/
def operandScales (fmt : Byte) (rows k : Nat) : Nat :=
  if fmtTensorScaled fmt then 4 else rows * rowScales fmt k

/-- An operand: aligned address, stride and scales, every byte inside the local store (R113). -/
def operandOk (addr stride : Nat) (fmt : Byte) (scl rows k : Nat) : Bool :=
  addr % 64 == 0 && stride % 64 == 0 && lsInside (addr + (rows - 1) * stride) (planeBytes fmt k) &&
    (operandScales fmt rows k == 0 || (scl % 4 == 0 && lsInside scl (operandScales fmt rows k)))

/-- Why an MMA is refused, with its DETAIL (R112 to R114, R123). -/
def mmaRefuse (cell : Nat) (f : MmaFields) : Option Nat × Nat :=
  match fmtRefuse f.aFmt, fmtRefuse f.bFmt with
  | some c, _ => (some c, if c = 0x0201 then fmtDetail f.aFmt else 0)
  | _, some c => (some c, if c = 0x0201 then fmtDetail f.bFmt else 0)
  | none, none =>
    let ok := (pairCycles f.aFmt f.bFmt).isSome && !badK f.k &&
      operandOk f.aAddr f.aStride f.aFmt f.aScl 32 f.k && operandOk f.bAddr f.bStride f.bFmt f.bScl 16 f.k &&
      (if f.ftq then decide (cell < 8) && !f.init else decide (f.tile ≤ 15))
    (if ok then none else some 0x0202, 0)

def operandRegions (cell core addr stride : Nat) (fmt : Byte) (scl rows k : Nat) : List Region :=
  ((List.range rows).map fun r => lsRegion cell core (addr + r * stride) (planeBytes fmt k)) ++
    (if operandScales fmt rows k = 0 then [] else [lsRegion cell core scl (operandScales fmt rows k)])

/-- One element as the multipliers take it (R84, R95, R96): F32 becomes F21 (truncated when the F21 field is 1), subnormal F21,
H16 and F16 become zeros. The second part is whether the F21 conversion overflowed. -/
def mmaInput (f21 : Bool) (fmt : Byte) (e : Elem) : Num × Bool :=
  match fmt.toNat % 16 with
  | 0 =>
    let r := Fmt.F21.round (if f21 then .trunc else .nearest) e.val
    (flushIn .F21 r.1, r.2)
  | 1 => (flushIn .H16 e.code, false)
  | 2 => (flushIn .F16 e.code, false)
  | _ => (e.val, false)

/-- The rows of an operand and its F21 overflows, each counted once for an MMA (DESIGN CHOICE, log 63: R93 counts element results
and does not say how often an operand element counts that enters several). -/
def mmaRows (v : State) (cell core addr stride : Nat) (fmt : Byte) (scl rows k : Nat) (f21 : Bool) :
    List (List Num) × Nat :=
  let r := (List.range rows).map fun r =>
    (elemsOf fmt (lsFrom v cell core (addr + r * stride)) (lsFrom v cell core (scl + r * rowScales fmt k))
      (tensorScale v cell core fmt scl) k).map (mmaInput f21 fmt)
  (r.map fun l => l.map Prod.fst, (r.map fun l => (l.filter Prod.snd).length).sum)

/-- The 512 outputs, row by row (R95, R99). -/
def mmaTile (a b : List (List Num)) (k : Nat) (init : Nat → Word) : List (Word × Counts) :=
  (List.range 512).map fun e =>
    dotGroups (k / 16) (init e) .zero ((a.getD (e / 16) []).zip (b.getD (e % 16) []))

/-- The MMA before this one wrote the same tile, whose partial content is carried forward (R117). -/
def continued (s : State) (i : Issue) (f : MmaFields) : Bool :=
  f.init && (s.core i.cell i.core).lastMma == some f.tile

/-- The windows whose tile that content stands for: those of the core's own MMAs. -/
def ownMma (i : Issue) (w : Win) : Bool := w.cell == i.cell.val && w.core == i.core.val && w.eng == 0

def mmaPlan (i : Issue) (f : MmaFields) (s : State) (_t : Nat) : Plan :=
  let r := mmaRefuse i.cell f
  let o := mmaOcc f
  let tile := accRegion i.cell i.core (f.tile * 512) 512
  { refuse := r.1, detail := r.2, occ := fun _ => o, eng := 0,
    reads := operandRegions i.cell i.core f.aAddr f.aStride f.aFmt f.aScl 32 f.k ++
      operandRegions i.cell i.core f.bAddr f.bStride f.bFmt f.bScl 16 f.k,
    rdUntil := fun t => t + o + 3,
    more := if f.init ∧ !f.ftq then [(tile, fun t => if continued s i f then t else t + 13)] else [],
    writes := if f.ftq then [] else [tile],
    results := fun t => if f.ftq then [privRegion i.cell i.core (t + 14)] else [tile],
    wrFrom := fun t => t + 14,
    visible := fun t => t + o + 17,
    skip := fun w => continued s i f && ownMma i w }

/-- Entries of a core's queue that are not free at a cycle (R142): an entry freed at `c` can take a push from `c + 1` on (R143). -/
def heldEntries (l : List FtqEntry) (t : Nat) : List FtqEntry :=
  l.filter fun e => match e.freeAt with
    | some c => decide (t < c + 1)
    | none => true

/-- The earliest cycle from `t` on at which an entry is free. -/
def freeCycle (l : List FtqEntry) (t : Nat) : Option Nat :=
  if (heldEntries l t).length < 8 then some t
  else ((heldEntries l t).filterMap fun e => e.freeAt.map (· + 1)).foldl
    (fun (m : Option Nat) c => match m with
      | none => some c
      | some x => some (min x c)) none

/-- When a core's oldest waiting tile can be pushed (R124): from its ready cycle on, once an entry is free, and after the pushes of
the MMAs before it. -/
def CoreSt.pushCycle (k : CoreSt) (x : PrivTile) : Option Nat := freeCycle k.ftq (max x.ready k.lastPush)

/-- Pushes withdrawn (R124): where a third tile begins to be written while the oldest still waits for an entry, the oldest is lost,
its waiting cycles counted. -/
def State.losePushes : Nat → Nat → Nat → Nat → State → State
  | 0, _, _, _, s => s
  | n + 1, cell, core, now, s =>
    let k := s.core cell core
    match k.priv with
    | x :: y :: z :: rest =>
      let waits : Bool := match k.pushCycle x with
        | none => true
        | some c => decide (z.first < c)
      if z.first < now ∧ waits then
        let s := s.setCore cell core { k with priv := y :: z :: rest }
        let s := (s.inc (R.cellFtqLost cell) 1).inc (R.cellFtqPushWait cell) (z.first - x.ready)
        let a := s.actOfCell cell
        let s := s.sticky cell core 0 a ⟨x.ovf, x.inv⟩ z.first
        let s := s.raise 0x0203 (pgCELL cell) { tag := x.tag, cell := cell, core := core, queue := 0, detail := 1, act := a }
        State.losePushes n cell core now (s.causeIn a vCOMMAND)
      else s
    | _ => s

def execMma (i : Issue) (f : MmaFields) (s : State) : Host.Outcome State Fault Refusal :=
  done <| s.issue 0 i (mmaPlan i f) (fun _ s => s) fun r s =>
    let a := mmaRows r.view i.cell i.core f.aAddr f.aStride f.aFmt f.aScl 32 f.k f.f21
    let b := mmaRows r.view i.cell i.core f.bAddr f.bStride f.bFmt f.bScl 16 f.k f.f21
    let tile := mmaTile a.1 b.1 f.k fun e => if f.init then r.view.accGet i.cell i.core (f.tile * 512 + e) else 0
    let counts := tile.foldl (fun c x => c.add x.2) ⟨a.2 + b.2, 0⟩
    let bits := tile.map Prod.fst
    if f.ftq then
      let k := s.core i.cell i.core
      let s := s.setCore i.cell i.core { k with
        lastMma := none,
        priv := k.priv ++ [⟨i.tag, r.t + mmaOcc f + 17, r.t + 14, r.act.desc.act, bits, counts.ovf, counts.inv⟩] }
      State.losePushes 4 i.cell i.core r.t s
    else
      let s := s.sticky i.cell i.core 0 (some r.act) counts r.win.visible
      let k := s.core i.cell i.core
      (s.setCore i.cell i.core { k with lastMma := some f.tile }).accWrite i.cell i.core (f.tile * 512) bits

/-- A push completes (R124): the oldest waiting tile of the core enters its queue in the push format, waits are counted, the
queue flag counts it. It completes at its ready cycle, or, where every entry was held, when one is free, and never before the
push of an earlier MMA. -/
def execFtqPush (cell : CellId) (core : CoreId) (cycle : Nat) (s : State) : Host.Outcome State Fault Refusal :=
  let s := State.losePushes 4 cell core cycle s
  let k := s.core cell core
  match k.priv with
  | [] => done s
  | x :: rest =>
    match k.pushCycle x with
    | none => done s
    | some c =>
      let c := if c = x.ready then c else max c cycle
      let s := if c = x.ready then s else s.inc (R.cellFtqPushWait cell) (c - x.ready)
      let h16 := s.flagReg (R.cellFtqConv cell)
      let conv := x.bits.map fun w => if h16 then Fmt.H16.round .nearest (f32 w) else (w.toNat, false)
      let ovf := (conv.filter Prod.snd).length
      let e : FtqEntry :=
        { state := .pushed, seq := k.pushes, tag := x.tag, h16 := h16, bits := conv.map fun p => BitVec.ofNat 32 p.1,
          freeAt := none, dest := none }
      let a := s.actOfCell cell
      let s := s.setCore cell core
        { k with priv := rest, pushes := k.pushes + 1, lastPush := c, ftq := heldEntries k.ftq c ++ [e] }
      let s := s.sticky cell core 0 a ⟨x.ovf + ovf, x.inv⟩ c
      let fl : FlagRef := ⟨cell, BitVec.toFin (BitVec.ofNat 8 (queueFlag core))⟩
      let s := s.flagChange fl
        { write := none, add := 1, cycle := c, cell := cell, core := core, source := .push, tag := x.tag }
      let s := s.reach cell c
      done <| s.addWin
        { tag := x.tag, op := none, eng := 0, cell := cell, core := core, queue := 0, issue := c, reads := [], rdUntil := c,
          writes := [ftqRegion cell core e.seq], wrFrom := c, visible := c, flagged := some fl, landed := true,
          spoiled := false, results := [], value := (s.flag fl).value, seen := [] }

end Sys2Proof.Machine
end

