-- ==== Sys2Proof/Machine/Release.lean ====
section
/-! DEFINITION. RELEASE and the drain of released entries (R142, R145, R255). -/

namespace Sys2Proof.Machine

open Sys2Proof

/-- A slot that the running command does not have (R255). -/
def State.beyondSlots (s : State) (g slot : Nat) : Bool := (s.slotsWanted g).elim false fun n => decide (n ≤ slot)

/-- A release to a slot already filled, or beyond SLOTS of the running command, is a SLOT ERROR (R255). -/
def State.claimSlot (s : State) (g slot : Nat) (who : EvInfo) : State :=
  let again := decide (1 < ((s.promises g).filter fun x => x.1 == slot).length)
  if s.beyondSlots g slot ∨ (AMap.find (s.group g).slots slot).isSome ∨ again then s.slotError g slot who else s

/-- The command that takes from the slots: undefined where it does not take the group's format (R260). -/
def State.foreignRun (s : State) (g : Nat) : Bool :=
  (s.group g).run.elim false fun r => (s.slotsOf g r.kind).isSome && s.slotsForeign g r.kind

/-- A drained tile fills its slot: undefined where another filled it or where its format is not the group's (R255, R260). -/
def State.fillSlot (s : State) (g slot : Nat) (e : FtqEntry) : State :=
  let x := s.group g
  if s.beyondSlots g slot ∨ x.abandoned then s
  else
    let bad := (AMap.find x.slots slot).isSome || e.h16 != s.flagReg (R.collGDefAcc.at_ g) || s.foreignRun g
    let w := if bad then freeWords s.free 512 else e.bits
    let s := { s with free := s.free + (if bad then 512 else 0) }
    let slots := AMap.put x.slots slot w
    let opening := fun (r : CommRun) => r.kind.src == some .queue && (match r.kind with
      | .allGather _ => r.phase == .gathering && r.input.any Option.isNone
      | _ => r.phase == .reducing && r.stage == 0)
    let run := x.run.map fun r => if opening r then { r with input := slotInput (s.srcCount g r.kind) slots } else r
    (s.setGroup g { x with slots := slots, run := run }).pumpColl g

/-- Element `i` of the contribution has gone into a piece that was sent or folded, or the first stage is over. -/
def elemUsed (r : CommRun) (step h i : Nat) : Bool :=
  let x := (i / h, i % h / step * step)
  r.sent.contains x || r.folded.contains x

/-- A filled slot still lies in the reserve: some of its elements are not used (R269). -/
def State.slotLies (s : State) (g slot : Nat) : Bool :=
  match (s.group g).run with
  | none => true
  | some r =>
    match r.phase with
    | .reducing =>
      let h := r.input.length / (2 * s.axisSize ((s.stages g).getD r.stage 0))
      r.stage == 0 && (List.range 512).any fun i => !elemUsed r (pieceLen (s.accFmt g)) h (512 * slot + i)
    | .reading => true
    | .gathering => r.input.any Option.isNone
    | _ => false

/-- The reserve has room for a tile of some bytes (R269): filled slots, and arrived flits that wait. -/
def State.reserveRoom (s : State) (g bytes : Nat) : Bool :=
  let x := s.group g
  let tile := if s.flagReg (R.collGDefAcc.at_ g) then 1024 else 2048
  let lie := (x.slots.filter fun y => s.slotLies g y.1).length
  decide (lie * tile + 512 * x.early.length + bytes ≤ s.get (R.collGBufKib.at_ g) * 1024)

/-- The oldest pushed entry is claimed and released: a collective slot holds its tile until the group's command takes it; to a
point-to-point destination it goes as a REMOTE WRITE goes, refused where that would be. -/
def execRelease (i : Issue) (d : ReleaseTo) (s : State) : Host.Outcome State Fault Refusal :=
  let bytes := fun (s : State) => match (s.core i.cell i.core).oldest with
    | some e => if e.h16 then 1024 else 2048
    | none => 1024
  let refusal := fun (s : State) => match d with
    | .group _ _ => (none, 0, none)
    | .remote chip off _ => s.remoteRefuse chip off (bytes s) true i.cell
  let plan := fun (s : State) (t : Nat) =>
    let p := releasePlan i d s t
    if p.refuse.isSome then p else { p with refuse := (refusal s).1, detail := (refusal s).2.1, addr := (refusal s).2.2 }
  let onRefuse := fun (a : ActiveAct) (s : State) => match d with
    | .group _ _ => s
    | .remote _ _ f => refusedFlag i f a (s.countTarget (refusal s))
  done <| s.issue 1 i plan onRefuse fun r s =>
    let k := s.core i.cell i.core
    match k.oldest with
    | none => s.emptyClaim r.win r.act
    | some e =>
      let s := s.setCore i.cell i.core { k with ftq := k.ftq.map fun (x : FtqEntry) =>
        if x.seq = e.seq then { x with state := .released, dest := some d } else x }
      match d with
      | .group g slot => s.claimSlot g slot { tag := i.tag, cell := i.cell, core := i.core, queue := 1 }
      | .remote chip off f =>
        let id := s.nextReq
        let here := s.chip = some chip
        let b := e.payload
        if here then
          if tierOf off = 3 then
            State.t3Issue id i.cell true off 0 b (b.length / 64) (s.startMover i r.t f (.releaseTier3 e.seq) false)
          else (s.lockKey off).startMover i r.t f (.release e.seq off (some b)) true
        else (s.startMover i r.t f (.release e.seq off none) false).sendLines 3 chip (ownChip s) off (id % 2 ^ 16) [] b

/-- The link complex has drained the last byte of a core's oldest released entry: it is free, at the act cycle its cell has
reached, and its tile fills its slot. An entry for a group stays in its queue while the reserve has no room (R269). -/
def execFtqDrainDone (cell : CellId) (core : CoreId) (s : State) : Host.Outcome State Fault Refusal :=
  let k := s.core cell core
  match k.ftq.find? fun e => decide (e.state = .released) && e.freeAt.isNone with
  | none => done s
  | some e =>
    match e.dest with
    | some (.group g slot) =>
      if (s.group g).abandoned || s.beyondSlots g slot || s.reserveRoom g e.payload.length then
        done ((s.freeEntry cell core e.seq).fillSlot g slot e)
      else done s
    | _ => done (s.freeEntry cell core e.seq)

end Sys2Proof.Machine
end

