-- ==== Sys2Proof/Machine/Dispatch.lean ====
section
/-! DEFINITION. Each command to its meaning. -/

namespace Sys2Proof.Machine

def exec (i : Instr) (s : State) : Host.Outcome State Fault Refusal :=
  match i with
  | .cueBoundary => Sys2Proof.Machine.execCueBoundary s
  | .cueMarkerReceived p m => Sys2Proof.Machine.execCueMarkerReceived p m s
  | .alignStart path => Sys2Proof.Machine.execAlignStart path s
  | .delayProbeReceived p m => Sys2Proof.Machine.execDelayProbeReceived p m s
  | .alignMeasureDone p floodNs => Sys2Proof.Machine.execAlignMeasureDone p floodNs s
  | .cueSeedPulse m => Sys2Proof.Machine.execCueSeedPulse m s
  | .alignSeedWindowEnd => Sys2Proof.Machine.execAlignSeedWindowEnd s
  | .alignLocked => Sys2Proof.Machine.execAlignLocked s
  | .alignLost => Sys2Proof.Machine.execAlignLost s
  | .markerLate p => Sys2Proof.Machine.execMarkerLate p s
  | .cueIsolated => Sys2Proof.Machine.execCueIsolated s
  | .timeLoRead path => Sys2Proof.Machine.execTimeLoRead path s
  | .csArm path machine => Sys2Proof.Machine.execCsArm path machine s
  | .csDisarm path machine => Sys2Proof.Machine.execCsDisarm path machine s
  | .stagingWrite path off v => Sys2Proof.Machine.execStagingWrite path off v s
  | .actComplete second m => Sys2Proof.Machine.execActComplete second m s
  | .queueRefill cell cycle => Sys2Proof.Machine.execQueueRefill cell cycle s
  | .mma u f => Sys2Proof.Machine.execMma u f s
  | .ftqPush cell core cycle => Sys2Proof.Machine.execFtqPush cell core cycle s
  | .add u f => Sys2Proof.Machine.execAdd u f s
  | .mul u f => Sys2Proof.Machine.execMul u f s
  | .fma u f => Sys2Proof.Machine.execFma u f s
  | .min u f => Sys2Proof.Machine.execMin u f s
  | .max u f => Sys2Proof.Machine.execMax u f s
  | .cmpLt u f => Sys2Proof.Machine.execCmpLt u f s
  | .cmpLe u f => Sys2Proof.Machine.execCmpLe u f s
  | .cmpEq u f => Sys2Proof.Machine.execCmpEq u f s
  | .cmpGe u f => Sys2Proof.Machine.execCmpGe u f s
  | .cmpGt u f => Sys2Proof.Machine.execCmpGt u f s
  | .cmpNe u f => Sys2Proof.Machine.execCmpNe u f s
  | .sel u f => Sys2Proof.Machine.execSel u f s
  | .cvt u f => Sys2Proof.Machine.execCvt u f s
  | .mant u f => Sys2Proof.Machine.execMant u f s
  | .expo u f => Sys2Proof.Machine.execExpo u f s
  | .scale2 u f => Sys2Proof.Machine.execScale2 u f s
  | .redSum u f => Sys2Proof.Machine.execRedSum u f s
  | .redMax u f => Sys2Proof.Machine.execRedMax u f s
  | .redMin u f => Sys2Proof.Machine.execRedMin u f s
  | .redAmax u f => Sys2Proof.Machine.execRedAmax u f s
  | .release u dest => Sys2Proof.Machine.execRelease u dest s
  | .ftqDrainDone cell core => Sys2Proof.Machine.execFtqDrainDone cell core s
  | .localCopy u f => Sys2Proof.Machine.execLocalCopy u f s
  | .cellStoreTransfer u f => Sys2Proof.Machine.execCellStoreTransfer u f s
  | .tileLoad u tile src => Sys2Proof.Machine.execTileLoad u tile src s
  | .tileStore u f => Sys2Proof.Machine.execTileStore u f s
  | .cellMoverTransfer u f => Sys2Proof.Machine.execCellMoverTransfer u f s
  | .remoteWrite u f => Sys2Proof.Machine.execRemoteWrite u f s
  | .remoteRead u f => Sys2Proof.Machine.execRemoteRead u f s
  | .remoteAccessReceived r => Sys2Proof.Machine.execRemoteAccessReceived r s
  | .remoteReplyReceived reqId a => Sys2Proof.Machine.execRemoteReplyReceived reqId a s
  | .pageWrite u f => Sys2Proof.Machine.execPageWrite u f s
  | .pageRead u f => Sys2Proof.Machine.execPageRead u f s
  | .regionReset u region flag => Sys2Proof.Machine.execRegionReset u region flag s
  | .updateRead u f => Sys2Proof.Machine.execUpdateRead u f s
  | .updateWrite u f => Sys2Proof.Machine.execUpdateWrite u f s
  | .cellMoverComplete cell core tag => Sys2Proof.Machine.execCellMoverComplete cell core tag s
  | .wait u f => Sys2Proof.Machine.execWait u f s
  | .waitComplete w cycle => Sys2Proof.Machine.execWaitComplete w cycle s
  | .waitExpired w => Sys2Proof.Machine.execWaitExpired w s
  | .flagInc u flag k => Sys2Proof.Machine.execFlagInc u flag k s
  | .flagWrite u flag v => Sys2Proof.Machine.execFlagWrite u flag v s
  | .mark u v => Sys2Proof.Machine.execMark u v s
  | .traceRecordDrop => Sys2Proof.Machine.execTraceRecordDrop s
  | .reduceScatter g tag f => Sys2Proof.Machine.execReduceScatter g tag f s
  | .allGather g tag f => Sys2Proof.Machine.execAllGather g tag f s
  | .allReduce g tag f => Sys2Proof.Machine.execAllReduce g tag f s
  | .allToAll g tag f => Sys2Proof.Machine.execAllToAll g tag f s
  | .permute g tag f => Sys2Proof.Machine.execPermute g tag f s
  | .permuteRoundDone g => Sys2Proof.Machine.execPermuteRoundDone g s
  | .commWait g tag f => Sys2Proof.Machine.execCommWait g tag f s
  | .collectiveFlitReceived p f => Sys2Proof.Machine.execCollectiveFlitReceived p f s
  | .collFlagDone g => Sys2Proof.Machine.execCollFlagDone g s
  | .collFlagProgress g => Sys2Proof.Machine.execCollFlagProgress g s
  | .collFlagArrive g rank => Sys2Proof.Machine.execCollFlagArrive g rank s
  | .groupAbandonReceived p w => Sys2Proof.Machine.execGroupAbandonReceived p w s
  | .p2pFlitReceived p f => Sys2Proof.Machine.execP2pFlitReceived p f s
  | .mgmtMirrorReceived p destChip srcChip frame => Sys2Proof.Machine.execMgmtMirrorReceived p destChip srcChip frame s
  | .hostInitiatedFlitReceived p f role => Sys2Proof.Machine.execHostInitiatedFlitReceived p f role s
  | .p2pSkewWindow flits capacity => Sys2Proof.Machine.execP2pSkewWindow flits capacity s
  | .scalePreparationDone => Sys2Proof.Machine.execScalePreparationDone s
  | .scaleWritebackDone => Sys2Proof.Machine.execScaleWritebackDone s
  | .curtainContribute => Sys2Proof.Machine.execCurtainContribute s
  | .curtainWordReceived p w => Sys2Proof.Machine.execCurtainWordReceived p w s
  | .curtainMissingCheck dir => Sys2Proof.Machine.execCurtainMissingCheck dir s
  | .curtainDecide => Sys2Proof.Machine.execCurtainDecide s
  | .confirmWordReceived p w => Sys2Proof.Machine.execConfirmWordReceived p w s
  | .curtainFinalDecision => Sys2Proof.Machine.execCurtainFinalDecision s
  | .resyncPageDone page => Sys2Proof.Machine.execResyncPageDone page s
  | .rekeyFillDone tier2 => Sys2Proof.Machine.execRekeyFillDone tier2 s
  | .patrolScrub line symErrs newerWrite lastOfPass => Sys2Proof.Machine.execPatrolScrub line symErrs newerWrite lastOfPass s
  | .channelOccupancyWindow occ => Sys2Proof.Machine.execChannelOccupancyWindow occ s
  | .farLinkLaneFail stack loss => Sys2Proof.Machine.execFarLinkLaneFail stack loss s
  | .snapArm path => Sys2Proof.Machine.execSnapArm path s
  | .snapAbort path => Sys2Proof.Machine.execSnapAbort path s
  | .snapshotStart ecc => Sys2Proof.Machine.execSnapshotStart ecc s
  | .snapshotDone => Sys2Proof.Machine.execSnapshotDone s
  | .ilLock1 path => Sys2Proof.Machine.execIlLock1 path s
  | .ilLock2 path => Sys2Proof.Machine.execIlLock2 path s
  | .uncClear path => Sys2Proof.Machine.execUncClear path s
  | .frameReceived p f => Sys2Proof.Machine.execFrameReceived p f s
  | .ledgerFlitReceived p l => Sys2Proof.Machine.execLedgerFlitReceived p l s
  | .creditReinitTimeout p => Sys2Proof.Machine.execCreditReinitTimeout p s
  | .laneCmdRequest p lane => Sys2Proof.Machine.execLaneCmdRequest p lane s
  | .laneCmdUnderstudyLocked p lane => Sys2Proof.Machine.execLaneCmdUnderstudyLocked p lane s
  | .laneCmdMirrorVerified p lane frame => Sys2Proof.Machine.execLaneCmdMirrorVerified p lane frame s
  | .laneCmdNarrowRequest p lane frame => Sys2Proof.Machine.execLaneCmdNarrowRequest p lane frame s
  | .laneCmdCreditReinit p free lastGood => Sys2Proof.Machine.execLaneCmdCreditReinit p free lastGood s
  | .laneCmdUnderstudyFailed p => Sys2Proof.Machine.execLaneCmdUnderstudyFailed p s
  | .understudyQualifyDone p q => Sys2Proof.Machine.execUnderstudyQualifyDone p q s
  | .mirrorCompareDone p equal => Sys2Proof.Machine.execMirrorCompareDone p equal s
  | .understudyTimeout p => Sys2Proof.Machine.execUnderstudyTimeout p s
  | .laneSwitch p d frame lane narrow => Sys2Proof.Machine.execLaneSwitch p d frame lane narrow s
  | .understudyTrigger p d lanes => Sys2Proof.Machine.execUnderstudyTrigger p d lanes s
  | .monitorSend p r => Sys2Proof.Machine.execMonitorSend p r s
  | .monitorWordReceived p w => Sys2Proof.Machine.execMonitorWordReceived p w s
  | .monitorStale p => Sys2Proof.Machine.execMonitorStale p s
  | .laneClassify p r => Sys2Proof.Machine.execLaneClassify p r s
  | .laneLost p d lane => Sys2Proof.Machine.execLaneLost p d lane s
  | .portTrain path p => Sys2Proof.Machine.execPortTrain path p s
  | .portRetrain path p => Sys2Proof.Machine.execPortRetrain path p s
  | .portDark path p => Sys2Proof.Machine.execPortDark path p s
  | .linkTrain path => Sys2Proof.Machine.execLinkTrain path s
  | .linkDarkAll path => Sys2Proof.Machine.execLinkDarkAll path s
  | .darkQuiesceDone p => Sys2Proof.Machine.execDarkQuiesceDone p s
  | .trainingPhaseDone p r => Sys2Proof.Machine.execTrainingPhaseDone p r s
  | .trainingFailed p => Sys2Proof.Machine.execTrainingFailed p s
  | .peerInfoReceived p w => Sys2Proof.Machine.execPeerInfoReceived p w s
  | .pluggableInserted p page => Sys2Proof.Machine.execPluggableInserted p page s
  | .pluggableRemoved p => Sys2Proof.Machine.execPluggableRemoved p s
  | .powerEstimateTick raw current10us => Sys2Proof.Machine.execPowerEstimateTick raw current10us s
  | .calibrationTick measured vin iin rawMean => Sys2Proof.Machine.execCalibrationTick measured vin iin rawMean s
  | .calibrationLost => Sys2Proof.Machine.execCalibrationLost s
  | .capWrite path v => Sys2Proof.Machine.execCapWrite path v s
  | .clockStep => Sys2Proof.Machine.execClockStep s
  | .rampLeadStart => Sys2Proof.Machine.execRampLeadStart s
  | .thermalSample t inlet outlet => Sys2Proof.Machine.execThermalSample t inlet outlet s
  | .thermalTrip => Sys2Proof.Machine.execThermalTrip s
  | .sensorExclude x => Sys2Proof.Machine.execSensorExclude x s
  | .throttleStepDown => Sys2Proof.Machine.execThrottleStepDown s
  | .throttleStepUp => Sys2Proof.Machine.execThrottleStepUp s
  | .droopDetect => Sys2Proof.Machine.execDroopDetect s
  | .droopStretchEnd cycles => Sys2Proof.Machine.execDroopStretchEnd cycles s
  | .coolingClear path => Sys2Proof.Machine.execCoolingClear path s
  | .ageCtrlNow path => Sys2Proof.Machine.execAgeCtrlNow path s
  | .ageingReplan need ceiling testW => Sys2Proof.Machine.execAgeingReplan need ceiling testW s
  | .ageingDeferred => Sys2Proof.Machine.execAgeingDeferred s
  | .inletHigh inlet => Sys2Proof.Machine.execInletHigh inlet s
  | .cxlLinkDown => Sys2Proof.Machine.execCxlLinkDown s
  | .cxlLinkUp rate width cxl => Sys2Proof.Machine.execCxlLinkUp rate width cxl s
  | .tier3RequestDone id data poisoned => Sys2Proof.Machine.execTier3RequestDone id data poisoned s
  | .tier3Timeout id => Sys2Proof.Machine.execTier3Timeout id s
  | .cxlMemAccess a => Sys2Proof.Machine.execCxlMemAccess a s
  | .biResponse line dirty => Sys2Proof.Machine.execBiResponse line dirty s
  | .biTimeout line => Sys2Proof.Machine.execBiTimeout line s
  | .hostSnoop addr => Sys2Proof.Machine.execHostSnoop addr s
  | .registerWrite path off size v => Sys2Proof.Machine.execRegisterWrite path off size v s
  | .registerTimeout path off write => Sys2Proof.Machine.execRegisterTimeout path off write s
  | .eventForce path page bits => Sys2Proof.Machine.execEventForce path page bits s
  | .evqRdWrite path v => Sys2Proof.Machine.execEvqRdWrite path v s
  | .irqHoldoffExpire vec => Sys2Proof.Machine.execIrqHoldoffExpire vec s
  | .dmaTailWrite ch tail descs => Sys2Proof.Machine.execDmaTailWrite ch tail descs s
  | .dmaDescriptorDone ch data linkError remoteRefused => Sys2Proof.Machine.execDmaDescriptorDone ch data linkError remoteRefused s
  | .dmaReset ch => Sys2Proof.Machine.execDmaReset ch s
  | .loadGo path => Sys2Proof.Machine.execLoadGo path s
  | .loadCheckDone => Sys2Proof.Machine.execLoadCheckDone s
  | .loadUnload path prog => Sys2Proof.Machine.execLoadUnload path prog s
  | .mgmtChipWrite path v => Sys2Proof.Machine.execMgmtChipWrite path v s
  | .captureClearHaz path => Sys2Proof.Machine.execCaptureClearHaz path s
  | .captureClearWx path => Sys2Proof.Machine.execCaptureClearWx path s
  | .traceEnable path v => Sys2Proof.Machine.execTraceEnable path v s
  | .slackEnable path v => Sys2Proof.Machine.execSlackEnable path v s
  | .cellCountClear path cell => Sys2Proof.Machine.execCellCountClear path cell s
  | .collCountClear path => Sys2Proof.Machine.execCollCountClear path s
  | .faultLogClear path => Sys2Proof.Machine.execFaultLogClear path s
  | .enumerate f => Sys2Proof.Machine.execEnumerate f s
  | .enumDone f => Sys2Proof.Machine.execEnumDone f s
  | .callboardTailDetect => Sys2Proof.Machine.execCallboardTailDetect s
  | .regRead f => Sys2Proof.Machine.execRegRead f s
  | .regWrite f => Sys2Proof.Machine.execRegWrite f s
  | .reset f => Sys2Proof.Machine.execReset f s
  | .mboxReq f => Sys2Proof.Machine.execMboxReq f s
  | .recoveryBlock f status => Sys2Proof.Machine.execRecoveryBlock f status s
  | .callboardForward f => Sys2Proof.Machine.execCallboardForward f s
  | .telemetry => Sys2Proof.Machine.execTelemetry s
  | .version path m seq => Sys2Proof.Machine.execVersion path m seq s
  | .identity path m seq => Sys2Proof.Machine.execIdentity path m seq s
  | .attest path m seq => Sys2Proof.Machine.execAttest path m seq s
  | .fwStage path m seq => Sys2Proof.Machine.execFwStage path m seq s
  | .fwSelect path m seq => Sys2Proof.Machine.execFwSelect path m seq s
  | .svnAdvance path m seq => Sys2Proof.Machine.execSvnAdvance path m seq s
  | .keyRevoke path m seq => Sys2Proof.Machine.execKeyRevoke path m seq s
  | .remoteMgmt path m seq => Sys2Proof.Machine.execRemoteMgmt path m seq s
  | .mboxDiagnostic path m opcode seq => Sys2Proof.Machine.execMboxDiagnostic path m opcode seq s
  | .mailboxDone m => Sys2Proof.Machine.execMailboxDone m s
  | .mailboxExpired m => Sys2Proof.Machine.execMailboxExpired m s
  | .mctrlAck path m => Sys2Proof.Machine.execMctrlAck path m s
  | .mctrlAbort path m => Sys2Proof.Machine.execMctrlAbort path m s
  | .powerInputRise => Sys2Proof.Machine.execPowerInputRise s
  | .startupStepComplete r => Sys2Proof.Machine.execStartupStepComplete r s
  | .startupStepTimeout cause => Sys2Proof.Machine.execStartupStepTimeout cause s
  | .resetLevelWrite path level => Sys2Proof.Machine.execResetLevelWrite path level s
  | .perstAssert => Sys2Proof.Machine.execPerstAssert s
  | .watchdogExpire => Sys2Proof.Machine.execWatchdogExpire s
  | .uvloFall => Sys2Proof.Machine.execUvloFall s
  | .overvoltageDisconnect => Sys2Proof.Machine.execOvervoltageDisconnect s
  | .presBreak => Sys2Proof.Machine.execPresBreak s
  | .inputRangeLeave => Sys2Proof.Machine.execInputRangeLeave s
  | .testPortInstruction j => Sys2Proof.Machine.execTestPortInstruction j s
  | .eventRingEnable path v => Sys2Proof.Machine.execEventRingEnable path v s
  | .dmaChannelEnable ch v descs => Sys2Proof.Machine.execDmaChannelEnable ch v descs s
  | .pageSettlementDone page => Sys2Proof.Machine.execPageSettlementDone page s
  | .inletHighRearm => Sys2Proof.Machine.execInletHighRearm s

end Sys2Proof.Machine
end

