-- ==== Sys2Proof/Safety.lean ====
section
/-! DEFINITION. The terms in which claims about the module are made: what of the state a command leaves alone, when a command can
reach the module, which events and causes stand, and the invariants. -/

namespace Sys2Proof.Machine

open Sys2Proof

/-! ## What a command leaves alone -/

/-- `s` with the registers, the outputs and everything that writing event records touches (R408, R411, R412, R420, R472) as `t` has
them. -/
def State.recorded (s t : State) : State :=
  { s with regs := t.regs, out := t.out, host := t.host, cb := t.cb, faults := t.faults, faultSeq := t.faultSeq,
           evCount := t.evCount, raised := t.raised }

/-- Register words that writing event records and fault records may change (R412, R471, R473). -/
def recordWords : List Nat :=
  [R.hostEvqWr.addr, R.hostEvqLost.addr, R.mgmtEvtSuppressed.addr, R.mgmtFaultCount.addr, R.mgmtFaultWr.addr]

/-- Every register word but those of the records and those listed is as before. -/
def SameWords (l : List Nat) (s t : State) : Prop := ∀ a, a ∉ recordWords → a ∉ l → t.word a = s.word a

/-! ## What stands -/

/-- An event's EVENT bit is set (R408). -/
def State.eventSet (s : State) (code page : Nat) : Prop := bitAt (s.get (R.pageEvent page)) (code % 32) = true

/-- A cause counts toward the verdict of this step or of the next (R312). -/
def State.causeSet (s : State) (n : Nat) : Prop := (s.commit.causes ||| s.commit.next).getLsbD n = true

/-- A register access on a path reaches a page (R404, R410). -/
def State.reaches (s : State) (path : Path) (page : Nat) : Prop := s.pathOpen path = true ∧ s.pageOpen page = true

/-- Every field of a word that a value of it would write is inside its range (R405). -/
def fieldsOk (addr : Nat) (v : Word) : Prop := ∀ r ∈ rowsAt addr, fieldOk r.fld (bitsOf v.toNat r.fld.lo r.fld.w) = true

/-- A Callboard frame of a type, for this module alone, that passes its checks on an open path (R418, R420, R444). -/
def State.takes (s : State) (f : CbFrame) (type : Byte) : Prop :=
  s.start.powered = true ∧ s.pathOpen .callboard = true ∧ f.type = type ∧ cbHcrcOk f = true ∧ cbCrcOk f = true ∧
    f.bcast = false ∧ s.cbMine f = true

/-- No access to Tiers 1 and 2 has to wait (R215, R306, R309, R402), and none does. -/
def NothingWaits (s : State) : Prop :=
  s.mem.rekey1 = false ∧ s.mem.rekey2 = false ∧ s.mem.settle = [] ∧ s.mem.resync = [] ∧ s.mem.waiting = [] ∧ s.host.snoop = [] ∧
    s.host.biWait = []

/-- Tiers 1 and 2 hold no versioned range and no compressed region, nor bytes that one has overwritten; nothing waits for them, and
the host holds no line of them. -/
def MemoryAtRest (s : State) : Prop := s.mem.ranges = [] ∧ s.mem.regions = [] ∧ s.mem.stale = [] ∧ NothingWaits s

/-- Two pieces of a transfer (tier offset, cell-store place, bytes) have no byte in common in the tier, or in the cell store. -/
def apartInTier (x y : Nat × Nat × Nat) : Prop := x.1 + x.2.2 ≤ y.1 ∨ y.1 + y.2.2 ≤ x.1
def apartInCell (x y : Nat × Nat × Nat) : Prop := x.2.1 + x.2.2 ≤ y.2.1 ∨ y.2.1 + y.2.2 ≤ x.2.1

/-- Every line reads clean (R219, R221, R223). -/
def MemoryClean (s : State) : Prop := s.mem.poison = [] ∧ s.mem.errs = [] ∧ s.anyDown = false

/-- Words that have an effect of their own when they are written, and the words of the DMA block, which only the host writes (R405,
R414, R422). -/
def hasEffect (off : Nat) : Bool :=
  [R.hostEvqCtrlEn, R.hostEvqRd, R.hostLoadCtrlGo, R.mgmtChipNumber, R.mgmtResetLevel, R.mgmtFaultCtrlClear, R.cueAlignCtrlStart,
    R.cueCsCtrlArm, R.cueCsTargetLo, R.cueCsTargetHi, R.cmdCaptureClearHaz, R.cmdTraceCtrlEn, R.memIlCtrlLock1, R.memUncClear,
    R.memSnapCtrlArm, R.collSlackCtrlEn, R.collCountClearAll, R.linkCtrlTrain, R.pwrCapW, R.pwrSlewWPerUs, R.pwrCoolingClear,
    R.pwrAgeCtrlNow].any (fun f => f.addr == off) ||
  (decide (0x100 ≤ off ∧ off < 0x180)) ||
  match pageKind (off / 0x1000) with
  | some (.cell _) => decide (off % 0x1000 = 0x78)
  | some (.port _) => decide (off % 0x1000 = 0x60)
  | some (.mbox _) => decide (off % 0x1000 = 0x40 ∨ off % 0x1000 = 0x50)
  | _ => false

/-- Words whose writes are dropped while a ring runs or a key is locked (R174, R214, R272, R412). -/
def State.heldWord (s : State) (off : Nat) : Bool :=
  ([R.hostEvqBaseLo, R.hostEvqBaseHi].any (fun f => f.addr == off) && s.flagReg R.hostEvqCtrlEn) ||
  ([R.cmdTraceBaseLo, R.cmdTraceBaseHi, R.cmdTraceSize].any (fun f => f.addr == off) && s.flagReg R.cmdTraceCtrlEn) ||
  ([R.collSlackBaseLo, R.collSlackBaseHi].any (fun f => f.addr == off) && s.flagReg R.collSlackCtrlEn) ||
  ([R.memIlKey1Lo, R.memIlKey1Hi].any (fun f => f.addr == off) && s.flagReg R.memIlStatusLocked1) ||
  ([R.memIlKey2Lo, R.memIlKey2Hi].any (fun f => f.addr == off) && s.flagReg R.memIlStatusLocked2)

/-- Words that a write only changes, as it stands: those common to every page, and those of a page that have no effect of their own
and are not held, nor the request of a busy mailbox (R405, R407, R429). -/
def State.plainWord (s : State) (off : Nat) : Bool :=
  decide (off % 0x1000 < 0x40) ||
  (decide (off % 0x1000 < 0x800) && !hasEffect off && !s.heldWord off &&
    match pageKind (off / 0x1000) with
    | some (.mbox m) => s.get (R.mboxMstateState m) != 1
    | _ => true)

/-! ## Issue of engine commands -/

/-- Nothing keeps a command from issuing: it is at the head of its queue, its act is active, its core takes commands, and its gate has
an opening (R152, R155 to R157, R164). -/
def State.canIssue (s : State) (q : Nat) (i : Issue) (a : ActiveAct) : Prop :=
  s.actOfCell i.cell = some a ∧ s.dataOn = true ∧ (s.core i.cell i.core).discarded = false ∧
    ((s.core i.cell i.core).queue q).held.head?.map Prod.fst = some i.tag ∧
    (q = 3 → (s.core i.cell i.core).wait = none ∧ i.gate = false) ∧
    (i.gate = true → ((s.core i.cell i.core).queue q).gates ≠ [])

/-- The cycle at which it issues: its due cycle, or later when it or its engine comes later (R155, R156). -/
def State.issueCycle (s : State) (q : Nat) (i : Issue) : Nat :=
  let e := (s.core i.cell i.core).queue q
  max ((if i.gate then e.gates.headD 0 else e.base) + i.offset) (max (e.held.headD (0, 0)).2 e.free)

/-- No window of an earlier command lies in a cell (R116, R139, R495). -/
def State.calm (s : State) (cell : Nat) : Prop := (s.cell cell).wins = []

/-- The command of a vector operation. -/
def vecInstr (o : VOp) (i : Issue) (f : VecFields) : Instr :=
  match o with
  | .add => .add i f
  | .mul => .mul i f
  | .fma => .fma i f
  | .min => .min i f
  | .max => .max i f
  | .cmpLt => .cmpLt i f
  | .cmpLe => .cmpLe i f
  | .cmpEq => .cmpEq i f
  | .cmpGe => .cmpGe i f
  | .cmpGt => .cmpGt i f
  | .cmpNe => .cmpNe i f
  | .sel => .sel i f
  | .cvt => .cvt i f
  | .mant => .mant i f
  | .expo => .expo i f
  | .scale2 => .scale2 i f
  | .redSum => .redSum i f
  | .redMax => .redMax i f
  | .redMin => .redMin i f
  | .redAmax => .redAmax i f

/-! ## Invariants -/

/-- Tiers 1 and 2 in the one form in which equal memories are equal lists, and every core listed once, in rising order. -/
def Canonical (s : State) : Prop := Memory.wf s.mem.bytes = true ∧ AMap.sorted s.cores = true

/-- Events are recorded by the command that raises them (R459): none waits between commands. -/
def NothingUnrecorded (s : State) : Prop := s.raised = []

/-- Key slot `k` is revoked and the minimum SVN of type `ty` is at least `v` (R435). -/
def FusedAtLeast (k ty v : Nat) (s : State) : Prop := bitAt s.keysRevoked k = true ∧ v ≤ s.minSvn ty

end Sys2Proof.Machine
end

