-- ==== Sys2Proof/Certificates/Slice0/Obligations.lean ====
section
/-! DEFINITION. What is claimed of the model: one `def Obligations.<Name> : Prop` for each entry of OBLIGATIONS.json. -/

open Sys2Proof Sys2Proof.Machine

/-! ## The machine -/

/-- A step takes the command at the front of the queue and gives it the rest. With no command waiting a powered module counts one
nanosecond, writes the trace records that wait, and sends the oldest Callboard frame of its own (R38, R174, R420). Both forms are
the model's choice: the block's queue and its tick (log 1), the frame (log 13), the instant of a trace record (log 96). -/
def Obligations.StepTakesTheFrontCommand : Prop :=
  (∀ (c : Instr) (s : State) (rest : List Instr),
    step { s with pending := c :: rest } = exec c { s with pending := rest }) ∧
  (∀ s : State, s.pending = [] →
    step s = .next s.idle ∧
    (s.start.powered = true → s.idle.time = s.time + 1 ∧ s.idle.traced = []) ∧
    (s.start.powered = true → s.traced = [] → NothingUnrecorded s → s.idle.cb.own = s.cb.own.drop 1 ∧
      s.idle.out = s.out ++ (s.cb.own.take 1).map Out.callboard ∧
      s.idle = { s with time := s.time + 1, cb := s.idle.cb, out := s.idle.out }) ∧
    (s.start.powered = false → s.idle = s))

/-- Every command of the table completes in every state, and leaves the commands that wait as they are. That malformed and impossible
commands complete too is the model's choice (logs 11, 12 and 59). -/
def Obligations.EveryCommandCompletesAndKeepsTheQueue : Prop :=
  ∀ (c : Instr) (s : State), ∃ t, exec c s = .next t ∧ t.pending = s.pending

/-- Whatever a command does, Tiers 1 and 2 keep their canonical form and every core stays listed once. -/
def Obligations.EveryStepKeepsTheCanonicalForm : Prop :=
  ∀ s t : State, Canonical s → step s = .next t → Canonical t

/-- A burn cannot be undone (R435, R449): from every state, whatever is commanded, a revoked key slot stays revoked and no minimum
SVN falls. -/
def Obligations.NoStepUndoesABurn : Prop :=
  ∀ (k ty v : Nat) (s t : State), 1 ≤ ty → FusedAtLeast k ty v s → step s = .next t → FusedAtLeast k ty v t

/-- Every command writes the records of the events it raises before it ends (R459, R478). -/
def Obligations.EveryStepRecordsItsEvents : Prop :=
  ∀ s t : State, NothingUnrecorded s → step s = .next t → NothingUnrecorded t

/-- The invariants hold right after power-up, and so does what R442 and R453 give: Tiers 1 and 2 read zero, start-up is in step 0, the
settings of R453. That the state after reset is the one at power-up, before step 0 has ended, is the model's reading (log 5). -/
def Obligations.ResetIsStartUpStepZeroAndHoldsTheInvariants : Prop :=
  (Canonical State.reset ∧ NothingUnrecorded State.reset ∧ State.reset.pending = []) ∧
  (∀ a, Memory.read State.reset.mem.bytes a = 0) ∧ State.reset.get R.mgmtStartState = 0 ∧
    State.reset.get R.mgmtStartStep = 0 ∧ State.reset.time = 0 ∧ State.reset.progs = [] ∧
    State.reset.get R.cuePeriodUs = 1000 ∧ State.reset.get R.commitCtrlActive = 0 ∧ State.reset.dataOn = false

/-! ## Cue and alignment -/

/-- A boundary (R44, R47, R52, R54). Whatever is due, it completes, and this module's own flood carries BUSY when an act is late. Where
no sheet is armed, CUR_CUE advances by one, the boundary's count is kept, the flood of the cue that ended becomes the previous one,
and a held cue counts one on SHIFT and HOLD_CUES; every active act whose deadline has come and that has not overrun counts on
OVERRUN_COUNT, with the event, and one that has overrun already does not count again; each is busy unless the hold limit ends it.
With no act and no job nothing else changes but ports and outputs. That a cue without a leader counts as held is the model's choice
(log 69). -/
def Obligations.BoundariesCountCuesAndOverrunLateActs : Prop :=
  (∀ s : State, s.dataOn = true →
    ∃ t, exec .cueBoundary s = .next t ∧ t.cue.prev = s.cue.flood ∧ t.cue.flood.held = false ∧
      t.cue.flood.busy = t.acts.any (·.busy)) ∧
  (∀ s : State, s.dataOn = true → s.sheet.armed = false →
    let held := s.cue.flood.busy || s.cue.flood.held || s.leaderless
    ∃ t, exec .cueBoundary s = .next t ∧
      t.cueNow = (s.cueNow + 1) % 2 ^ 64 ∧
      t.shift = (if held then (s.shift + 1) % 2 ^ 32 else s.shift) ∧
      t.get R.cueHoldCues = (if held then min (s.get R.cueHoldCues + 1) (2 ^ 32 - 1) else s.get R.cueHoldCues) ∧
      t.cue.boundaryTime = s.time ∧ t.cue.prev = s.cue.flood ∧
      t.cue.flood = { busy := t.acts.any (·.busy), held := false, accept := false, digOr := 0, digAnd := 0 } ∧
      (s.acts = [] → s.job = none → t = { s.recorded t with cue := t.cue, ports := t.ports, pwr := t.pwr })) ∧
  (∀ s : State, s.dataOn = true → s.sheet.armed = false → (s.acts.map (·.desc.act)).Nodup →
    let late := s.acts.filter fun (a : ActiveAct) => decide (a.deadline ≤ (s.cueNow + 1) % 2 ^ 64) && !a.overran
    ∃ t, exec .cueBoundary s = .next t ∧
      t.get R.cueOverrunCount = min (s.get R.cueOverrunCount + late.length) (2 ^ 32 - 1) ∧
      (late ≠ [] → t.eventSet 0x0101 pgCUE) ∧
      ((∀ j, s.job = some j → j.skipping = true ∨
          (if s.heldNow then (s.shift + 1) % 2 ^ 32 else s.shift) ≤ j.shiftMark + s.get R.cueHoldLimit) →
        ∀ a ∈ s.acts, a.deadline ≤ (s.cueNow + 1) % 2 ^ 64 → t.cue.flood.busy = true ∧
          ∃ b ∈ t.acts, b.desc = a.desc ∧ b.start = a.start ∧ b.overran = true ∧ b.busy = true))

/-- A valid marker of the current cue, on a port that is up, joins the flood: OR of BUSY and digest, AND of accept and digest (R45,
R52, R62). No marker of the current cue on a port by its end, and none on any torus port, are raised (R47). -/
def Obligations.MarkersJoinTheFloodOrAreMissed : Prop :=
  (∀ (p : PortId) (m : MarkerIn) (s : State), s.dataOn = true → s.portIsUp p = true → cwCrcOk m.word = true →
    bitsOf m.word.w0.toNat 0 8 = 1 → s.cue.counterSet = true → m.word.w3.toNat + 2 ^ 32 * m.word.w4.toNat = s.cueNow →
    bitsOf m.word.w6.toNat 16 16 = s.get R.cuePeriodUs →
    ∃ t, exec (.cueMarkerReceived p m) s = .next t ∧
      t.cue.flood = { busy := s.cue.flood.busy || bitAt m.word.w6.toNat 0, held := s.cue.flood.held,
                      accept := s.cue.flood.accept && bitAt m.word.w6.toNat 1,
                      digOr := s.cue.flood.digOr ||| BitVec.ofNat 16 m.word.w5.toNat,
                      digAnd := s.cue.flood.digAnd &&& BitVec.ofNat 16 (m.word.w5.toNat / 2 ^ 16) } ∧
      (t.port p).markerCue = some s.cueNow) ∧
  (∀ (p : PortId) (s : State), s.dataOn = true → s.portIsUp p = true → (s.port p).markerCue ≠ some s.cueNow →
    ∃ t, exec (.markerLate p) s = .next t ∧ t.eventSet 0x0106 pgCUE ∧ t = s.recorded t) ∧
  (∀ s : State, s.dataOn = true → s.torusPorts ≠ [] → (∀ p ∈ s.torusPorts, (s.port p).markerCue ≠ some s.cueNow) →
    ∃ t, exec .cueIsolated s = .next t ∧ t.eventSet 0x0105 pgCUE ∧ t.causeSet vTIME ∧ t.cue.flood.held = true ∧
      t = { s.recorded t with cue := t.cue, commit := t.commit })

/-- A write of ALIGN_CTRL.START begins an alignment: with torus ports trained, every one of them is to be measured (R40). A probe that
tells when this module's oldest probe came adds that round trip less the peer's turnaround; after 1,024 of them half the mean is the
port's delay, and the flood time gives the least period (R40 step 1, R46). DELAY counts sixteenths of a nanosecond (R371). With no
torus port there is nothing to measure: a root decides at once, another module waits. A probe on a port that is up tells when it
came. How probes and answers pair is the model's choice (log 91). -/
def Obligations.AlignmentMeasuresTheLinks : Prop :=
  (∀ (path : Path) (s : State), s.reaches path R.cueAlignCtrlStart.page → s.dataOn = true → s.torusPorts = [] →
    ∃ t, exec (.alignStart path) s = .next t ∧ t.cue.began = s.time ∧
      (s.root = false → t.cue.phase = .waiting ∧ t.alignState = (if s.alignState = 0 then 1 else s.alignState)) ∧
      (s.root = true → s.cue.counterSet = false → s.flagReg R.cueAlignCtrlUseSeed = true →
        t.cue.phase = .seedWindow ∧ t.cue.windowEnd = some (s.time + 100000000)) ∧
      (s.root = true → (s.cue.counterSet = true ∨ s.flagReg R.cueAlignCtrlUseSeed = false) →
        t.cue.phase = .done ∧ t.cue.counterSet = true ∧ t.alignState = 2 ∧ (s.cue.counterSet = false → t.cueNow = 0)) ∧
      t = { s.recorded t with cue := t.cue, ports := t.ports }) ∧
  (∀ (p : PortId) (m : Probe) (s : State), s.dataOn = true → s.portIsUp p = true → cwCrcOk m.word = true →
    bitsOf m.word.w0.toNat 0 8 = 5 →
    ∃ t, exec (.delayProbeReceived p m) s = .next t ∧ (t.port p).lastProbe = m.arrived ∧
      t = { s.recorded t with ports := t.ports }) ∧
  (∀ (path : Path) (s : State), s.reaches path R.cueAlignCtrlStart.page → s.dataOn = true → s.torusPorts ≠ [] →
    ∃ t, exec (.alignStart path) s = .next t ∧
      t.cue.phase = .probing ∧ t.cue.began = s.time ∧ t.cue.measured = [] ∧
      t.alignState = (if s.alignState = 0 then 1 else s.alignState) ∧
      (∀ p < 32, (t.port p).measured = false ∧ (t.port p).probes = 0) ∧
      t = { s.recorded t with cue := t.cue, ports := t.ports }) ∧
  (∀ (p : PortId) (m : Probe) (s : State), s.dataOn = true → s.portIsUp p = true → cwCrcOk m.word = true →
    bitsOf m.word.w0.toNat 0 8 = 5 → s.cue.phase = .probing → (s.port p).measured = false → s.allot p < 6 →
    (s.port p).probes < 1024 →
    let peerSent := BitVec.ofNat 64 (m.word.w1.toNat + 2 ^ 32 * m.word.w2.toNat)
    let mineCame := BitVec.ofNat 64 (m.word.w3.toNat + 2 ^ 32 * m.word.w4.toNat)
    ∃ t, exec (.delayProbeReceived p m) s = .next t ∧ (t.port p).lastProbe = m.arrived ∧
      (mineCame = 0 ∨ mineCame = (s.port p).probeTold →
        (t.port p).probes = (s.port p).probes ∧ (t.port p).probeSum = (s.port p).probeSum) ∧
      (∀ (sent : DWord) (l : List DWord), (s.port p).probeSent = sent :: l → mineCame ≠ 0 → mineCame ≠ (s.port p).probeTold →
        (peerSent - mineCame).toNat ≤ (m.arrived - sent).toNat →
        (t.port p).probes = (s.port p).probes + 1 ∧
        (t.port p).probeSum = (s.port p).probeSum + ((m.arrived - sent).toNat - (peerSent - mineCame).toNat))) ∧
  (∀ (p : PortId) (floodNs : Nat) (s : State), s.dataOn = true → s.cue.phase = .probing → (s.port p).measured = false →
    1024 ≤ (s.port p).probes → s.allot p < 6 →
    ∃ t, exec (.alignMeasureDone p floodNs) s = .next t ∧ (t.port p).measured = true ∧
      t.get (R.portDelay p) = min ((s.port p).probeSum * 16 / 2048) (2 ^ 24 - 1) ∧
      t.get R.cueFloodNs = min floodNs (2 ^ 24 - 1) ∧
      t.get R.cueMinPeriodUs = max 20 (min (ceilDiv (2 * floodNs) 1000) 65535))

/-- The root's counter (R40, R487): a valid pulse inside the window sets the count to SEED_TIME at its edge and locks the root; at the
end of the window the root keeps its own count. Another module locks after 64 cues inside the band and loses its lock after 16 markers
beyond it, with ALIGN LOST and the TIME cause (R40 step 4, R43). The form of the residual and of a set counter is the model's
reading (log 25). -/
def Obligations.CountersAreSetLockedAndLost : Prop :=
  (∀ (m : SeedPulse) (s : State), s.dataOn = true → s.root = true → s.flagReg R.cueAlignCtrlUseSeed = true →
    s.cue.counterSet = false → validPulse m = true → ¬ m.edge < s.cue.began → s.cue.phase = .seedWindow →
    ¬ (s.cue.windowEnd.getD 0) < m.edge →
    ∃ t, exec (.cueSeedPulse m) s = .next t ∧ t.cue.counterSet = true ∧ t.alignState = 2 ∧ t.cueNow = 0 ∧
      t.time = s.time + (BitVec.ofNat 64 (s.get2 R.cueSeedTimeLo R.cueSeedTimeHi) - m.edge)) ∧
  (∀ s : State, s.dataOn = true → s.cue.phase = .seedWindow →
    ∃ t, exec .alignSeedWindowEnd s = .next t ∧ t.cue.counterSet = true ∧ t.alignState = 2 ∧ t.cueNow = 0 ∧ t.time = s.time ∧
      t = { s.recorded t with cue := t.cue }) ∧
  (∀ s : State, s.dataOn = true → s.root = false → s.cue.hasParent = true → s.cue.counterSet = true → 64 ≤ s.cue.inBand →
    ∃ t, exec .alignLocked s = .next t ∧ t.alignState = 2 ∧ t = s.recorded t) ∧
  (∀ s : State, s.dataOn = true → s.root = false → s.alignState = 2 → s.cue.hasParent = true → 16 ≤ s.cue.outBand →
    ∃ t, exec .alignLost s = .next t ∧ t.alignState = 3 ∧ t.eventSet 0x0104 pgCUE ∧ t.causeSet vTIME ∧
      t.cue.outBand = 0 ∧ t = { s.recorded t with cue := t.cue, commit := t.commit })

/-! ## Call sheets and acts -/

/-- Arming and disarming (R60, R66) of an aligned module: a sheet arms when its target lies far enough ahead and is rejected as late
(cause 5) when it does not; an armed one that is not checked yet is disarmed, and after its check a disarm changes nothing. That a
disarmed sheet leaves CS_STATUS.STATE 0 is the model's reading (log 22). An immediate sheet (R67) is in CallSheetsAreCheckedAndApplied. -/
def Obligations.SheetsArmAndDisarm : Prop :=
  (∀ (path : Path) (machine : Bool) (s : State), s.reaches path R.cueCsCtrlArm.page → s.sheet.armed = false →
    s.aligned = true →
    ∃ t, exec (.csArm path machine) s = .next t ∧ t.flagReg R.cueCsCtrlMachine = machine ∧ t.shadow = s.shadow ∧
      (s.cueNow + (if machine then 3 else 2) ≤ s.csTarget →
        t.sheet.armed = true ∧ t.sheet.checked = false ∧ t.get R.cueCsStatusState = 1) ∧
      (s.csTarget < s.cueNow + (if machine then 3 else 2) →
        t.sheet.armed = false ∧ t.get R.cueCsStatusState = 4 ∧ t.get R.cueCsRejectCause = 5 ∧ t.eventSet 0x0103 pgCUE)) ∧
  (∀ (path : Path) (machine : Bool) (s : State), s.reaches path R.cueCsCtrlDisarm.page → s.sheet.armed = true →
    s.sheet.checked = false →
    ∃ t, exec (.csDisarm path machine) s = .next t ∧ t.sheet = SheetSt.idle ∧ t.get R.cueCsStatusState = 0 ∧
      t = { s.recorded t with sheet := t.sheet }) ∧
  (∀ (path : Path) (machine : Bool) (s : State), s.reaches path R.cueCsCtrlDisarm.page → s.sheet.armed = true →
    s.sheet.checked = true →
    ∃ t, exec (.csDisarm path machine) s = .next t ∧ SameWords [] s t ∧ t = s.recorded t)

/-- The check, the decision and the apply of a call sheet (R60 to R65, R67). At its check boundary, T - 1 or for a machine sheet T - 2, the
first failing check rejects it: PAGE, REG, the cause and the event are recorded, the staged values stay and a machine sheet's accept
bit is 0. A sheet that passes had no write dropped; every staged field that changes lies in its range, is machine-wide in a machine
sheet only, and breaks no restriction and no lock; a machine sheet's marker carries accept 1 and the digest. At T - 1 a machine sheet
whose digests differ is rejected with cause 7, one that some module did not accept with cause 6; any other passes. At T it
applies: STATE is 3, the shadows are empty, every one-shot field is 0, and of a sheet with no one-shot field each staged field has its
staged value and the other bits of its word are as before. An immediate sheet is checked and applied or rejected at ARM; before
alignment a machine sheet, one with a target and one armed while a program is loaded are rejected with cause 5. What a module
that is alone at T - 1 decides is the model's choice (log 99). -/
def Obligations.CallSheetsAreCheckedAndApplied : Prop :=
  (∀ s : State, s.dataOn = true → s.sheet.armed = true → s.sheet.checked = false →
    let machine := s.flagReg R.cueCsCtrlMachine
    s.csTarget = s.nextCue + (if machine then 2 else 1) →
    let b := (s.toSheets.set R.cueCsStatusState 2).touchTables
    let verdict := (b.checkSheet machine false s.csTarget).map fun (f : Failure) => (f.addr, f.cause)
    ∃ t, exec .cueBoundary s = .next t ∧ t.shadow = s.shadow ∧
      (machine = true → t.cue.flood.digOr = BitVec.ofNat 16 (s.toSheets.sheetDigest s.csTarget) ∧
        t.cue.flood.digAnd = BitVec.ofNat 16 (s.toSheets.sheetDigest s.csTarget)) ∧
      (∀ addr cause : Nat, verdict = some (addr, cause) → t.sheet = SheetSt.idle ∧ t.get R.cueCsStatusState = 4 ∧
        t.get R.cueCsRejectPage = addr / 0x1000 % 2 ^ R.cueCsRejectPage.w ∧
        t.get R.cueCsRejectReg = addr % 0x800 / 4 % 2 ^ R.cueCsRejectReg.w ∧
        t.get R.cueCsRejectCause = cause % 2 ^ R.cueCsRejectCause.w ∧ t.eventSet 0x0103 pgCUE ∧ t.cue.flood.accept = false) ∧
      (∀ a : Nat, s.sheet.dropped = some a → verdict = some (a, 4)) ∧
      (verdict = none → t.sheet.armed = true ∧ t.sheet.checked = true ∧ t.sheet.passed = !machine ∧
        t.get R.cueCsStatusState = 2 ∧ t.cue.flood.accept = machine ∧
        ∀ e ∈ s.shadow, ∀ r ∈ stagedRows e.1, b.changed r.fld = true →
          fieldOk r.fld (b.getStaged r.fld) = true ∧ (isAny machineWide r.fld = true → machine = true) ∧
          b.restricted r.fld = false ∧ (b.loaded = true → isAny lockedFields r.fld = false))) ∧
  (∀ s : State, s.dataOn = true → s.sheet.armed = true → s.sheet.checked = true → s.sheet.passed = false →
    s.csTarget = s.nextCue + 1 →
    let fl := s.cue.flood
    ∃ t, exec .cueBoundary s = .next t ∧ t.shadow = s.shadow ∧ t.cue.flood.accept = false ∧ t.cue.flood.digOr = 0 ∧
      (fl.digOr = fl.digAnd → fl.accept = true → t.sheet = { s.sheet with passed := true }) ∧
      (fl.digOr ≠ fl.digAnd ∨ fl.accept = false → t.sheet = SheetSt.idle ∧ t.get R.cueCsStatusState = 4 ∧
        t.get R.cueCsRejectCause = (if fl.digOr = fl.digAnd then 6 else 7) ∧ t.get R.cueCsRejectPage = pgCUE ∧
        t.get R.cueCsRejectReg = R.cueCsCtrlArm.addr % 0x800 / 4 ∧ t.eventSet 0x0103 pgCUE)) ∧
  (∀ s : State, s.dataOn = true → s.sheet.armed = true → s.sheet.checked = true → s.sheet.passed = true →
    s.csTarget = s.nextCue → s.job = none → s.acts = [] → s.groups = [] → s.mem.waiting = [] → s.pwr.gap = none →
    s.getStaged R.mgmtJobCtrlStart = 0 →
    ∃ t, exec .cueBoundary s = .next t ∧ t.sheet = SheetSt.idle ∧ t.shadow = [] ∧ t.get R.cueCsStatusState = 3 ∧
      (∀ f ∈ oneShots, t.get f = 0) ∧
      (s.sheet.taken = Taken.none → AMap.sorted s.shadow = true → (∀ e ∈ s.shadow, stagedRows e.1 ≠ []) →
        (∀ f ∈ oneShots, s.getStaged f = 0) → s.getStaged R.commitCtrlActive = s.get R.commitCtrlActive →
        (∀ p < 32, s.stagedAllot p = s.allot p) →
        ∀ e ∈ s.shadow,
          let m := BitVec.ofNat 32 (maskOf (stagedRows e.1))
          t.word e.1 = (s.word e.1 &&& ~~~m) ||| (e.2 &&& m))) ∧
  (∀ (path : Path) (machine : Bool) (s : State), s.reaches path R.cueCsCtrlArm.page → s.sheet.armed = false →
    s.aligned = false →
    let b := ({ s.set R.cueCsCtrlMachine 0 with sheet := { SheetSt.idle with armed := true } }).touchTables
    let verdict := (b.checkSheet false true 0).map fun (f : Failure) => (f.addr, f.cause)
    ∃ t, exec (.csArm path machine) s = .next t ∧ t.sheet = SheetSt.idle ∧
      (machine = true ∨ s.csTarget ≠ 0 ∨ s.loaded = true →
        t.shadow = s.shadow ∧ t.get R.cueCsStatusState = 4 ∧ t.get R.cueCsRejectCause = 5 ∧ t.eventSet 0x0103 pgCUE) ∧
      (machine = false → s.csTarget = 0 → s.loaded = false →
        (∀ addr cause : Nat, verdict = some (addr, cause) → t.shadow = s.shadow ∧ t.get R.cueCsStatusState = 4 ∧
          t.get R.cueCsRejectCause = cause % 2 ^ R.cueCsRejectCause.w ∧ t.eventSet 0x0103 pgCUE) ∧
        (verdict = none → t.shadow = [] ∧ t.get R.cueCsStatusState = 3)))

/-- While a sheet is armed a write to a staging shadow is dropped and counted (R61): before the sheet's checks it makes them fail with
cause 4 at that register, which the check boundary records whatever the sheet holds; after them it changes nothing of the sheet. While
none is armed it changes staged fields only, and no live word (R60). -/
def Obligations.StagingWritesReachOnlyTheShadow : Prop :=
  (∀ (path : Path) (off : Nat) (v : Word) (s : State), s.pathOpen path = true → s.pageOpen (off / 0x1000) = true → off % 4 = 0 →
    0x800 ≤ off % 0x1000 → pageHasStaged (off / 0x1000) = true → stagedRows (off - 0x800) ≠ [] →
    ∃ t, exec (.stagingWrite path off v) s = .next t ∧
      (s.sheet.armed = false →
        let m := BitVec.ofNat 32 (maskOf (stagedRows (off - 0x800)))
        t.staged (off - 0x800) = (s.word (off - 0x800) &&& ~~~m) ||| (v &&& m) ∧
        (∀ a, a ≠ off - 0x800 → AMap.find t.shadow a = AMap.find s.shadow a) ∧ SameWords [] s t ∧
        t = { s.recorded t with shadow := t.shadow }) ∧
      (s.sheet.armed = true → t.shadow = s.shadow ∧
        t.get R.cueCsStatusLateWrites = min (s.get R.cueCsStatusLateWrites + 1) (2 ^ R.cueCsStatusLateWrites.w - 1) ∧
        t = { s.recorded t with sheet := t.sheet } ∧
        (s.sheet.checked = true → t.sheet = s.sheet) ∧
        (s.sheet.checked = false → s.sheet.dropped = none → t.sheet = { s.sheet with dropped := some (off - 0x800) }) ∧
        (s.sheet.dropped ≠ none → t.sheet = s.sheet))) ∧
  (∀ (a : Nat) (s : State), s.dataOn = true → s.sheet.armed = true → s.sheet.checked = false → s.sheet.dropped = some a →
    s.csTarget = s.nextCue + (if s.flagReg R.cueCsCtrlMachine then 2 else 1) →
    ∃ t, exec .cueBoundary s = .next t ∧ t.sheet = SheetSt.idle ∧ t.shadow = s.shadow ∧ t.get R.cueCsStatusState = 4 ∧
      t.get R.cueCsRejectCause = 4 ∧ t.get R.cueCsRejectPage = a / 0x1000 % 2 ^ R.cueCsRejectPage.w ∧
      t.get R.cueCsRejectReg = a % 0x800 / 4 % 2 ^ R.cueCsRejectReg.w ∧ t.eventSet 0x0103 pgCUE)

/-- An act due at a boundary that is not held starts there (R52, R53, R153, R159): it is active with its deadline shifted by S, every queue
of its rows holds the first 64 commands of its stream and every communication queue of its groups the first of its own, and every
flag of its rows is 0. Where a held cue takes the shift beyond the step's hold limit, every act whose deadline has come is aborted:
HOLD in the verdict, the event, its queues empty, and no further act of the step starts (R58). An act whose last command has completed
(R158) completes: it leaves the active acts, and LAST_SLACK is the time left to its deadline in ns, two's complement (R56). The 256
commands of a communication queue (log 104), the once of an abort (log 68) and a slack of 2^31 ns or more (log 67) are the
model's choices. -/
def Obligations.ActsStartAbortAndComplete : Prop :=
  (∀ (s : State) (j : JobSt) (d : DueAct) (p : Program), s.dataOn = true → s.heldNow = false → s.sheet.armed = false →
    s.job = some j → j.outcomeAt = none → (j.skipping = true ∨ s.shift ≤ j.shiftMark + s.get R.cueHoldLimit) →
    (j.due.filter fun (x : DueAct) => x.base + x.desc.start + s.shift == s.nextCue) = [d] → s.prog d.desc.program = some p →
    MemoryAtRest s → MemoryClean s →
    let streams := streamsOf (s.peek p.off p.len) d.desc (s.chip.getD 0)
    ∃ t, exec .cueBoundary s = .next t ∧
      (∃ a ∈ t.acts, a.desc = d.desc ∧ a.start = s.nextCue ∧ a.deadline = d.base + d.desc.deadline + s.shift ∧
        a.overran = false ∧ a.busy = false) ∧
      (∀ (cell : CellId) (core : CoreId) (q : Fin 4), bitAt d.desc.rows (cell / 8) = true →
        ((t.core cell core).queue q).held = ((streamOf streams cell core q).take 64).map (fun x => (x, 0)) ∧
        ((t.core cell core).queue q).stream = (streamOf streams cell core q).drop 64) ∧
      (∀ (cell : CellId) (f : FlagId), bitAt d.desc.rows (cell / 8) = true → (t.flag ⟨cell, f⟩).changes = [] ∧
        (t.cell cell).cycle = 0) ∧
      (∀ g : GroupId, bitAt d.desc.groups g = true → (t.group g).held = (streamOf streams (128 + g) 0 4).take 256 ∧
        (t.group g).stream = (streamOf streams (128 + g) 0 4).drop 256 ∧ (t.group g).run = none)) ∧
  (∀ (s : State) (j : JobSt), s.dataOn = true → s.heldNow = true → s.sheet.armed = false → s.job = some j →
    j.outcomeAt.isSome = true → j.skipping = false → j.shiftMark + s.get R.cueHoldLimit < (s.shift + 1) % 2 ^ 32 →
    ∃ t j', exec .cueBoundary s = .next t ∧ t.causeSet vHOLD ∧ t.job = some j' ∧ j'.skipping = true ∧
      j'.due = j.due.filter (fun (x : DueAct) => x.desc.type == 3 || x.base != j.base) ∧
      ∀ a ∈ s.acts, a.deadline ≤ s.nextCue → t.eventSet 0x0102 pgCUE ∧ (∀ b ∈ t.acts, b.desc.act ≠ a.desc.act) ∧
        (∀ (cell : CellId) (core : CoreId) (q : Fin 4), bitAt a.desc.rows (cell / 8) = true →
          ((t.core cell core).queue q).held = [] ∧ ((t.core cell core).queue q).stream = []) ∧
        ∀ g : GroupId, bitAt a.desc.groups g = true → (t.group g).run = none ∧ (t.group g).held = []) ∧
  ∀ (second : Bool) (m : ActMeasure) (s : State) (a : ActiveAct), s.dataOn = true →
    s.acts[if second then 1 else 0]? = some a → s.actDone a m.actCycle = true →
    ∃ t, exec (.actComplete second m) s = .next t ∧ t.acts = s.acts.filter (fun b => decide (b.desc.act ≠ a.desc.act)) ∧
      t.get R.cueLastSlack = unsignedOf 32 (s.slack a) ∧
      t = { s.recorded t with acts := t.acts, mem := t.mem, pwr := t.pwr, cells := t.cells, cores := t.cores, groups := t.groups,
                              ports := t.ports, traced := t.traced }

/-- A refill moves commands from the streams to the queues in order, the neediest queue first (R153). -/
def Obligations.RefillKeepsTheOrderOfCommands : Prop :=
  ∀ (cell : CellId) (cycle : Nat) (s : State), Canonical s → s.dataOn = true → (s.actOfCell cell).isSome = true →
    ∃ t, exec (.queueRefill cell cycle) s = .next t ∧ t = { s.recorded t with cores := t.cores } ∧
      (∀ (core : CoreId) (q : Fin 4),
        let e := (s.core cell core).queue q
        let e' := (t.core cell core).queue q
        e'.held.map Prod.fst ++ e'.stream = e.held.map Prod.fst ++ e.stream ∧ e.held.length ≤ e'.held.length ∧
          e'.held.length ≤ max 64 e.held.length) ∧
      (∀ core q, s.neediest cell = some (core, q) →
        ((s.core cell core).queue q).held.length < ((t.core cell core).queue q).held.length)

/-! ## Engines -/

/-- Every vector instruction that is not refused writes its results, in the destination's format, where its fields say (R131, R134 to
R136, R138, R146): on a cell with no window open, with no overlap of R133 and, for a queue source, with an entry to read. The
rounding of a reduction before its conversion is the model's reading (log 18). Comparisons of exact operands answer 1 or 0 and agree
with each other; the minimum and the maximum are one of the two (R134). -/
def Obligations.VectorInstructionWritesItsResults : Prop :=
  (∀ (o : VOp) (i : Issue) (f : VecFields) (s : State) (a : ActiveAct), s.canIssue 1 i a → s.calm i.cell →
    (vecRefuse o s i.cell f).1 = none → badOverlap o s i f = false →
    ((o.sources f).any (fun x => Src.isQueue x.src) = true → (s.core i.cell i.core).oldest.isSome = true) →
    ∃ t, exec (vecInstr o i f) s = .next t ∧
      match f.dst with
      | .acc tile elem =>
        let c := (encodeElems 0x00 (.ofNat 1) (fun _ => .nearest) o.straight (vecResult o s i f).elems).codes
        ∀ k < c.length, t.accGet i.cell i.core (tile * 512 + elem + k) = BitVec.ofNat 32 (c.getD k 0)
      | .ls addr fmt scl =>
        let e := encodeElems fmt (tensorScale s i.cell i.core fmt scl) (s.rounding a fmt f.seed f.pass f.first) o.straight
          (vecResult o s i f).elems
        let b := packCodes fmt (lsFrom s i.cell i.core addr) e.codes
        (fmtBlock fmt = 0 ∨ addr + b.length ≤ scl ∨ scl + e.e8.length ≤ addr) →
          t.lsRead i.cell i.core addr b.length = b ∧
          (fmtBlock fmt ≠ 0 → t.lsRead i.cell i.core scl e.e8.length = e.e8.map (BitVec.ofNat 8))) ∧
  ∀ (n d m e : Nat) (a b : Bool), d ≠ 0 → e ≠ 0 →
    let x := Num.fin a n d
    let y := Num.fin b m e
    vecElem .cmpLt x y .zero = (truth (x.lt y), false) ∧
    (vecElem .cmpGt x y .zero).1 = (vecElem .cmpLt y x .zero).1 ∧
    ((vecElem .cmpLe x y .zero).1 = truth true ↔ x.lt y = true ∨ x.eq y = true) ∧
    ((vecElem .cmpGe x y .zero).1 = truth true ↔ y.lt x = true ∨ x.eq y = true) ∧
    ((vecElem .cmpNe x y .zero).1 = truth true ↔ (vecElem .cmpEq x y .zero).1 = truth false) ∧
    ((vecElem .min x y .zero).1 = x ∨ (vecElem .min x y .zero).1 = y) ∧
    ((vecElem .max x y .zero).1 = x ∨ (vecElem .max x y .zero).1 = y)

/-- A vector instruction holds its engine for its occupancy, refused or not (R115, R121, R132, R152). A refused one has no effect on
the stores: it is counted and raised, and the verdict takes COMMAND but in an Intermission act (R59, R113, R132). -/
def Obligations.VectorInstructionsTakeTimeAndRefusedOnesWriteNothing : Prop :=
  (∀ (o : VOp) (i : Issue) (f : VecFields) (s : State) (a : ActiveAct), s.canIssue 1 i a →
    ∃ t, exec (vecInstr o i f) s = .next t ∧
      ((t.core i.cell i.core).queue 1).free =
        s.issueCycle 1 i + ceilDiv (if badN f.n then 1 else f.n) (vecLanes o s i f)) ∧
  (∀ (o : VOp) (i : Issue) (f : VecFields) (s : State) (a : ActiveAct), s.canIssue 1 i a →
    (vecRefuse o s i.cell f).1 = some 0x0202 →
    ∃ t, exec (vecInstr o i f) s = .next t ∧ t.eventSet 0x0202 (pgCELL i.cell) ∧
      (a.intermission = false → t.causeSet vCOMMAND) ∧
      t.get (R.cellStoreRange i.cell) = min (s.get (R.cellStoreRange i.cell) + 1) (2 ^ (R.cellStoreRange i.cell).w - 1) ∧
      (∀ x, t.lsByte i.cell i.core x = s.lsByte i.cell i.core x) ∧ (∀ x, t.accGet i.cell i.core x = s.accGet i.cell i.core x) ∧
      (∀ x, t.csByte i.cell x = s.csByte i.cell x))

/-- MMA (R95, R99, R112, R117, R123, R124): the 512 outputs go to the accumulator tile, or wait as a private tile for their push. The
oldest private tile enters the finished-tile queue in the push format, and the core's queue flag counts it (R124, R142). Every MMA that
issues, refused or not, holds its engine for its occupancy (R113, R115). How often an operand's overflow counts is the model's choice
(log 63), and no clause rests on it. -/
def Obligations.MmaTilesAreWrittenAndPushed : Prop :=
  (∀ (i : Issue) (f : MmaFields) (s : State) (a : ActiveAct), s.canIssue 0 i a →
    ∃ t, exec (.mma i f) s = .next t ∧
      ((t.core i.cell i.core).queue 0).free = s.issueCycle 0 i + mmaOcc f) ∧
  (∀ (i : Issue) (f : MmaFields) (s : State) (a : ActiveAct), s.canIssue 0 i a → s.calm i.cell →
    (mmaRefuse i.cell f).1 = none →
    let x := mmaRows s i.cell i.core f.aAddr f.aStride f.aFmt f.aScl 32 f.k f.f21
    let y := mmaRows s i.cell i.core f.bAddr f.bStride f.bFmt f.bScl 16 f.k f.f21
    let tile := mmaTile x.1 y.1 f.k fun e => if f.init then s.accGet i.cell i.core (f.tile * 512 + e) else 0
    ∃ t, exec (.mma i f) s = .next t ∧
      ((t.core i.cell i.core).queue 0).free = s.issueCycle 0 i + mmaOcc f ∧
      (f.ftq = false → ∀ e < 512, t.accGet i.cell i.core (f.tile * 512 + e) = ((tile.map Prod.fst).getD e 0)) ∧
      (f.ftq = true → (s.core i.cell i.core).priv.length ≤ 1 →
        let shown := fun (x : PrivTile) => (x.tag, x.ready, x.first, x.act, x.bits)
        (t.core i.cell i.core).priv.map shown = (s.core i.cell i.core).priv.map shown ++
          [(i.tag, s.issueCycle 0 i + mmaOcc f + 17, s.issueCycle 0 i + 14, a.desc.act, tile.map Prod.fst)])) ∧
  (∀ (cell : CellId) (core : CoreId) (cycle c : Nat) (s : State) (x : PrivTile) (rest : List PrivTile),
    (s.core cell core).priv = x :: rest → rest.length ≤ 1 → (s.core cell core).pushCycle x = some c →
    ∃ t e, exec (.ftqPush cell core cycle) s = .next t ∧ (t.core cell core).priv = rest ∧
      (t.core cell core).ftq = heldEntries (s.core cell core).ftq (if c = x.ready then c else max c cycle) ++ [e] ∧
      e.state = .pushed ∧ e.tag = x.tag ∧ e.freeAt = none ∧ e.h16 = s.flagReg (R.cellFtqConv cell) ∧
      e.bits.length = x.bits.length ∧
      (s.flagReg (R.cellFtqConv cell) = false → e.bits = x.bits) ∧
      (t.core cell core).pushes = (s.core cell core).pushes + 1)

/-- Core-mover copies without conversion move bits unchanged (R91, R118): local store to local store, to and from the cell store. Tile
load and tile store (R118): 512 F32 elements from the local store into a tile, and from a tile into any format. That such a
copy keeps every bit is read from R91 and R118 (log 19); how blocks of a transposed run lie, and blocks of 32 of a tile store, are the
model's choices (logs 64 and 65). -/
def Obligations.CoreMoversCopyBitsAndTiles : Prop :=
  (∀ (i : Issue) (f : CopyFields) (s : State) (a : ActiveAct), s.canIssue 2 i a → s.calm i.cell → f.conv = none →
    f.src % 64 = 0 → f.dst % 64 = 0 → f.src + f.bytes ≤ 131072 → f.dst + f.bytes ≤ 131072 →
    (f.src + f.bytes ≤ f.dst ∨ f.dst + f.bytes ≤ f.src) →
    ∃ t, exec (.localCopy i f) s = .next t ∧
      (f.transpose = false → t.lsRead i.cell i.core f.dst f.bytes = s.lsRead i.cell i.core f.src f.bytes) ∧
      (f.transpose = true → f.elem = 8 → f.bytes % 1024 = 0 → ∀ j < f.bytes,
        t.lsByte i.cell i.core (f.dst + j) =
          s.lsByte i.cell i.core (f.src + (j / 1024 * 1024 + j % 1024 % 32 * 32 + j % 1024 / 32)))) ∧
  (∀ (i : Issue) (f : CsFields) (s : State) (a : ActiveAct), s.canIssue 2 i a → s.calm i.cell → f.conv = none →
    f.ls % 64 = 0 → f.cs % 64 = 0 → f.ls + f.bytes ≤ 131072 → f.cs + f.bytes ≤ 1048576 →
    ∃ t, exec (.cellStoreTransfer i f) s = .next t ∧
      (f.toCell = true → t.csRead i.cell f.cs f.bytes = s.lsRead i.cell i.core f.ls f.bytes) ∧
      (f.toCell = false → t.lsRead i.cell i.core f.ls f.bytes = s.csRead i.cell f.cs f.bytes) ∧
      ((t.core i.cell i.core).queue 2).free = s.issueCycle 2 i +
        max 1 (portAWait f.cs i.core (s.issueCycle 2 i) + ceilDiv f.bytes 64)) ∧
  (∀ (i : Issue) (tile src : Nat) (s : State) (a : ActiveAct), s.canIssue 2 i a → s.calm i.cell →
    src % 64 = 0 → src + 2048 ≤ 131072 → tile ≤ 15 →
    ∃ t, exec (.tileLoad i tile src) s = .next t ∧
      (∀ e < 512, t.accGet i.cell i.core (tile * 512 + e) =
        BitVec.ofNat 32 (leNat (s.lsRead i.cell i.core (src + 4 * e) 4))) ∧
      ((t.core i.cell i.core).queue 2).free = s.issueCycle 2 i + 32) ∧
  (∀ (i : Issue) (f : TileStoreFields) (s : State) (a : ActiveAct), s.canIssue 2 i a → s.calm i.cell →
    fmtRefuse f.dstFmt = none → placeOk 131072 f.dst f.dstFmt f.dstScl 512 = true → f.tile ≤ 15 →
    s.slotRefused f.dstFmt f.slot = false →
    let e := encodeElems f.dstFmt (tensorScale s i.cell i.core f.dstFmt f.dstScl)
      (s.rounding a f.dstFmt f.seed f.pass f.first) true (accElems s i.cell i.core (f.tile * 512) 512)
    let b := packCodes f.dstFmt (lsFrom s i.cell i.core f.dst) e.codes
    (fmtBlock f.dstFmt = 0 ∨ f.dst + b.length ≤ f.dstScl ∨ f.dstScl + e.e8.length ≤ f.dst) →
    ∃ t, exec (.tileStore i f) s = .next t ∧ t.lsRead i.cell i.core f.dst b.length = b)

/-- FLAG.INC adds k and FLAG.WRITE writes v, after every change already made (R159 to R161). MARK makes one trace record when only its
type is traced; a record that waits is written at the trace pointer, which moves on by its 32 bytes, or, where it could not be
written in time, is dropped and counted (R174, R177). That a record waits for an idle tick is the model's choice (log 96). -/
def Obligations.FlagCommandsChangeFlagsAndMarksAreTraced : Prop :=
  (∀ (i : Issue) (flag : FlagRef) (k : Nat) (s : State) (a : ActiveAct), s.canIssue 3 i a → flagRefused s i.cell flag = false →
    1 ≤ k → k ≤ 255 → (∀ x ∈ (s.flag flag).changes, x.cycle ≤ s.issueCycle 3 i) →
    ∃ t, exec (.flagInc i flag k) s = .next t ∧ (t.flag flag).value = (s.flag flag).value + BitVec.ofNat 16 k ∧
      ((t.core i.cell i.core).queue 3).free = s.issueCycle 3 i + 1) ∧
  (∀ (i : Issue) (flag : FlagId) (v : Half) (s : State) (a : ActiveAct), s.canIssue 3 i a →
    flagRefused s i.cell ⟨i.cell, flag⟩ = false →
    (∀ x ∈ (s.flag ⟨i.cell, flag⟩).changes, x.cycle < s.issueCycle 3 i) →
    ∃ t, exec (.flagWrite i flag v) s = .next t ∧ (t.flag ⟨i.cell, flag⟩).value = v) ∧
  (∀ (i : Issue) (v : Word) (s : State) (a : ActiveAct), s.canIssue 3 i a → s.flagReg R.cmdTraceCtrlEn = true →
    s.get R.cmdTraceCtrlTypes = 2 ^ 8 →
    ∃ t, exec (.mark i v) s = .next t ∧ t.mem = s.mem ∧
      t.traced = s.traced ++
        [wordsLe [s.time.toNat % 2 ^ 32, s.time.toNat / 2 ^ 32, i.tag.toNat, tracePlace i.cell i.core 3 0 + 9 * 2 ^ 20,
          a.desc.act % 2 ^ 16, s.stepCount % 2 ^ 32, v.toNat % 2 ^ 32, s.issueCycle 3 i % 2 ^ 32]]) ∧
  (∀ (s : State) (b : List Byte), Canonical s → s.pending = [] → s.start.powered = true → s.traced = [b] → b.length = 32 →
    MemoryAtRest s → MemoryClean s → inTiers12 (s.get2 R.cmdTraceBaseLo R.cmdTraceBaseHi) (2 ^ s.get R.cmdTraceSize) = true →
    s.get2 R.cmdTraceWrptrLo R.cmdTraceWrptrHi + 64 ≤ 2 ^ s.get R.cmdTraceSize → s.get R.cmdTraceSize ≤ 40 →
    let at_ := s.get2 R.cmdTraceBaseLo R.cmdTraceBaseHi + s.get2 R.cmdTraceWrptrLo R.cmdTraceWrptrHi
    ∃ t, step s = .next t ∧
      t.get2 R.cmdTraceWrptrLo R.cmdTraceWrptrHi = s.get2 R.cmdTraceWrptrLo R.cmdTraceWrptrHi + 32 ∧
      Memory.readN t.mem.bytes at_ 32 = b ∧
      ∀ x, (x < at_ ∨ at_ + 32 ≤ x) → Memory.read t.mem.bytes x = Memory.read s.mem.bytes x) ∧
  (∀ (s : State) (b : List Byte) (l : List (List Byte)), s.dataOn = true → s.traced = b :: l →
    ∃ t, exec .traceRecordDrop s = .next t ∧ t.traced = l ∧
      t.get R.cmdTraceDrops = min (s.get R.cmdTraceDrops + 1) (2 ^ 32 - 1) ∧
      SameWords [R.cmdTraceDrops.addr] s t ∧ t = { s.recorded t with traced := l })

/-- Waits (R157, R162 to R164): a WAIT is held, its completion opens one gate to each engine of its mask, and its expiry stops the
core and overruns the act. -/
def Obligations.WaitsHoldOpenGatesAndExpire : Prop :=
  (∀ (i : Issue) (f : WaitFields) (s : State) (a : ActiveAct), s.canIssue 3 i a →
    ∃ t w, exec (.wait i f) s = .next t ∧ (t.core i.cell i.core).wait = some w ∧ w.tag = i.tag ∧ w.flag = ⟨i.cell, f.flag⟩ ∧
      w.target = f.target ∧ w.issued = s.issueCycle 3 i ∧ w.gMat = f.gMat ∧ w.gVec = f.gVec ∧ w.gMov = f.gMov) ∧
  (∀ (cell : CellId) (core : CoreId) (cycle c : Nat) (s : State) (x : WaitSt), (s.core cell core).wait = some x →
    (s.flag x.flag).clampHold cell core x.issued cycle x.target = some c →
    ∃ t, exec (.waitComplete (.core cell core) cycle) s = .next t ∧ (t.core cell core).wait = none ∧
      (t.core cell core).syn.free = c + 1 ∧
      (x.gMat = true → (s.core cell core).mat.gates.length < 15 →
        (t.core cell core).mat.gates = (s.core cell core).mat.gates ++ [c]) ∧
      (x.gVec = true → (s.core cell core).vec.gates.length < 15 →
        (t.core cell core).vec.gates = (s.core cell core).vec.gates ++ [c]) ∧
      (x.gMov = true → (s.core cell core).mov.gates.length < 15 →
        (t.core cell core).mov.gates = (s.core cell core).mov.gates ++ [c]) ∧
      (x.gMat = false → (t.core cell core).mat.gates = (s.core cell core).mat.gates)) ∧
  (∀ (cell : CellId) (core : CoreId) (s : State) (x : WaitSt) (a : ActiveAct), (s.core cell core).wait = some x →
    s.actOfCell cell = some a → (∀ b ∈ s.acts, b.desc.act = a.desc.act → b = a) → x.expires ≤ s.cueNow + 1 →
    ∃ t, exec (.waitExpired (.core cell core)) s = .next t ∧ (t.core cell core).wait = none ∧
      (t.core cell core).discarded = true ∧ (∀ q : Fin 4, ((t.core cell core).queue q).held = []) ∧
      t.eventSet 0x0204 (pgCELL cell) ∧ (a.intermission = false → t.causeSet vCOMMAND) ∧
      (∃ b ∈ t.acts, b.desc = a.desc ∧ b.overran = true ∧ b.busy = true))

/-- RELEASE and the end of a drain (R142, R145): the oldest pushed entry is released to where the command says, and is free when its
last byte has been drained, when its tile fills its slot; an entry for a group stays released, not freed, while the reserve has no
room (R269). The order in which the queue takes and frees entries is the model's reading (log 20). -/
def Obligations.EntriesAreReleasedAndFreed : Prop :=
  (∀ (i : Issue) (d : ReleaseTo) (s : State) (a : ActiveAct) (e : FtqEntry), s.canIssue 1 i a → s.calm i.cell →
    releaseRefused s i.cell d = false → (s.core i.cell i.core).oldest = some e →
    (∀ chip off f, d = .remote chip off f →
      (s.remoteRefuse chip off (if e.h16 then 1024 else 2048) true i.cell).1 = none) →
    ∃ t, exec (.release i d) s = .next t ∧
      (t.core i.cell i.core).ftq = (s.core i.cell i.core).ftq.map (fun (x : FtqEntry) =>
        if x.seq = e.seq then { x with state := .released, dest := some d } else x) ∧
      ((t.core i.cell i.core).queue 1).free = s.issueCycle 1 i + 1) ∧
  (∀ (cell : CellId) (core : CoreId) (s : State) (e : FtqEntry),
    (s.core cell core).ftq.find? (fun e => decide (e.state = .released) && e.freeAt.isNone) = some e →
    (∀ g slot, e.dest = some (.group g slot) →
      (s.group g).abandoned = true ∨ s.beyondSlots g slot = true ∨ s.reserveRoom g e.payload.length = true) →
    ∃ t, exec (.ftqDrainDone cell core) s = .next t ∧
      (t.core cell core).ftq = (s.core cell core).ftq.map (fun (x : FtqEntry) =>
        if x.seq = e.seq ∧ x.freeAt = none then { x with freeAt := some (s.cell cell).cycle } else x) ∧
      (∀ g slot, e.dest = some (.group g slot) → (s.group g).run = none → (s.group g).abandoned = false →
        AMap.find (s.group g).slots slot = none → e.h16 = s.flagReg (R.collGDefAcc.at_ g) →
        AMap.find (t.group g).slots slot = some e.bits)) ∧
  (∀ (cell : CellId) (core : CoreId) (s : State) (e : FtqEntry) (g : GroupId) (slot : Nat),
    (s.core cell core).ftq.find? (fun e => decide (e.state = .released) && e.freeAt.isNone) = some e →
    e.dest = some (.group g slot) → (s.group g).abandoned = false → s.beyondSlots g slot = false →
    s.reserveRoom g e.payload.length = false →
    ∃ t, exec (.ftqDrainDone cell core) s = .next t ∧ e ∈ (t.core cell core).ftq ∧ e.freeAt = none ∧ t = s.recorded t)

/-! ## Cell movers -/

/-- What a cell-mover command starts (R119, R227, R246, R288): the flagged operation, known by the next number, that ends with an
increment of its flag. -/
def Obligations.CellMoverCommandsStart : Prop :=
  (∀ (i : Issue) (f : CmFields) (s : State) (a : ActiveAct), s.canIssue 2 i a → (cmRefuse s i f).1 = none →
    ∃ t k landed, exec (.cellMoverTransfer i f) s = .next t ∧
      t.movers = s.movers ++ [⟨s.nextReq, i.cell, i.core, i.tag, f.flag, s.issueCycle 2 i, k, landed, []⟩] ∧
      (∀ off dst len, f.kind = .tierRead off dst len →
        k = if tierOf off = 3 then .tier3 (some (dst, len)) else .tierRead [(off, dst, len)] f.ecc) ∧
      (∀ off src len, f.kind = .tierWrite off src len → k = if tierOf off = 3 then .tier3 none else .tierWrite [(off, src, len)]) ∧
      (∀ src cell dst len, f.kind = .cellCopy src cell dst len → k = .cellCopy src cell dst len)) ∧
  (∀ (i : Issue) (f : RemoteFields) (s : State) (a : ActiveAct), s.canIssue 2 i a → s.chip ≠ some f.chip →
    ((remoteRefusal s i f true).1 = none → ∃ t, exec (.remoteWrite i f) s = .next t ∧
      t.movers = s.movers ++ [⟨s.nextReq, i.cell, i.core, i.tag, f.flag, s.issueCycle 2 i, .remoteWrite f.off, false, []⟩]) ∧
    ((remoteRefusal s i f false).1 = none → ∃ t, exec (.remoteRead i f) s = .next t ∧
      t.movers = s.movers ++ [⟨s.nextReq, i.cell, i.core, i.tag, f.flag, s.issueCycle 2 i, .remoteRead f.off f.cs f.len, false, []⟩])) ∧
  (∀ (i : Issue) (f : PageFields) (s : State) (a : ActiveAct), s.canIssue 2 i a → pageRefuse s i f = none →
    (∃ t m, exec (.pageWrite i f) s = .next t ∧ t.movers.getLast? = some m ∧ m.id = s.nextReq ∧ m.flag = f.flag ∧
      m.kind = .pageWrite f.region f.page f.count f.cs ∧ t.movers.length = s.movers.length + 1) ∧
    (∃ t m, exec (.pageRead i f) s = .next t ∧ t.movers = s.movers ++ [m] ∧ m.id = s.nextReq ∧ m.flag = f.flag ∧
      m.kind = .pageRead f.region f.page f.count f.cs f.ecc)) ∧
  (∀ (i : Issue) (region : Nat) (flag : FlagRef) (s : State) (a : ActiveAct), s.canIssue 2 i a →
    flagRefused s i.cell flag = false → regionOk s region 0 0 = true →
    ∃ t m, exec (.regionReset i region flag) s = .next t ∧ t.movers.getLast? = some m ∧ m.id = s.nextReq ∧ m.flag = flag ∧
      m.kind = .regionReset region ∧ t.movers.length = s.movers.length + 1) ∧
  (∀ (i : Issue) (f : UpdFields) (s : State) (a : ActiveAct) (g : UGroup), s.canIssue 2 i a → s.ugroup f.group = some g →
    ((updRefuse s i f false).1 = none → ∃ t m, exec (.updateRead i f) s = .next t ∧ t.movers = s.movers ++ [m] ∧
      m.flag = f.flag ∧ m.kind = .tierRead (placePieces f.cs (updPieces s f)) f.ecc) ∧
    ((updRefuse s i f true).1 = none → frozenFor (some a) f.group g = false → ∃ t m, exec (.updateWrite i f) s = .next t ∧
      t.movers = s.movers ++ [m] ∧ m.flag = f.flag ∧ m.kind = .tierWrite (placePieces f.cs (updPieces s f))))

/-- A flagged command whose bytes may move completes: it is no longer under way, its flag counts one, and what it moves has landed
(R119, R158, R160): a copy between cells; every piece of a tier read or a tier write, of any length and in either tier, an UPDATE READ
or UPDATE WRITE among them (R288); the pages of a PAGE WRITE, each with its lines (R228, R229), or lost where its stack's share is full
(R231), and of a PAGE READ; a REGION RESET (R227, R230). Nothing else in the tiers changes. That the bytes land as the flag counts is
the model's choice of instant (log 15). -/
def Obligations.CellMoverCompletes : Prop :=
  ∀ (cell : CellId) (core : CoreId) (tag : Word) (s : State) (m : MoverOp), Canonical s → s.movers = [m] → m.cell = cell → m.core = core →
    m.tag = tag → m.landed = true → s.spoiledOp (.mover m.id) = false → s.mem.permuted = [] → s.mem.ranges = [] → NothingWaits s →
    MemoryClean s → (∀ x ∈ (s.flag m.flag).changes, x.cycle ≤ (s.cell m.flag.cell).cycle) →
    ∃ t, exec (.cellMoverComplete cell core tag) s = .next t ∧ t.movers = [] ∧
      (t.flag m.flag).value = (s.flag m.flag).value + 1 ∧
      (∀ src c dst len, m.kind = .cellCopy src c dst len →
        t.csRead c dst len = s.csRead m.cell src len ∧ t.mem.bytes = s.mem.bytes) ∧
      (∀ l, m.kind = .tierRead l [] → s.mem.regions = [] → s.mem.stale = [] → l.Pairwise apartInCell →
        t.mem.bytes = s.mem.bytes ∧ ∀ x ∈ l, t.csRead m.cell x.2.1 x.2.2 = Memory.readN s.mem.bytes x.1 x.2.2) ∧
      (∀ l, m.kind = .tierWrite l → s.mem.regions = [] → s.mem.stale = [] → l.Pairwise apartInTier →
        (∀ x ∈ l, Memory.readN t.mem.bytes x.1 x.2.2 = s.csRead m.cell x.2.1 x.2.2) ∧
        ∀ a, (∀ x ∈ l, a < x.1 ∨ x.1 + x.2.2 ≤ a) → Memory.read t.mem.bytes a = Memory.read s.mem.bytes a) ∧
      (∀ (r : MRegion) (p c cs : Nat), m.kind = .pageWrite r.index p c cs → s.mem.regions = [r] → m.clash = [] →
        let page := fun k => s.csRead m.cell (cs + 4096 * k) 4096
        ((∀ st, AMap.get r.drawn st 0 + ((List.range c).map fun k => r.lines (page k)).sum ≤ r.share) →
          ∃ r' ∈ t.mem.regions, ∀ k < c, AMap.find r'.map (p + k) =
            some ⟨false, false, if r.narrow then (narrowPage r.srcFmt (page k)).1 else page k,
              if r.narrow then (narrowPage r.srcFmt (page k)).2 else 0⟩) ∧
        (c = 1 → r.share < AMap.get r.drawn (s.pageStack r p) 0 + r.lines (page 0) →
          t.get R.memAllotFull = min (s.get R.memAllotFull + 1) (2 ^ R.memAllotFull.w - 1) ∧
          (r.fullRaised = false → t.eventSet 0x0304 pgMEM) ∧
          ∃ r' ∈ t.mem.regions, ∃ y, AMap.find r'.map p = some y ∧ y.lost = true)) ∧
      (∀ (r : MRegion) (p c cs : Nat), m.kind = .pageRead r.index p c cs [] → s.mem.regions = [r] → r.undef = false →
        let page := fun k => AMap.get r.map (p + k) ⟨false, false, List.replicate 4096 0, 0⟩
        ((∀ k < c, (page k).lost = false ∧ (page k).poison = false ∧ (page k).bytes.length = 4096) →
          ∀ k < c, t.csRead m.cell (cs + 4096 * k) 4096 = (page k).bytes) ∧
        (∀ a, s.actOfCell m.cell = some a → a.intermission = false → (∃ k < c, (page k).lost = true) →
          t.causeSet vPOISON ∧ t.eventSet 0x0302 pgMEM)) ∧
      (∀ r : MRegion, m.kind = .regionReset r.index → s.mem.regions = [r] → m.clash = [] →
        t.mem.regions = [{ r with map := [], drawn := [], loose := true, undef := false }])

/-- Remote accesses at their target and at their requester (R246): a write to Tiers 1 and 2 that need not wait lands, line by line, with
the poison of its lines; a refused access counts a window fault; lines that come back land in the cell store; and a refusal ends the
command with its flag and COMMAND. The payloads and the target's count are the model's readings (logs 24 and 55). -/
def Obligations.RemoteAccessesLandOrAreRefused : Prop :=
  (∀ (r : RemoteReq) (s : State), s.dataOn = true → s.checkAccess r.off r.len ≠ none →
    ∃ t, exec (.remoteAccessReceived r) s = .next t ∧
      t.get R.memWindowRange = min (s.get R.memWindowRange + 1) (2 ^ R.memWindowRange.w - 1) ∧ t.mem = s.mem) ∧
  (∀ (r : RemoteReq) (s : State), Canonical s → s.dataOn = true → r.write = true → r.data.length = r.len →
    s.checkAccess r.off r.len = none → tierOf r.off ≠ 3 → MemoryAtRest s → s.anyDown = false →
    ∃ t, exec (.remoteAccessReceived r) s = .next t ∧ Memory.readN t.mem.bytes r.off r.len = r.data ∧
      (∀ i < r.len / 64, (r.off / 64 + i ∈ t.mem.poison ↔ i ∈ r.poison)) ∧
      (∀ a, (a < r.off ∨ r.off + r.len ≤ a) → Memory.read t.mem.bytes a = Memory.read s.mem.bytes a) ∧ t.cells = s.cells) ∧
  (∀ (m : MoverOp) (off cs : Nat) (b : List Byte) (s : State), s.movers = [m] → m.landed = false →
    m.kind = .remoteRead off cs b.length → s.spoiledOp (.mover m.id) = false →
    ∃ t, exec (.remoteReplyReceived (m.id % 2 ^ 16) (.data b [])) s = .next t ∧ t.csRead m.cell cs b.length = b ∧
      t.movers = [{ m with landed := true }]) ∧
  (∀ (m : MoverOp) (off : Nat) (s : State) (a : ActiveAct), s.movers = [m] → m.landed = false → m.kind = .remoteWrite off →
    s.actOfCell m.cell = some a → a.intermission = false →
    ∃ t, exec (.remoteReplyReceived (m.id % 2 ^ 16) .refusedAtTarget) s = .next t ∧ t.movers = [] ∧ t.causeSet vCOMMAND ∧
      t.eventSet 0x0504 pgCOLL ∧ t.get R.collRefusedLast = 2)

/-! ## Collectives and point-to-point flits -/

/-- A communication command at the head of the idle queue of its act's group, with the layout its group has committed and
fields that R254 and R262 to R268 allow, is under way (R253, R254, R266). -/
def Obligations.CollectivesStart : Prop :=
  ∀ (g : GroupId) (tag : Word) (k : CommKind) (s : State) (a : ActiveAct), s.actOfGroup g = some a → s.dataOn = true →
    (s.group g).abandoned = false → (s.group g).run = none → (s.group g).held.head? = some tag → s.commInter g k = false →
    (∀ l, k.layout = some l → l = s.get (R.collGLayoutCommitted.at_ g)) → s.flagReg (R.collGDefValid.at_ g) = true →
    s.commFields g k = none → s.flagReg R.cmdTraceCtrlEn = false →
    (∀ f, k = .permute f → ∀ n < f.rounds, s.inBytes f n ≤ s.get (R.collGRoundKib.at_ g) * 1024) →
    let under := fun (t : State) => ∃ r, (t.group g).run = some r ∧ r.kind = k ∧ r.tag = tag ∧
      (t.group g).issued = (s.group g).issued + 1
    (∀ f, k = .reduceScatter f → ∃ t, exec (.reduceScatter g tag f) s = .next t ∧ under t) ∧
    (∀ f, k = .allReduce f → ∃ t, exec (.allReduce g tag f) s = .next t ∧ under t) ∧
    (∀ f, k = .allGather f → ∃ t, exec (.allGather g tag f) s = .next t ∧ under t) ∧
    (∀ f, k = .allToAll f → ∃ t, exec (.allToAll g tag f) s = .next t ∧ under t) ∧
    (∀ f, k = .permute f → ∃ t, exec (.permute g tag f) s = .next t ∧ under t)

/-- A command behind another, or behind one that is under way, does not issue; a WAIT at the head is held there until its flag is
reached, when the queue goes on (R253). A command whose LAYOUT is not the committed one is discarded: LAYOUT MISMATCH, COMMAND, its
FLAG_DONE at once (R266). One command at a time is the model's reading (log 35). -/
def Obligations.CommunicationQueuesRunInOrder : Prop :=
  (∀ (g : GroupId) (tag : Word) (fr : ReduceFields) (fg : GatherFields) (fa : A2aFields) (fp : PermuteFields)
    (fw : CommWaitFields) (s : State), (s.group g).run.isSome = true ∨ (s.group g).held.head? ≠ some tag →
    ∀ c ∈ [Instr.reduceScatter g tag fr, .allReduce g tag fr, .allGather g tag fg, .allToAll g tag fa, .permute g tag fp,
      .commWait g tag fw], exec c s = .next s.flush) ∧
  (∀ (g : GroupId) (tag : Word) (f : CommWaitFields) (s : State) (a : ActiveAct), s.actOfGroup g = some a →
    s.dataOn = true → (s.group g).abandoned = false → (s.group g).run = none → (s.group g).held.head? = some tag →
    s.flagReg (R.collGDefValid.at_ g) = true → bitAt a.desc.rows (f.flag.cell / 8) = true →
    ∃ t r w, exec (.commWait g tag f) s = .next t ∧ (t.group g).run = some r ∧ r.kind = .wait w ∧ w.flag = f.flag ∧
      w.target = f.target ∧ w.expires = s.expiry a f.timeout) ∧
  (∀ (g : GroupId) (cycle : Nat) (s : State) (r : CommRun) (w : WaitSt), (s.group g).run = some r → r.kind = .wait w →
    reached (s.flag w.flag).value w.target = true →
    ∃ t, exec (.waitComplete (.comm g) cycle) s = .next t ∧ (t.group g).run = none ∧ (t.group g).held = (s.group g).held) ∧
  (∀ (g : GroupId) (s : State) (r : CommRun) (w : WaitSt) (a : ActiveAct), (s.group g).run = some r → r.kind = .wait w →
    s.actOfGroup g = some a → w.expires ≤ s.cueNow + 1 →
    ∃ t, exec (.waitExpired (.comm g)) s = .next t ∧ (t.group g).run = none ∧ (t.group g).held = [] ∧ (t.group g).stream = [] ∧
      t.eventSet 0x0501 pgCOLL ∧ (a.intermission = false → t.causeSet vCOMMAND)) ∧
  (∀ (g : GroupId) (tag : Word) (f : ReduceFields) (s : State) (a : ActiveAct), s.actOfGroup g = some a → s.dataOn = true →
    a.intermission = false → (s.group g).abandoned = false → (s.group g).run = none → (s.group g).held.head? = some tag →
    f.layout ≠ s.get (R.collGLayoutCommitted.at_ g) →
    (∀ x ∈ (s.flag f.flagDone).changes, x.cycle ≤ (s.cell f.flagDone.cell).cycle) →
    ∃ t, exec (.allReduce g tag f) s = .next t ∧ (t.group g).run = none ∧ t.causeSet vCOMMAND ∧
      t.eventSet 0x0506 pgCOLL ∧ (t.flag f.flagDone).value = (s.flag f.flagDone).value + 1)

/-- The update rule of a REDUCE-SCATTER runs where a reduction completes (R278, R280, R283, R286). Where the group has one member, so
that its elements are the reduced gradient, and its moments are zero or not kept, each master weight of the share becomes what the
rule makes of the element, of the old weight and of the group's scalars of this step; no byte outside the master, the moments and
the working copy of the share changes; an element that is infinite or NaN is raised and sets the overflow cause. -/
def Obligations.NetUpdatesApplyTheBlockRule : Prop :=
  ∀ (g : GroupId) (tag : Word) (f : ReduceFields) (s : State) (a : ActiveAct) (x : UGroup) (idx e0 : Nat) (c : CellId) (at_ : Nat),
    s.dataOn = true → s.actOfGroup g = some a → a.intermission = false → (s.group g).abandoned = false →
    (s.group g).run = none → (s.group g).held.head? = some tag → (s.group g).early = [] → (s.group g).blocked = [] →
    s.members g = 1 → s.flagReg (R.collGDefValid.at_ g) = true → s.flagReg (R.collGDefAcc.at_ g) = false →
    f.layout = s.get (R.collGLayoutCommitted.at_ g) → f.src = .ranges [(c, at_, 4 * f.count)] → f.dst = none → f.ecc = [] →
    f.update = some (idx, e0) → s.commFields g (.reduceScatter f) = none → s.netCause g f.count (idx, e0) = 0 →
    s.ugroup idx = some x → frozenFor (some a) idx x = false →
    MemoryAtRest s → MemoryClean s → s.mem.permuted = [] → s.mem.wins = [] → (∀ y ∈ s.cells, y.2.wins = []) →
    (∀ w ∈ netWrites x e0 f.count, inTiers12 w.1 w.2 = true) →
    (netWrites x e0 f.count).Pairwise (fun (u v : Nat × Nat) => u.1 + u.2 ≤ v.1 ∨ v.1 + v.2 ≤ u.1) →
    ((s.scalarsFor idx x).first = true ∨ (x.hasM = false ∧ x.hasV = false)) →
    let grad := fun (i : Nat) => (toF32 (f32 (BitVec.ofNat 32 (leNat (s.csRead c (at_ + 4 * i) 4))))).1
    let old := fun (i : Nat) => BitVec.ofNat 32 (leNat (Memory.readN s.mem.bytes (x.master + 4 * (e0 + i)) 4))
    ∃ t, exec (.reduceScatter g tag f) s = .next t ∧
      (∀ i < f.count, Memory.readN t.mem.bytes (x.master + 4 * (e0 + i)) 4 =
        natLe 4 (blockRule x (s.scalarsFor idx x) (grad i) (old i) 0 0).1.toNat) ∧
      (∀ o, (∀ w ∈ netWrites x e0 f.count, o < w.1 ∨ w.1 + w.2 ≤ o) → Memory.read t.mem.bytes o = Memory.read s.mem.bytes o) ∧
      ((∃ i < f.count, (f32 (grad i)).isFin = false) → t.eventSet 0x0624 pgUPD ∧ t.causeSet vOVERFLOW) ∧
      ∃ r, (t.group g).run = some r ∧ r.phase = .landed

/-- Flits of a group at their port (R258, R259, R262, R263, R265, R267, R342): with no command under way those for this member wait in the
reserve; a piece of a reduction is added to this member's own elements in the accumulation format, and the sums are kept where the
ring ends or go on to the next member; a piece of a gather is kept where it belongs, lands at DST in the last stage; a
piece of an ALL-TO-ALL block for this rank stands at its place in its source's block, which lands when it is whole; one for another
rank is not kept; a finished bit is noted. How a flit names its rank and carries a finished bit is the model's choice (log 62). -/
def Obligations.CollectiveFlitsAreKeptOrTaken : Prop :=
  ∀ (p : PortId) (f : Flit) (s : State), s.dataOn = true → cwCrcOk f.hdr = true → s.portLive p = true →
    (s.port p).marked = [] → (s.group (flitGroup f)).abandoned = false →
    (flitKind f = 2 → (s.group (flitGroup f)).run = none → (flitRouted f = false ∨ flitRank f = s.ownRank (flitGroup f)) →
      ∃ t, exec (.collectiveFlitReceived p f) s = .next t ∧
        (t.group (flitGroup f)).early = (s.group (flitGroup f)).early ++ [(p.val, f)]) ∧
    (∀ r a, flitKind f = 2 → (s.group (flitGroup f)).run = some r → r.kind = .allToAll a → r.phase = .exchanging →
      (s.group (flitGroup f)).early = [] → flitRouted f = true → flitPermute f = false →
      flitRank f = s.ownRank (flitGroup f) → flitChunk f ∉ r.made →
      let m := AMap.put (AMap.get r.blocks (flitChunk f) []) (flitOffset f) (f.payload, flitPoison f)
      ∃ t r', exec (.collectiveFlitReceived p f) s = .next t ∧ (t.group (flitGroup f)).run = some r' ∧
        (t.group (flitGroup f)).early = [] ∧
        (wholeBlock (s.blockBytes (flitGroup f) a) m = false → AMap.get r'.blocks (flitChunk f) [] = m ∧ r'.made = r.made) ∧
        (wholeBlock (s.blockBytes (flitGroup f) a) m = true → r'.made = r.made ++ [flitChunk f])) ∧
    (∀ r : CommRun, flitKind f = 2 → flitRouted f = false → (s.group (flitGroup f)).run = some r →
      (s.group (flitGroup f)).early = [] → (s.group (flitGroup f)).blocked = [] → flitStage f = r.stage →
      r.stage < (s.stages (flitGroup f)).length → 2 ≤ s.get (R.collGDefVc.at_ (flitGroup f)) →
      s.get (R.collGDefVc.at_ (flitGroup f)) ≤ 5 →
      let g := flitGroup f
      let axis := (s.stages g).getD r.stage 0
      let n := s.axisSize axis
      let q := s.coord axis
      let k := flitChunk f
      let off := flitOffset f
      let l := unpackElems (s.wireFmt g r.kind) (flitPoison f) f.payload
      (∀ own, r.phase = .reducing → s.wireFmt g r.kind = s.accFmt g → r.upd = none → wantsFold r n q k off = true →
        presentAt r.input (k * (r.input.length / (2 * n)) + off) l.length = some own → r.out.length ≠ r.input.length / n →
        let sums := (l.zip own).map fun (x : CElem × CElem) =>
          (⟨BitVec.ofNat 32 (portAdd ((fmtType (s.accFmt g)).getD .F32) x.1.w.toNat x.2.w.toNat).1, x.1.po || x.2.po⟩ : CElem)
        let out := putElems r.out (k / n * (r.input.length / (2 * n)) + off) sums
        ((ringPos (k / n) n q = k % n ∧ out.length ≠ r.input.length / n →
            ∃ t r', exec (.collectiveFlitReceived p f) s = .next t ∧ (t.group g).run = some r' ∧ r'.out = out ∧
              (k, off) ∈ r'.folded ∧ (t.group g).early = []) ∧
          (ringPos (k / n) n q ≠ k % n →
            ∃ t r', exec (.collectiveFlitReceived p f) s = .next t ∧ (t.group g).run = some r' ∧ r'.out = r.out ∧
              (k, off) ∈ r'.folded ∧ ∃ e ∈ t.flitsOut g, flitChunk e.flit = k ∧ flitOffset e.flit = off ∧
                flitStage e.flit = r.stage ∧ e.flit.payload = packElems (s.accFmt g) sums))) ∧
      (∀ own, r.phase = .gathering → presentAt r.input 0 r.input.length = some own →
        (AMap.find r.out (q * (r.input.length / 2))).isSome = true → (AMap.find r.out (k * (r.input.length / 2) + off)).isNone = true →
        r.out.length ≠ n * r.input.length →
        let out := putElems r.out (k * (r.input.length / 2) + off) l
        out.length ≠ n * r.input.length →
        ∃ t r', exec (.collectiveFlitReceived p f) s = .next t ∧ (t.group g).run = some r' ∧ r'.out = out ∧
          (∀ c a, r.stage = 0 → r.kind.dst = some (.cell c a) → s.landFmt g r.kind = s.wireFmt g r.kind →
            fmtBlock (s.wireFmt g r.kind) = 0 → flitPoison f = false →
            let b := codesOf (s.wireFmt g r.kind) l
            t.csRead c (a + planeBytes (s.wireFmt g r.kind) (k * (r.input.length / 2) + off)) b.length = b))) ∧
    (flitKind f = 2 → flitRouted f = true → flitRank f ≠ s.ownRank (flitGroup f) →
      ∃ t, exec (.collectiveFlitReceived p f) s = .next t ∧ (t.group (flitGroup f)).run = (s.group (flitGroup f)).run ∧
        (t.group (flitGroup f)).early = (s.group (flitGroup f)).early) ∧
    (flitKind f = 9 →
      ∃ t, exec (.collectiveFlitReceived p f) s = .next t ∧ (t.group (flitGroup f)).run = (s.group (flitGroup f)).run ∧
        (t.group (flitGroup f)).doneBits = (s.group (flitGroup f)).doneBits ++ [(flitChunk f, flitRank f)])

/-- The flags of a collective (R256, R268): FLAG_DONE when everything has landed and been accepted, FLAG_PROGRESS for each 64 KiB that
has left the link buffers, FLAG_ARRIVE for each member, each one increment; a PERMUTE's next round when every member has finished
(R267). A group abandon word ends the group's commands of the act, and only marks the verdict where that act is over (R271). -/
def Obligations.CollectivesCountFlagsAndEndWhenAbandoned : Prop :=
  (∀ (g : GroupId) (s : State) (r : CommRun), (s.group g).run = some r →
    (∀ f, r.kind = .allReduce f → r.phase = .landed → s.accepted g = true → s.writesLanded g r = true →
      (∀ x ∈ (s.flag f.flagDone).changes, x.cycle ≤ (s.cell f.flagDone.cell).cycle) →
      ∃ t, exec (.collFlagDone g) s = .next t ∧ (t.group g).run = none ∧
        (t.flag f.flagDone).value = (s.flag f.flagDone).value + 1) ∧
    (∀ f, r.kind.flagProgress = some f →
      65536 * (r.progress + 1) + ((s.flitsIn g).map (·.share)).sum ≤ r.sentBytes →
      (∀ x ∈ (s.flag f).changes, x.cycle ≤ (s.cell f.cell).cycle) →
      ∃ t, exec (.collFlagProgress g) s = .next t ∧ (t.flag f).value = (s.flag f).value + 1 ∧
        (t.group g).run = some { r with progress := r.progress + 1 }) ∧
    (∀ f rank, r.kind.flagArrive = some f → rank < s.members g → r.arrived.contains rank = false →
      s.shareLanded g r rank = true → (∀ x ∈ (s.flag f).changes, x.cycle ≤ (s.cell f.cell).cycle) →
      ∃ t, exec (.collFlagArrive g rank) s = .next t ∧ (t.flag f).value = (s.flag f).value + 1 ∧
        (t.group g).run = some { r with arrived := r.arrived ++ [rank] }) ∧
    (∀ f, r.kind = .permute f → r.finished = true → s.allFinished g r.round = true →
      ∃ t r', exec (.permuteRoundDone g) s = .next t ∧ (t.group g).run = some r' ∧ r'.round = r.round + 1 ∧
        r'.kind = r.kind)) ∧
  (∀ (p : PortId) (w : CtlWord) (s : State) (g : Nat) (a : ActiveAct), s.dataOn = true → s.portLive p = true →
    cwCrcOk w = true → bitsOf w.w0.toNat 0 8 = 4 → s.positionOk w.w4.toNat = true → g < 16 → bitAt w.w3.toNat g = true →
    (s.group g).abandoned = false → s.actOfGroup g = some a →
    s.map.relayed.contains (abandonOf (cwWords w)) = false → s.sameInstance g (placeOf w.w4.toNat) = true →
    let cue := w.w5.toNat + 2 ^ 32 * w.w6.toNat
    (a.start ≤ cue → a.intermission = false →
      ∃ t, exec (.groupAbandonReceived p w) s = .next t ∧ (t.group g).abandoned = true ∧ (t.group g).run = none ∧
        (t.group g).held = [] ∧ (t.group g).early = [] ∧ t.eventSet 0x0502 pgCOLL ∧ t.causeSet vABANDON) ∧
    (cue < a.start →
      ∃ t, exec (.groupAbandonReceived p w) s = .next t ∧ (t.group g).abandoned = false ∧
        (t.group g).run = (s.group g).run ∧ t.causeSet vABANDON))

/-- A point-to-point flit (R244, R245, R342, R343, R350): its slot is taken once, also where its frame has counted it. At its own chip it
changes nothing but ports and outputs, and so on its way: it leaves on the port that the route to its chip and offset gives, with its
destination, source, offset, request and payload, or waits there for a credit, holding the slot it came in until it has left.
The 1 ms windows of port skew (R247), by direction: a window above the ratio adds one to those in a row, another starts again; the
tenth in a row of an armed direction is raised. Windows in a row are commands in a row (log 47). -/
def Obligations.PointToPointFlitsPassAndSkewIsCounted : Prop :=
  (∀ (p : PortId) (f : Flit) (s : State), s.dataOn = true → cwCrcOk f.hdr = true → s.portLive p = true →
    3 ≤ flitKind f → flitKind f ≤ 5 → flitVc f = 6 → (s.port p).pools.length = 20 →
    let came := fun (t : State) =>
      (((s.port p).pool 2).ahead = 0 → ((t.port p).pool 2).received = wrap32 (((s.port p).pool 2).received + 1)) ∧
      (((s.port p).pool 2).ahead ≠ 0 → ((t.port p).pool 2).received = ((s.port p).pool 2).received ∧
        ((t.port p).pool 2).ahead = ((s.port p).pool 2).ahead - 1)
    (s.chip = some (flitDest f) →
      ∃ t, exec (.p2pFlitReceived p f) s = .next t ∧ came t ∧ t = { s.recorded t with ports := t.ports }) ∧
    (∀ q, s.chip ≠ some (flitDest f) → (s.port p).marked = [] → s.route (flitDest f) (flitOffset f) = some q →
      ∃ t, exec (.p2pFlitReceived p f) s = .next t ∧ came t ∧ t = { s.recorded t with ports := t.ports } ∧
        ((⟨f, some (p.val, 2), false, 0⟩ ∈ (t.port q).txq) ∨
          ∃ g, Out.flit q g ∈ t.out ∧ (∃ e ∈ (t.port q).retry, e.2.flit = g) ∧ g.payload = f.payload ∧ flitKind g = flitKind f ∧
            flitVc g = 6 ∧ flitDest g = flitDest f ∧ flitSrc g = flitSrc f ∧ flitOffset g = flitOffset f ∧
            flitReqId g = flitReqId f ∧ flitLen g = flitLen f ∧ flitPoison g = flitPoison f ∧ cwCrcOk g.hdr = true)) ∧
    (s.chip ≠ some (flitDest f) → s.route (flitDest f) (flitOffset f) = none →
      ∃ t, exec (.p2pFlitReceived p f) s = .next t ∧ came t)) ∧
  (∀ (flits : List Nat) (capacity : Nat) (s : State) (d : Fin 6), s.dataOn = true → s.map.skewUp.length = 6 →
    s.map.skewDown.length = 6 →
    let l := (s.portsOf d).map fun p => flits.getD p 0
    let hot := decide (3 * l.sum < l.foldl max 0 * l.length) && (decide (capacity * l.length ≤ 64 * l.sum) && l.sum != 0)
    ∃ t, exec (.p2pSkewWindow flits capacity) s = .next t ∧
      t.map.skewUp.getD d 0 = (if hot then min (s.map.skewUp.getD d 0 + 1) 10 else 0) ∧
      (hot = true → 9 ≤ s.map.skewUp.getD d 0 → 10 ≤ s.map.skewDown.getD d 0 → t.eventSet 0x0505 pgCOLL))

/-! ## Scales and the Curtain -/

/-- The Curtain (R311, R313 to R316, R319, R367). At C the module's verdict is frozen and combined, with LINK for a torus port that
retrains then; a module with no trained direction decides at once, and commits when its own word carries no cause. Curtain and
confirm words on a torus port are combined until the decision they serve, and count as the word of the peer that sent them, on whatever
port they come. A peer's word that has not come counts as MISSING and is raised; D and D2 decide. Which words show that a peer is
there is the model's reading (log 38). -/
def Obligations.CurtainWordsAreCombinedAndDecided : Prop :=
  (∀ s : State, s.dataOn = true → s.outcomePending = true → s.commit.contributed = false →
    ∃ t, exec .curtainContribute s = .next t ∧ t.get R.commitVerdictOwn = s.verdictWord.toNat ∧ t.commit.contributed = true ∧
      (s.trainedDirs ≠ [] → t.commit.andF = s.commit.andF &&& s.verdictWord ∧
        t.commit.orF = s.commit.orF ||| s.verdictWord ||| (if s.torusRetrains then 1 <<< vLINK else 0) ∧
        t.commit.peerDirs = s.trainedDirs ∧ t.commit.decided = s.commit.decided) ∧
      (s.trainedDirs = [] → s.commit.andF = BitVec.allOnes 32 → s.commit.orF = 0 → s.commit.confAll = true →
        t.commit.outcome = some (bitAt s.verdictWord.toNat 0 && !s.torusRetrains) ∧
        (bitAt s.verdictWord.toNat 0 = true ↔ bitsOf s.verdictWord.toNat 1 10 = 0))) ∧
  (∀ (p : PortId) (w : CtlWord) (s : State), s.dataOn = true → s.portLive p = true → cwCrcOk w = true → s.allot p < 6 →
    s.outcomePending = true →
    let sent := fun (d : Nat) => (bitsOf w.w0.toNat 8 8 = 0 ∧ d = s.allot p) ∨
      (bitAt w.w0.toNat 30 = true ∧ d < 6 ∧ ∃ q ∈ s.portsOf d, s.flagReg (R.portPeerChipValid q) = true ∧
        s.get (R.portPeerChip q) = bitsOf w.w0.toNat 16 14)
    (bitsOf w.w0.toNat 0 8 = 2 → s.commit.decided = none →
      ∃ t, exec (.curtainWordReceived p w) s = .next t ∧ t.commit.andF = s.commit.andF &&& w.w3 ∧
        t.commit.orF = s.commit.orF ||| w.w4 ∧
        (∀ d, d ∈ t.commit.seenDirs ↔ d ∈ s.commit.seenDirs ∨ sent d) ∧
        t = { s.recorded t with commit := t.commit, ports := t.ports }) ∧
    (bitsOf w.w0.toNat 0 8 = 3 → s.commit.outcome = none →
      ∃ t, exec (.confirmWordReceived p w) s = .next t ∧ t.commit.confAll = (s.commit.confAll && bitAt w.w3.toNat 0) ∧
        t.commit.confAny = (s.commit.confAny || bitAt w.w4.toNat 0) ∧
        (∀ d, d ∈ t.commit.confDirs ↔ d ∈ s.commit.confDirs ∨ sent d) ∧
        t = { s.recorded t with commit := t.commit, ports := t.ports })) ∧
  (∀ (dir : Fin 6) (s : State) (p : Nat) (l : List Nat), s.dataOn = true → s.inExchange = true → s.outcomePending = true →
    dir.val ∉ s.commit.seenDirs → s.portsOf dir = p :: l →
    ∃ t, exec (.curtainMissingCheck dir) s = .next t ∧ t.commit.orF = s.commit.orF ||| 1 <<< vMISSING ∧
      t.get R.commitMissingLastPort = p ∧ t.eventSet 0x0602 pgCOMMIT) ∧
  (∀ s : State, s.dataOn = true → s.outcomePending = true → s.inExchange = true →
    ∃ t, exec .curtainDecide s = .next t ∧ t.get R.commitVerdictAnd = s.commit.andF.toNat ∧
      (s.commit.andF >>> 16 = s.commit.orF >>> 16 →
        t.commit.decided = some (bitAt s.commit.andF.toNat 0 && bitsOf s.commit.orF.toNat 1 10 == 0)) ∧
      (s.commit.andF >>> 16 ≠ s.commit.orF >>> 16 → t.commit.decided = some false ∧
        t.commit.orF.getLsbD vDISAGREE = true)) ∧
  (∀ (s : State) (ok : Bool), s.dataOn = true → s.outcomePending = true → s.commit.decided = some ok → s.commit.outcome = none →
    let c := ok && s.commit.confAll && s.commit.peerDirs.all s.commit.confDirs.contains
    ∃ t, exec .curtainFinalDecision s = .next t ∧ t.commit.outcome = some c ∧
      (ok = true → c = false → t.eventSet 0x0603 pgCOMMIT) ∧ t = { s.recorded t with commit := t.commit })

/-- The outcome boundary (R315): once the final decision is known, at a boundary from the Curtain act's deadline + 1 on whose cue was not
held, a commit switches every versioned range to its other copy and counts the step, a discard leaves the committed copies and the
count and is counted and raised; any other boundary leaves the outcome open. Every scale slot takes its outcome there (R190 to R197,
R201): on a commit the step's amax enters its ring and its exponent follows the ring's estimate under the ceiling, on a discard a
tensor-scaled traffic slot that overflowed is lowered. That no range is left out is the model's reading of R315 (log 39); an estimate of
a ring with an infinity and an amax beyond F32 are its choices (logs 17 and 98). -/
def Obligations.OutcomeSwitchesOrKeepsTheCommittedCopies : Prop :=
  (∀ (s : State) (j : JobSt) (end_ : Nat) (commit : Bool), s.dataOn = true → s.sheet.armed = false → s.job = some j →
    j.outcomeAt = some end_ → s.commit.outcome = some commit → end_ ≤ s.nextCue → s.heldNow = false →
    s.mem.resync = [] ∨ (s.mem.waiting = [] ∧ s.groups = []) →
    ∃ t, exec .cueBoundary s = .next t ∧
      t.mem.ranges = (if commit then s.mem.ranges.map (fun r => { r with sel := !r.sel }) else s.mem.ranges) ∧
      t.mem.marks = [] ∧ t.commit.contributed = false ∧ t.get R.commitOutcomeLast = (if commit then 1 else 2) ∧
      t.get2 R.commitOutcomeCueLo R.commitOutcomeCueHi = s.nextCue ∧
      (commit = false → t.eventSet 0x0601 pgCOMMIT) ∧
      t.stepCount = (if commit then (s.stepCount + 1) % 2 ^ 64 else s.stepCount) ∧
      (s.mem.resync = [] → commit = false → t.mem.bytes = s.mem.bytes) ∧
      (∀ (i : Nat) (x : Slot) (r : Recipe), s.scale.slots[i]? = some x → x.valid = true → s.scale.recipes[x.recipe]? = some r →
          let sr := AMap.get s.scale.step i SlotRec.empty
          ∃ y, t.scale.slots[i]? = some y ∧ y.valid = true ∧ y.recipe = x.recipe ∧ y.lastSeen = sr.seen ∧ y.lastOvf = sr.ovf ∧
            y.lastInf = sr.inf ∧ y.lastNan = sr.nan ∧ y.lastAmax = (if sr.seen then amaxWord sr.amax else 0) ∧
            (commit = true →
              y.ring = (if sr.seen then x.ring.set x.head (amaxWord sr.amax) else x.ring) ∧
              y.head = (if sr.seen then (x.head + 1) % 16 else x.head) ∧
              y.fill = (if sr.seen then min (x.fill + 1) 16 else x.fill) ∧ y.ceilLeft = x.ceilLeft - 1 ∧
              let base := if r.traffic = true ∧ y.fill = 16 then estimate r (s.scale.hOf r) y.ring else r.initExp
              y.scaleExp = max (-126) (min 127 (if x.ceilLeft ≤ 1 ∨ r.traffic = false then base else min base x.ceilExp))) ∧
            (commit = false → y.ring = x.ring ∧
              (sr.ovf = true → r.traffic = true → fmtTensorScaled r.fmt = true →
                y.scaleExp = max (-126) (x.scaleExp - s.scale.fOf r) ∧ y.ceilExp = y.scaleExp ∧ y.ceilLeft = 16 ∧
                y.lowerings = min (x.lowerings + 1) 65535 ∧
                (t.eventSet 0x0610 pgSCALE ∨ t.eventSet 0x0611 pgSCALE)) ∧
              (sr.ovf = true → r.traffic = false → y.scaleExp = x.scaleExp ∧ t.eventSet 0x0612 pgSCALE) ∧
              (sr.ovf = false → y.scaleExp = x.scaleExp ∧ y.ceilExp = x.ceilExp ∧ y.ceilLeft = x.ceilLeft)))) ∧
  (∀ (s : State) (j : JobSt) (end_ : Nat), s.dataOn = true → s.sheet.armed = false → s.job = some j → j.outcomeAt = some end_ →
    s.heldNow = true ∨ s.nextCue < end_ ∨ s.commit.outcome = none →
    ∃ t, exec .cueBoundary s = .next t ∧ t.mem.ranges = s.mem.ranges ∧ t.stepCount = s.stepCount ∧ t.mem.bytes = s.mem.bytes ∧
      t.get R.commitOutcomeLast = s.get R.commitOutcomeLast ∧ t.scale.slots = s.scale.slots)

/-! ## Memory -/

/-- A resynced page of the pending copy holds what the committed copy holds, and no longer waits (R306); a settled page no longer
waits (R309); the zero fill of a re-key ends (R215). Scale preparation ends within its time and the write-back advances WB_SEQ (R193,
R202); neither touches the stores. The instants at which copies are made are the model's choice (log 42). -/
def Obligations.BackgroundWorkEnds : Prop :=
  (∀ (page : Nat) (s : State) (r : VRange), Canonical s → page ∈ s.mem.resync → s.rangeOf (page * 4096) = some r →
    s.mem.waiting = [] → s.groups = [] →
    ∃ t, exec (.resyncPageDone page) s = .next t ∧ t.mem.resync = s.mem.resync.erase page ∧
      Memory.readN t.mem.bytes (r.pending + (page * 4096 - r.base)) 4096 =
        Memory.readN s.mem.bytes (r.committed + (page * 4096 - r.base)) 4096 ∧
      ∀ a, (a < r.pending + (page * 4096 - r.base) ∨ r.pending + (page * 4096 - r.base) + 4096 ≤ a) →
        Memory.read t.mem.bytes a = Memory.read s.mem.bytes a) ∧
  (∀ (page : Nat) (s : State), page ∈ s.mem.settle → s.mem.waiting = [] → s.groups = [] →
    ∃ t, exec (.pageSettlementDone page) s = .next t ∧ t.mem = { s.mem with settle := s.mem.settle.erase page }) ∧
  (∀ s : State, s.mem.waiting = [] → s.groups = [] →
    (s.mem.rekey1 = true → ∃ t, exec (.rekeyFillDone false) s = .next t ∧ t.mem = { s.mem with rekey1 := false }) ∧
    (s.mem.rekey2 = true → ∃ t, exec (.rekeyFillDone true) s = .next t ∧ t.mem = { s.mem with rekey2 := false })) ∧
  (∀ s : State, s.scale.preparing = true →
    ∃ t, exec .scalePreparationDone s = .next t ∧ t.scale = { s.scale with preparing := false, ready := true } ∧
      t = { s.recorded t with scale := t.scale }) ∧
  (∀ s : State, s.scale.wb = true →
    ∃ t, exec .scaleWritebackDone s = .next t ∧ t.scale = { s.scale with wb := false } ∧
      t.get R.scaleStatusWbSeq = (s.get R.scaleStatusWbSeq + 1) % 2 ^ 32 ∧ t.cells = s.cells ∧ t.cores = s.cores)

/-- Patrol scrub of a Tier 1 line (R219 to R222), in which the symbols in error are those found now, or those found before: up to three
are corrected and counted, four or five leave a poison mark unless a newer write stands, and no byte changes. What more than five
symbols do is left free (log 44). -/
def Obligations.ScrubCorrectsOrMarks : Prop :=
  ∀ (line found : Nat) (newer : Bool) (s : State), s.dataOn = true → tierOf (64 * line) = 1 → line ∉ s.mem.poison →
    let errs := if found = 0 then AMap.get s.mem.errs line 0 else found
    errs ≤ 5 →
    ∃ t, exec (.patrolScrub line found newer false) s = .next t ∧ t.mem.bytes = s.mem.bytes ∧
      (errs = 0 → t.mem = s.mem) ∧
      (1 ≤ errs → errs ≤ 3 →
        let k := (s.interleave (64 * line)).1
        t.get (R.stackCorrected k) = min (s.get (R.stackCorrected k) + 1) (2 ^ (R.stackCorrected k).w - 1) ∧
        t.mem.poison = s.mem.poison) ∧
      (4 ≤ errs → (line ∈ t.mem.poison ↔ newer = false) ∧ t.eventSet 0x0302 pgMEM ∧
        t.get R.memUncCount = min (s.get R.memUncCount + 1) (2 ^ R.memUncCount.w - 1))

/-- Occupancies are shown by channel and replays counted by far link (R217, R240), and a far link that loses lanes runs on four or is down (R223). Register commands
of page MEM: key locks and the first-error record (R214, R239). -/
def Obligations.MemoryRegistersReportAndCommand : Prop :=
  (∀ (w : ChannelWindow) (s : State), s.dataOn = true →
    ∃ t, exec (.channelOccupancyWindow w) s = .next t ∧
      (∀ i < 768, t.get ((R.stackOcc (i / 32)).at_ (i % 32)) = min (w.occ.getD i 0) 65535) ∧
      ∀ k < 16, t.get (R.stackLinkReplays (8 + k)) =
        if s.get (R.stackLinkLanes (8 + k)) = 0 then s.get (R.stackLinkReplays (8 + k))
        else min (s.get (R.stackLinkReplays (8 + k)) + w.replays.getD k 0) (2 ^ (R.stackLinkReplays (8 + k)).w - 1)) ∧
  (∀ (stack : FarId) (loss : FarLoss) (s : State), s.dataOn = true → s.get (R.stackLinkLanes (8 + stack)) = 8 →
    ∃ t, exec (.farLinkLaneFail stack loss) s = .next t ∧
      t.get (R.stackLinkLanes (8 + stack)) = (if loss.fourRun then 4 else 0) ∧
      t.get (R.stackLinkReplays (8 + stack)) =
        min (s.get (R.stackLinkReplays (8 + stack)) + loss.replays) (2 ^ (R.stackLinkReplays (8 + stack)).w - 1) ∧
      t.eventSet (if loss.fourRun then 0x0307 else 0x0308) (pgSTACK (8 + stack)) ∧ t = s.recorded t) ∧
  (∀ (path : Path) (s : State), s.reaches path 5 →
    (∃ t, exec (.ilLock1 path) s = .next t ∧ t.get R.memIlStatusLocked1 = 1 ∧ t = s.recorded t ∧
      SameWords [R.memIlStatusLocked1.addr] s t) ∧
    (∃ t, exec (.ilLock2 path) s = .next t ∧ t.get R.memIlStatusLocked2 = 1 ∧ t = s.recorded t ∧
      SameWords [R.memIlStatusLocked2.addr] s t) ∧
    (∃ t, exec (.uncClear path) s = .next t ∧ t.get R.memUncFirstValid = 0 ∧ t = s.recorded t ∧
      SameWords [R.memUncFirstValid.addr] s t))

/-- Snapshots (R234 to R237): arming takes a list that passes every check and fails with its cause otherwise, starting streams it, a
link that is down fails it, ABORT and the end leave their states. The image leaves whole at its start, and its bytes count as they are
put out, by the model's choice (logs 43 and 80). -/
def Obligations.SnapshotsArmStreamAndEnd : Prop :=
  (∀ (path : Path) (s : State), s.reaches path 5 → s.streaming = false →
    let c := s.snapCause (s.flagReg R.commitCkptCtrlOnCommit)
    ∃ t, exec (.snapArm path) s = .next t ∧
      (c = 0 → t.get R.memSnapStatusState = 1 ∧ t.mem.snap = s.snapList ∧ t.mem.bytes = s.mem.bytes) ∧
      (c ≠ 0 → t.get R.memSnapStatusState = 4 ∧ t.get R.memSnapStatusCause = c ∧ t.eventSet 0x030A pgMEM ∧
        t.mem.snap = s.mem.snap)) ∧
  (∀ (path : Path) (s : State), s.reaches path 5 → (s.get R.memSnapStatusState = 1 ∨ s.get R.memSnapStatusState = 2) →
    ∃ t, exec (.snapAbort path) s = .next t ∧ t.get R.memSnapStatusState = 5) ∧
  (∀ (ecc : EccErrs) (s : State), s.dataOn = true → s.snapDue = true →
    ∃ t, exec (.snapshotStart ecc) s = .next t ∧ t.mem.bytes = s.mem.bytes ∧
      (s.get R.hostLinkRate ≠ 0 → t.get R.memSnapStatusState = 2 ∧
        ((s.mem.snap.map (·.len)).sum < 2 ^ 40 →
          t.get2 R.memSnapBytesLo R.memSnapBytesHi = (s.mem.snap.map (·.len)).sum)) ∧
      (s.get R.hostLinkRate = 0 → t.get R.memSnapStatusState = 4 ∧ t.get R.memSnapStatusCause = 5)) ∧
  (∀ s : State, s.streaming = true →
    ∃ t, exec .snapshotDone s = .next t ∧ t.get R.memSnapStatusState = 3 ∧ t.eventSet 0x0309 pgMEM ∧ t = s.recorded t)

/-! ## Links -/

/-- Frames at an up port on which no lane is lost by them (R334, R340): one that fails a check is counted and answered with a NAK, the
next in number is taken and acknowledged, another number is not taken again. -/
def Obligations.FramesAreTakenInOrder : Prop :=
  ∀ (p : PortId) (f : Frame) (s : State), s.dataOn = true → s.portIsUp p = true → ((s.port p).watch f).1 = none →
    let good := frameHdrOk f && f.flits.all fun y => cwCrcOk y.hdr
    ∃ t, exec (.frameReceived p f) s = .next t ∧
      (good = false → (t.port p).nextRx = (s.port p).nextRx ∧ (t.port p).nakSent = true ∧
        t.get (R.portHdrCrc p) = min (s.get (R.portHdrCrc p) + 1) (2 ^ (R.portHdrCrc p).w - 1) ∧
        Out.ack p (s.port p).lastGood true ∈ t.out ∧ t = { s.recorded t with ports := t.ports }) ∧
      (good = true → frameNumber f = (s.port p).nextRx → (t.port p).nextRx = wrap32 ((s.port p).nextRx + 1) ∧
        (t.port p).nakSent = false) ∧
      (good = true → frameNumber f ≠ (s.port p).nextRx → (t.port p).nextRx = (s.port p).nextRx ∧
        t = { s.recorded t with ports := t.ports })

/-- A ledger that agrees changes nothing; one that does not is a credit fault, counted, raised, with LINK, and begins a
reinitialisation (R345, R346), which retrains the port when it does not end in time, and ends with the peer's free slots as
credits. What the counts start again from is the model's reading (log 49). -/
def Obligations.CreditFaultsAreFoundAndRepaired : Prop :=
  (∀ (p : PortId) (l : Ledger) (s : State), s.dataOn = true → s.portIsUp p = true → (s.port p).reinit = false →
    ∃ t, exec (.ledgerFlitReceived p l) s = .next t ∧
      ((s.port p).checkLedger l = none → t.ports = s.ports ∧ t.commit = s.commit) ∧
      (∀ q c, (s.port p).checkLedger l = some (q, c) → (t.port p).reinit = true ∧ t.eventSet 0x0403 (pgPORT p) ∧
        t.get (R.portCreditFaults p) = min (s.get (R.portCreditFaults p) + 1) (2 ^ (R.portCreditFaults p).w - 1) ∧
        (s.inExchange = false → t.causeSet vLINK))) ∧
  (∀ (p : PortId) (s : State), s.portIsUp p = true → (s.port p).reinit = true →
    ∃ t, exec (.creditReinitTimeout p) s = .next t ∧ t.get (R.portStateState p) = 3 ∧ (t.port p).phase = 1 ∧
      (t.port p).reinit = false) ∧
  (∀ (p : PortId) (free : List Nat) (lastGood : Nat) (s : State), s.dataOn = true → s.portIsUp p = true →
    ∃ t, exec (.laneCmdCreditReinit p free lastGood) s = .next t ∧ (t.port p).reinit = false ∧
      ((s.port p).reinit = true → (s.port p).retry = [] → (s.port p).txq = [] → (s.port p).ledgerDue = false →
        (s.port p).pools.length = 20 → ∀ q < 20, ((t.port p).pool q).avail = free.getD q 0 ∧ ((t.port p).pool q).credIn = 0))

/-- A swap from end to end (R360, R361): a lane that meets a trigger has the understudy trained for it, OP 1 asks the transmitting end for it, OP 2 (once it qualifies
over 1 ms, R354) mirrors the lane, OP 3 announces the switch, and from the switch frame the lane runs on the understudy. Readings of the sequence are in
log 50. -/
def Obligations.SwapsRunToTheirSwitch : Prop :=
  ∀ (p : PortId) (s : State), s.dataOn = true → s.portIsUp p = true →
    (∀ (lane : LaneId) (u : Nat) (d : Dir), ((s.port p).dir d).swap = .none → ((s.port p).dir d).narrow = false →
      ((s.port p).dir d).spare = some u → ((s.port p).dir d).lanes.getD lane .failed = .active →
      ((s.port p).mons.getD lane LaneMon.empty).triggered d = true →
      ∃ t, exec (.understudyTrigger p d [lane]) s = .next t ∧ ((t.port p).dir d).swap = .training ∧
        ((t.port p).dir d).lanes = ((s.port p).dir d).lanes.set u .training ∧ ((t.port p).dir d).own = true) ∧
    (∀ (k : LogicalId) (u : Nat), (s.port p).tx.swap = .none → (s.port p).tx.narrow = false → (s.port p).tx.spare = some u →
      ∃ t, exec (.laneCmdRequest p k) s = .next t ∧ (t.port p).tx.swap = .training ∧ (t.port p).tx.target = k ∧
        (t.port p).tx.lanes = (s.port p).tx.lanes.set u .training ∧ Out.trainLane p u ∈ t.out) ∧
    (∀ (k : LogicalId) (u : Nat), (s.port p).tx.swap = .training →
      (s.port p).tx.lanes.findIdx? (fun l => decide (l = .training)) = some u →
      ∃ t, exec (.laneCmdUnderstudyLocked p k) s = .next t ∧ (t.port p).tx.swap = .mirroring ∧
        Out.mirrorLane p (s.port p).tx.target u ∈ t.out) ∧
    (∀ (k : LogicalId) (n : Nat), (s.port p).tx.swap = .mirroring → (s.port p).reinit = false →
      ∃ t, exec (.laneCmdMirrorVerified p k n) s = .next t ∧ (t.port p).tx.swap = .switching ∧
        (t.port p).tx.switchAt = some (wrap32 ((s.port p).nextTx + 16))) ∧
    (∀ (k : LogicalId) (u : Nat) (q : LaneQual),
      laneOk 1 q ((s.port p).mons.getD u LaneMon.empty).peerBol = true →
      ((s.port p).rx.swap = .training ∧ (s.port p).rx.lanes.findIdx? (fun l => decide (l = .training)) = some u) ∨
        ((s.port p).rx.swap = .none ∧ (s.port p).rx.spare = some u) →
      ∃ t, exec (.understudyQualifyDone p ⟨k, true, q⟩) s = .next t ∧ (t.port p).rx.swap = .mirroring ∧
        (t.port p).rx.target = k ∧ (t.port p).rx.lanes = (s.port p).rx.lanes.set u .training) ∧
    ((s.port p).rx.swap = .mirroring →
      ∃ t, exec (.mirrorCompareDone p true) s = .next t ∧ (t.port p).rx.swap = .switching) ∧
    (∀ (k : LogicalId) (frame u : Nat), (s.port p).tx.switchAt = some frame → (s.port p).tx.target = k →
      (s.port p).tx.swap = .switching → (s.port p).tx.narrow = false → (s.port p).tx.later = [] →
      (s.port p).tx.lanes.findIdx? (fun l => decide (l = .training)) = some u →
      ∃ t, exec (.laneSwitch p .tx frame k false) s = .next t ∧ (t.port p).tx.map = (s.port p).tx.map.set k u ∧
        (t.port p).tx.lanes = ((s.port p).tx.lanes.set ((s.port p).tx.map.getD k 9) .retired).set u .active ∧
        (t.port p).tx.swap = .none ∧ t.eventSet 0x0401 (pgPORT p) ∧
        t.get (R.portSwaps p) = min (s.get (R.portSwaps p) + 1) (2 ^ (R.portSwaps p).w - 1))

/-- A comparison that fails tells nothing to the transmitting end (R362), which times out; an understudy that fails is marked and raised,
at the transmitting end and at the other by its word (R362); a narrowing that is asked for is announced (R363). A lane lost on a live port (R363 to R365): its understudy takes its place and the port retrains;
on a port that runs on seven lanes the port goes down. Readings of the sequence are in log 50. -/
def Obligations.LanesFailNarrowAndAreLost : Prop :=
  (∀ (p : PortId) (s : State) (u : Nat), s.dataOn = true → s.portIsUp p = true →
    (∃ t, exec (.mirrorCompareDone p false) s = .next t ∧ t.ports = s.ports ∧ t = s.recorded t ∧ SameWords [] s t) ∧
    ((s.port p).tx.lanes.findIdx? (fun l => decide (l = .training)) = some u →
      ((s.port p).tx.swap = .training ∨ (s.port p).tx.swap = .mirroring) →
      ∃ t, exec (.understudyTimeout p) s = .next t ∧ (t.port p).tx.lanes.getD u .active = .failed ∧
        t.eventSet 0x0406 (pgPORT p)) ∧
    ((s.port p).rx.lanes.findIdx? (fun l => decide (l = .training)) = some u →
      ∃ t, exec (.laneCmdUnderstudyFailed p) s = .next t ∧ (t.port p).rx.lanes.getD u .active = .failed ∧
        t.eventSet 0x0406 (pgPORT p)) ∧
    (∀ (k : LogicalId) (n : Nat), (s.port p).tx.narrow = false → (s.port p).tx.swap = .none → (s.port p).reinit = false →
      ∃ t, exec (.laneCmdNarrowRequest p k n) s = .next t ∧ (t.port p).tx.swap = .narrowing ∧ (t.port p).tx.target = k ∧
        (t.port p).tx.switchAt = some (wrap32 ((s.port p).nextTx + 16)))) ∧
  (∀ (p : PortId) (d : Dir) (lane : LaneId) (s : State), s.dataOn = true → s.portLive p = true →
    ((s.port p).dir d).lanes.getD lane .failed = .active →
    ∃ t, exec (.laneLost p d lane) s = .next t ∧
      (((s.port p).dir d).narrow = false → t.get (R.portStateState p) = 3 ∧
        ∀ u, ((s.port p).dir d).understudy = some u →
          ((t.port p).dir d).map = ((s.port p).dir d).map.set (((s.port p).dir d).logicalOf lane) u) ∧
      (((s.port p).dir d).narrow = true → t.get (R.portStateState p) = 4 ∧ t.eventSet 0x0404 (pgPORT p)))

/-- Software trains, retrains and darkens ports (R353, R357): one, or every one. What frames do that 1 ms of darkening leaves unanswered
is in log 75. -/
def Obligations.PortsTrainAndGoDark : Prop :=
  (∀ (path : Path) (p : PortId) (s : State), s.reaches path (0x300 + p) →
    ((s.get (R.portStateState p) = 0 ∨ s.get (R.portStateState p) = 4 ∨ s.get (R.portStateState p) = 5) →
      s.cage p = 1 →
      ∃ t, exec (.portTrain path p) s = .next t ∧ t.get (R.portStateState p) = 1 ∧ (t.port p).phase = 1 ∧
        (t.port p).nextRx = 0 ∧ (t.port p).nextTx = 0 ∧ (t.port p).retry = []) ∧
    (s.loaded = false → s.portIsUp p = true →
      ∃ t, exec (.portRetrain path p) s = .next t ∧ t.get (R.portStateState p) = 3 ∧ (t.port p).phase = 1) ∧
    (∃ t, exec (.portDark path p) s = .next t ∧
      (s.portLive p = true → (t.port p).quiesce = true ∧ t.get (R.portStateState p) = s.get (R.portStateState p)) ∧
      (s.portLive p = false → t.get (R.portStateState p) = 5))) ∧
  (∀ (path : Path) (s : State), s.reaches path 9 →
    (∃ t, exec (.linkTrain path) s = .next t ∧ ∀ p < 32,
      (s.get (R.portStateState p) = 0 ∨ s.get (R.portStateState p) = 4 ∨ s.get (R.portStateState p) = 5) →
      s.cage p = 1 → t.get (R.portStateState p) = 1) ∧
    (∃ t, exec (.linkDarkAll path) s = .next t ∧ ∀ p < 32,
      (s.portLive p = true → (t.port p).quiesce = true) ∧ (s.portLive p = false → t.get (R.portStateState p) = 5))) ∧
  (∀ (p : PortId) (s : State), (s.port p).quiesce = true → s.portLive p = true →
    ∃ t, exec (.darkQuiesceDone p) s = .next t ∧ t.get (R.portStateState p) = 5 ∧ (t.port p).quiesce = false ∧
      Out.lasers p false ∈ t.out)

/-- Training phases of a port that trains or retrains, the lanes they choose (R354), the peer and a miswired port (R355), their failure,
what the peer tells, and pluggables (R353 to R356, R365, R490). Readings of a failed training are in log 49. -/
def Obligations.TrainingAndPluggables : Prop :=
  (∀ (p : PortId) (r : TrainResult) (s : State), s.start.powered = true →
    s.get (R.portStateState p) = 1 ∨ s.get (R.portStateState p) = 3 →
    ((s.port p).phase = 1 ∨ (s.port p).phase = 2 ∨ (s.port p).phase = 3 →
      ∃ t, exec (.trainingPhaseDone p r) s = .next t ∧ (t.port p).phase = (s.port p).phase + 1 ∧
        t.get (R.portStateState p) = s.get (R.portStateState p)) ∧
    (∀ rx tx : DirSt, (s.port p).phase = 4 →
      (s.port p).rx.choose (qualifying r.rx fun i => r.peerBol.getD i 0) = some rx →
      (s.port p).tx.choose (qualifying r.tx fun i => s.get ((R.portLaneTxBiasBol p).at_ i)) = some tx →
      ∃ t, exec (.trainingPhaseDone p r) s = .next t ∧ (t.port p).rx = rx ∧ (t.port p).tx = tx ∧ (t.port p).phase = 5) ∧
    ((s.port p).phase = 4 →
      (s.port p).rx.choose (qualifying r.rx fun i => r.peerBol.getD i 0) = none ∨
        (s.port p).tx.choose (qualifying r.tx fun i => s.get ((R.portLaneTxBiasBol p).at_ i)) = none →
      ∃ t, exec (.trainingPhaseDone p r) s = .next t ∧ t.ports = s.ports) ∧
    ((s.port p).phase = 5 → cwCrcOk r.peer = true →
      (bitsOf r.peer.w0.toNat 0 8 = 6 → bitsOf r.peer.w5.toNat 5 4 < 8 →
        let id := r.peer.w3.toNat + 2 ^ 32 * r.peer.w4.toNat
        let mates := fun (q : Nat) => q < 32 ∧ q ≠ p ∧ s.portIsUp q = true ∧ s.allot q = s.allot p
        (bitsOf r.peer.w5.toNat 5 4 = opposite (s.allot p) →
          (s.allot p < 6 → ∀ q, mates q → s.get2 (R.portPeerIdLo q) (R.portPeerIdHi q) = id) →
          ∃ t, exec (.trainingPhaseDone p r) s = .next t ∧ (t.port p).phase = 6 ∧
            t.get2 (R.portPeerIdLo p) (R.portPeerIdHi p) = id) ∧
        (bitsOf r.peer.w5.toNat 5 4 ≠ opposite (s.allot p) ∨
            (s.allot p < 6 ∧ (∃ q, mates q) ∧ ∀ q, mates q → s.get2 (R.portPeerIdLo q) (R.portPeerIdHi q) ≠ id) →
          ∃ t, exec (.trainingPhaseDone p r) s = .next t ∧ (t.port p).phase = 5 ∧ t.eventSet 0x040A (pgPORT p))) ∧
      (bitsOf r.peer.w0.toNat 0 8 ≠ 6 ∨ 8 ≤ bitsOf r.peer.w5.toNat 5 4 →
        ∃ t, exec (.trainingPhaseDone p r) s = .next t ∧ t.ports = s.ports ∧
          t.get (R.portCwInvalid p) = min (s.get (R.portCwInvalid p) + 1) (2 ^ (R.portCwInvalid p).w - 1))) ∧
    ((s.port p).phase = 6 →
      ∃ t, exec (.trainingPhaseDone p r) s = .next t ∧ (t.port p).phase = 7) ∧
    ((s.port p).phase = 7 →
      ∃ t, exec (.trainingPhaseDone p r) s = .next t ∧ (t.port p).phase = 0 ∧ t.get (R.portStateState p) = 2 ∧
        (s.get (R.portStateState p) = 3 → t.eventSet 0x0405 (pgPORT p) ∧
          t.get (R.portRetrains p) = min (s.get (R.portRetrains p) + 1) (2 ^ (R.portRetrains p).w - 1)))) ∧
  (∀ (p : PortId) (s : State), s.start.powered = true → (s.port p).phase < 8 →
    (s.get (R.portStateState p) = 1 →
      ∃ t, exec (.trainingFailed p) s = .next t ∧ t.get (R.portStateState p) = 0 ∧
        t.get (R.portStateFailPhase p) = (s.port p).phase ∧ t.eventSet 0x0409 (pgPORT p)) ∧
    (s.get (R.portStateState p) = 3 →
      ∃ t, exec (.trainingFailed p) s = .next t ∧ t.get (R.portStateState p) = 4 ∧
        t.get (R.portStateFailPhase p) = (s.port p).phase ∧ t.eventSet 0x0409 (pgPORT p) ∧ t.eventSet 0x0404 (pgPORT p))) ∧
  (∀ (p : PortId) (w : CtlWord) (s : State), s.dataOn = true → s.portLive p = true → cwCrcOk w = true →
    bitsOf w.w0.toNat 0 8 = 6 → bitsOf w.w5.toNat 5 4 < 8 →
    ∃ t, exec (.peerInfoReceived p w) s = .next t ∧
      t.get2 (R.portPeerIdLo p) (R.portPeerIdHi p) = w.w3.toNat + 2 ^ 32 * w.w4.toNat ∧
      t.get (R.portPeerCode p) = bitsOf w.w5.toNat 5 4 ∧ t.get (R.portPeerChip p) = bitsOf w.w5.toNat 9 14 ∧
      t = s.recorded t) ∧
  (∀ (p : PortId) (s : State), s.start.powered = true →
    (∀ page : CalPage, s.portLive p = false →
      ∃ t, exec (.pluggableInserted p page) s = .next t ∧ t.cage p = page.code % 4 ∧ t.get (R.portStateState p) = 0 ∧
        (∀ l < 9, t.get ((R.portLaneTxBiasBol p).at_ l) = page.biasBol.getD l 0 % 2 ^ 16) ∧
        t.eventSet 0x040C (pgPORT p)) ∧
    (∃ t, exec (.pluggableRemoved p) s = .next t ∧ t.cage p = 0 ∧
      (s.portIsUp p = true → t.get (R.portStateState p) = 4 ∧ t.eventSet 0x0404 (pgPORT p))))

/-- Optical monitors (R358, R359): a reading in range joins the last 16, the registers show their mean; the peer's word is kept; lanes
are classified by the first row that holds. -/
def Obligations.MonitorsAreAveragedAndClassified : Prop :=
  ∀ (p : PortId) (s : State), s.dataOn = true → s.portLive p = true → (s.port p).mons.length = 9 →
    (∀ (r : List TxReading), ∃ t, exec (.monitorSend p r) s = .next t ∧ ∀ l < 9, l < r.length →
      let m := (s.port p).mons.getD l LaneMon.empty
      let x := r.getD l default
      t.get ((R.portLaneTxBias p).at_ l) =
        unsignedOf 16 (meanOf (if Config.monRangeOk 0 x.bias then pushSample m.bias x.bias else m.bias))) ∧
    (∀ (w : CtlWord), cwCrcOk w = true → bitsOf w.w0.toNat 0 8 = 7 → bitsOf w.w3.toNat 0 4 ≤ 8 →
      ∃ t, exec (.monitorWordReceived p w) s = .next t ∧ (t.port p).stale = false ∧
        ((t.port p).mons.getD (bitsOf w.w3.toNat 0 4) LaneMon.empty).peer =
          ⟨bitsOf w.w3.toNat 16 16, signedOf 16 (bitsOf w.w4.toNat 0 16), signedOf 16 (bitsOf w.w4.toNat 16 16)⟩) ∧
    (∃ t, exec (.monitorStale p) s = .next t ∧ (t.port p).stale = true ∧ t = { s.recorded t with ports := t.ports }) ∧
    (∀ (r : List RxReading), ∃ t, exec (.laneClassify p r) s = .next t ∧ ∀ l < 9, l < r.length →
      let m := (s.port p).mons.getD l LaneMon.empty
      let x := r.getD l default
      let o := if Config.monRangeOk 3 x.rxOma then pushSample m.oma x.rxOma else m.oma
      let c := laneClass { m with oma := o } (s.port p).stale (m.peer.modOma - meanOf o)
        (signedOf 16 (s.get ((R.portLanePathLossBol p).at_ l))) (meanOf o + 600) x.corrBits
      t.get ((R.portLaneFaultClass p).at_ l) = c ∧
      (s.get ((R.portLaneFaultClass p).at_ l) = 0 → c ≠ 0 → t.eventSet 0x0408 (pgPORT p)))

/-! ## Power, clock and heat -/

/-- The estimate, the line and the cap (R381 to R386): the line moves by the slew limit at most toward the level asked for, work above it
is limited; the estimate is the work and the staged power, which never exceeds what the line and the cap leave, stays within what
the clock allows but for the slew limit, and keeps the estimate within the slew limit below the line; above the cap limit 1 falls; a
comparison in range moves the gain by 2 % at most; sixteen that are not cut the cap. What work above the line takes, the rounding and
which of these bounds yields are the model's choices (logs 46, 79 and 93). -/
def Obligations.PowerIsEstimatedAndCapped : Prop :=
  (∀ (raw current : Nat) (s : State), s.start.powered = true →
    let want := min (raw * s.get R.pwrCalGain / 4096) 8191
    let slew := s.get R.pwrSlewWPerUs
    let line := if s.slewExempt ∧ want < s.pwr.line then want else approach s.pwr.line (s.lineGoal want) slew
    let work := min want (line + slew)
    ∃ t, exec (.powerEstimateTick raw current) s = .next t ∧ t.pwr.line = line ∧
      (t.pwr.limiting = true ↔ line < want ∨ 5800 ≤ current) ∧
      t.get R.pwrEstW = min (work + t.get R.pwrStageW) 8191 ∧ t.get R.pwrStageW ≤ line - work ∧
      t.get R.pwrStageW ≤ s.effectiveCap - work ∧ t.get R.pwrStageW ≤ max (s.get R.pwrClockMhz) (line - slew - work) ∧
      (s.slewExempt = false → line ≤ s.effectiveCap → line ≤ t.get R.pwrEstW + slew) ∧
      (s.effectiveCap < t.get R.pwrEstW → t.pwr.capLimit = max 540 (min s.pwr.capLimit s.opNow - 10)) ∧
      (t.get R.pwrEstW + s.get R.pwrSlewWPerUs < s.get R.pwrEstW →
        t.get R.pwrFallExcessUs = min (s.get R.pwrFallExcessUs + 1) (2 ^ 32 - 1)) ∧
      t = { s.recorded t with pwr := t.pwr, free := t.free }) ∧
  (∀ (measured vin iin rawMean : Nat) (s : State), s.start.powered = true →
    ∃ t, exec (.calibrationTick measured vin iin rawMean) s = .next t ∧
      (5000 ≤ vin → vin ≤ 8500 → iin ≤ 7000 →
        t.get R.pwrMeasW = min measured 8191 ∧ t.get R.pwrVin = vin ∧ t.get R.pwrIin = iin ∧ t.pwr.badCals = 0 ∧
        t.pwr.capCut = false ∧
        (0 < rawMean → t.get R.pwrCalGain =
          approach (s.get R.pwrCalGain) (max 3277 (min 5120 (measured * 4096 / rawMean))) (s.get R.pwrCalGain * 2 / 100))) ∧
      (vin < 5000 ∨ 8500 < vin ∨ 7000 < iin →
        t.pwr.badCals = s.pwr.badCals + 1 ∧ SameWords [] s t ∧ t = { s.recorded t with pwr := t.pwr })) ∧
  (∀ s : State, s.start.powered = true → 16 ≤ s.pwr.badCals → s.pwr.capCut = false →
    ∃ t, exec .calibrationLost s = .next t ∧ t.pwr = { s.pwr with capCut := true } ∧ t.eventSet 0x0707 pgPWR ∧
      t = { s.recorded t with pwr := t.pwr }) ∧
  (∀ (path : Path) (v : Word) (s : State), s.reaches path R.pwrCapW.page →
    let c := max 1200 (min capBound (v.toNat % 4096))
    ∃ t, exec (.capWrite path v) s = .next t ∧ t.get R.pwrCapW = c ∧
      (t.get R.pwrCapClamped = 1 ↔ c ≠ v.toNat % 4096) ∧ SameWords [R.pwrCapW.addr] s t ∧ t = s.recorded t) ∧
  (∀ (s : State) (d : DueAct), s.dataOn = true → s.nextDue = some d → s.leading = false →
    (s.cue.boundaryTime.toNat : Int) + s.untilCue (s.startOf d) - s.rampLead d.desc.phase ≤ s.time.toNat →
    ∃ t, exec .rampLeadStart s = .next t ∧
      t.pwr = { s.pwr with lead := true, leadAct := (d.desc.act, d.base), leadStay := false, phase := d.desc.phase } ∧
      t = { s.recorded t with pwr := t.pwr })

/-- The clock moves toward the lowest limit by 10 MHz at most (R375, R376), up only when the voltages are in place, a hold that recovers by
one step with it (R389); droop stretches and counts (R387); a replan sets ageing offsets that differ by 5 mV at most, toward what
their domains need, and its test patterns (R379, R380). Readings come with the commands; how the voltages move with each step, with a
rise held back until they are in place, and the load of the test patterns are the model's choices (logs 46, 47, 79 and 82). -/
def Obligations.ClockFollowsItsLimitsAndAgeingIsReplanned : Prop :=
  (∀ s : State, s.dieOn = true → s.get R.pwrClockMhz ≠ 0 →
    ∃ t, exec .clockStep s = .next t ∧
      (s.pwr.recovering = false → (lowest s.clockLimits).1 < 2 ^ R.pwrClockMhz.w →
        let m := (lowest s.clockLimits).1
        let old := s.get R.pwrClockMhz
        t.get R.pwrClockMhz =
          (if old < m then (if (s.moveVolts (min (old + 10) m) 2).voltsReach (min (old + 10) m) then min (old + 10) m else old)
            else max (old - 10) m) ∧
        t.pwr.volts = (s.moveVolts (if old < m then min (old + 10) m else max (old - 10) m) 2).pwr.volts ∧
        t.get R.pwrClockLimit = (lowest s.clockLimits).2 ∧
        ∀ a ∈ t.acts, a.minClock ≤ t.get R.pwrClockMhz) ∧
      (s.pwr.recovering = true → ∀ m, s.pwr.holdLimit = some m →
        t.pwr.holdLimit = if m + 10 < s.opNow then some (m + 10) else none)) ∧
  (∀ s : State, s.dieOn = true → s.pwr.droop = false →
    ∃ t, exec .droopDetect s = .next t ∧ t.pwr = { s.pwr with droop := true } ∧
      t.get R.pwrDroopEvents = min (s.get R.pwrDroopEvents + 1) (2 ^ 32 - 1)) ∧
  (∀ (cycles : Nat) (s : State), s.dieOn = true → s.pwr.droop = true →
    ∃ t, exec (.droopStretchEnd cycles) s = .next t ∧ t.pwr = { s.pwr with droop := false } ∧
      t.get R.pwrDroopCycles = min (s.get R.pwrDroopCycles + cycles) (2 ^ 32 - 1)) ∧
  (∀ (path : Path) (s : State), s.reaches path R.pwrAgeCtrlNow.page →
    ∃ t, exec (.ageCtrlNow path) s = .next t ∧ t.pwr = { s.pwr with replanAsk := true } ∧ SameWords [] s t ∧
      t = { s.recorded t with pwr := t.pwr }) ∧
  (∀ (need : List Nat) (ceiling testW : Nat) (s : State), s.dieOn = true → s.ageGap = true →
    (s.pwr.replanAsk = true ∨ 24 ≤ s.ageHours) →
    ∃ t, exec (.ageingReplan need ceiling testW) s = .next t ∧ t.pwr.planAt = s.time ∧ t.pwr.replanAsk = false ∧
      (∃ l, t.pwr.planned = some l ∧ ∀ d < 4, l.getD d 0 =
        approach (s.get (R.pwrAgeOffset.at_ d)) (min (need.getD d 0) (s.get (R.pwrAgeBound.at_ d))) 10) ∧
      t.pwr.testEnd = some (s.time + 150000) ∧ t.pwr.testLoad = testW ∧
      (∀ d < 4, t.get (R.pwrAgeOffset.at_ d) = s.get (R.pwrAgeOffset.at_ d)) ∧
      (∀ d < 2, s.get (R.pwrAgeBound.at_ d) < need.getD d 0 → t.eventSet 0x0705 pgPWR)) ∧
  (∀ s : State, s.dieOn = true → s.pwr.deferred = false → 48 ≤ s.ageHours →
    ∃ t, exec .ageingDeferred s = .next t ∧ t.pwr = { s.pwr with deferred := true } ∧ t.eventSet 0x0706 pgPWR ∧
      t = { s.recorded t with pwr := t.pwr })

/-- Heat (R388 to R391): a sample shows the hottest included sensor and joins the history; a rise above 6 °C in 250 µs begins a
protective hold; throttling moves limit 3 by 10 MHz; limit 5 is cleared by software; the third sample in a row at 105 °C trips. That
limits 1 and 3 step down from the lower of the limit and the operating point, no lower than 540 MHz, and that THERMAL THROTTLE is raised
once are the model's choices (logs 46 and 48). -/
def Obligations.HeatIsMeasuredAndActedOn : Prop :=
  (∀ (temps : List Nat) (inlet outlet : Nat) (s : State), s.start.powered = true →
    ∃ t, exec (.thermalSample temps inlet outlet) s = .next t ∧
      t.get R.pwrInlet = min inlet 1023 ∧ t.get R.pwrOutlet = min outlet 1023 ∧
      t.pwr.history = (temps :: s.pwr.history).take 101 ∧
      (∀ x < 320, x ∉ s.pwr.excluded → min (temps.getD x 0) 2047 ≤ t.get R.pwrTjTemp) ∧
      ((∃ x < 320, x ∉ s.pwr.excluded) → t.get R.pwrTjSensor < 320 ∧ t.get R.pwrTjSensor ∉ s.pwr.excluded ∧
        t.get R.pwrTjTemp = min (temps.getD (t.get R.pwrTjSensor) 0) 2047) ∧
      ((∀ x < 320, x ∉ s.pwr.excluded → temps.getD x 0 < 840) → t.pwr.trips = 0) ∧
      ((∃ x < 320, x ∉ s.pwr.excluded ∧ 840 ≤ temps.getD x 0) → t.pwr.trips = s.pwr.trips + 1) ∧
      (s.start.trip = false → s.get R.pwrClockMhz ≠ 0 → s.pwr.holdLimit = none →
        (∃ x < 320, x ∉ s.pwr.excluded ∧
          48 < temps.getD x 0 - lowestOf s.pwr.history 25 x (temps.getD x 0)) →
        t.pwr.holdLimit = some (max 540 (s.get R.pwrClockMhz * 6 / 10) / 10 * 10) ∧ t.eventSet 0x0701 pgPWR ∧
        t.get R.pwrHolds = min (s.get R.pwrHolds + 1) (2 ^ 32 - 1))) ∧
  (∀ s : State, s.dieOn = true → 3 ≤ s.pwr.trips →
    ∃ t, exec .thermalTrip s = .next t ∧ t.start.trip = true ∧ t.get R.pwrClockMhz = 0 ∧ t.eventSet 0x0703 pgPWR ∧
      (∀ p < 32, Out.lasers p false ∈ t.out) ∧ t.dataOn = false ∧ t.dieOn = false ∧
      t.pwr.volts.take 3 = [0, 0, 0] ∧ t.pwr.refresh = true) ∧
  (∀ (x : SensorId) (s : State), s.start.powered = true → x.val ∉ s.pwr.excluded →
    ∃ t, exec (.sensorExclude x) s = .next t ∧ t.pwr = { s.pwr with excluded := s.pwr.excluded ++ [x.val] } ∧
      t.derivedWord pgPWR 0xC4 .pwr = some (BitVec.ofNat 32 (s.pwr.excluded.length + 1))) ∧
  (∀ s : State, s.dieOn = true → 784 ≤ s.get R.pwrTjTemp →
    ∃ t, exec .throttleStepDown s = .next t ∧ t.pwr.throttle = max 540 (min s.pwr.throttle s.opNow - 10) ∧
      t.pwr.throttleOnce = true ∧ (s.pwr.throttleOnce = false → t.eventSet 0x0702 pgPWR)) ∧
  (∀ s : State, s.dieOn = true → s.get R.pwrTjTemp ≤ 768 → s.pwr.throttle < s.opNow →
    ∃ t, exec .throttleStepUp s = .next t ∧ t.pwr = { s.pwr with throttle := s.pwr.throttle + 10 }) ∧
  (∀ (path : Path) (s : State), s.reaches path R.pwrCoolingClear.page →
    ∃ t, exec (.coolingClear path) s = .next t ∧ t.pwr = { s.pwr with cooling := none })

/-- The coolant inlet above its limit for 1 s is raised once, again only after it has been 1 °C below for 1 s, and nothing else is done
(R392). -/
def Obligations.InletHighIsRaisedOnce : Prop :=
  (∀ (inlet : Nat) (s : State), s.start.powered = true → s.pwr.inletHigh = false → inletLimit < inlet →
    ∃ t, exec (.inletHigh inlet) s = .next t ∧ t.pwr = { s.pwr with inletHigh := true } ∧ t.eventSet 0x0709 pgPWR ∧
      t = { s.recorded t with pwr := t.pwr }) ∧
  (∀ (inlet : Nat) (s : State), s.pwr.inletHigh = true →
    ∃ t, exec (.inletHigh inlet) s = .next t ∧ SameWords [] s t ∧ t = s.recorded t) ∧
  (∀ s : State, s.start.powered = true → s.get R.pwrInlet + 10 ≤ inletLimit →
    ∃ t, exec .inletHighRearm s = .next t ∧ t.pwr = { s.pwr with inletHigh := false } ∧ t = { s.recorded t with pwr := t.pwr })

/-! ## The host -/

/-- The CXL link (R395, R397, R398) and Tier 3 requests (R399, R400): a link that trains holds its rate, width and protocol; when it
goes down its requests end and nothing is tracked; a line that comes back lands, or poisons; a time-out is counted and raised. What a
request of an Intermission act does sets no cause (R59). What becomes of waiting requests is the model's reading (log 45). -/
def Obligations.CxlLinkAndTier3RequestsEnd : Prop :=
  (∀ (rate width : Nat) (cxl : Bool) (s : State), s.start.powered = true →
    ¬ (s.get R.mgmtStartState = 0 ∧ s.get R.mgmtStartStep ≤ 1) → s.get R.hostLinkRate = 0 → 1 ≤ rate → rate ≤ 3 →
    (width = 8 ∨ width = 16) →
    ∃ t, exec (.cxlLinkUp rate width cxl) s = .next t ∧ t.get R.hostLinkRate = rate ∧ t.get R.hostLinkWidth = width ∧
      t.get R.hostLinkCxl = boolNat cxl ∧ t.eventSet 0x0802 pgHOST ∧
      (s.flagReg R.hostEvqCtrlEn = true → t.host.buffer = [])) ∧
  (∀ s : State, s.start.powered = true → s.get R.hostLinkRate ≠ 0 → s.mem.waiting = [] → s.groups = [] →
    ∃ t, exec .cxlLinkDown s = .next t ∧ t.get R.hostLinkRate = 0 ∧ t.get R.hostLinkWidth = 0 ∧ t.eventSet 0x0801 pgHOST ∧
      t.get R.hostLinkDowns = min (s.get R.hostLinkDowns + 1) (2 ^ 32 - 1) ∧ t.t3 = [] ∧ t.host.snoop = [] ∧
      t.host.biWait = [] ∧ ((∀ a ∈ s.acts, a.intermission = false) → s.t3.any (·.write) = true → t.causeSet vCOMMAND)) ∧
  (∀ (id : Nat) (data : List Byte) (poisoned : List Nat) (s : State) (r : T3Req),
    s.t3.find? (fun x => decide (x.id = id)) = some r → (∀ v ∈ s.serves, v.id ≠ r.op) → data.length = 64 →
    ∃ t, exec (.tier3RequestDone id data poisoned) s = .next t ∧ t.t3 = s.t3.filter (fun x => decide (x.id ≠ r.id)) ∧
      (r.write = true → t = { s.recorded t with t3 := t.t3 }) ∧
      (r.write = false → poisoned = [] → t.csRead r.cell r.cs 64 = data) ∧
      (r.write = false → poisoned ≠ [] → t.eventSet 0x0302 pgMEM ∧
        ((∀ a ∈ s.acts, a.intermission = false) → t.causeSet vPOISON))) ∧
  (∀ (id : Nat) (s : State) (r : T3Req),
    s.t3.find? (fun x => decide (x.id = id)) = some r → (∀ v ∈ s.serves, v.id ≠ r.op) →
    ∃ t, exec (.tier3Timeout id) s = .next t ∧ t.t3 = s.t3.filter (fun x => decide (x.id ≠ r.id)) ∧
      t.get R.hostT3Timeouts = min (s.get R.hostT3Timeouts + 1) (2 ^ 32 - 1) ∧ t.eventSet 0x0803 pgHOST ∧
      ((∀ a ∈ s.acts, a.intermission = false) → t.causeSet (if r.write then vCOMMAND else vPOISON)))

/-- The host's lines of Tier 2 (R401, R402): a write lands and a read delivers what memory holds; beyond the range it fails; a line
that comes back, dirty or late, is no longer waited for; every snoop is answered (R399). A host-initiated write from another module
lands at its chip (R426). -/
def Obligations.HostAccessesAreServed : Prop :=
  (∀ (a : CxlMemAccess) (s : State), Canonical s → s.dataOn = true → s.get R.hostLinkRate ≠ 0 →
    s.flagReg R.hostLinkCxl = true → MemoryAtRest s →
    let off := TIER2 + s.get R.memHdmBase * 2 ^ 30 + 64 * (a.addr / 64)
    ∃ t, exec (.cxlMemAccess a) s = .next t ∧
      (s.hdmSize * 2 ^ 30 ≤ a.addr → t.mem = s.mem ∧
        t.get R.memWindowRange = min (s.get R.memWindowRange + 1) (2 ^ R.memWindowRange.w - 1)) ∧
      (a.addr < s.hdmSize * 2 ^ 30 → s.checkAccess off 64 = none → s.stackDown (s.interleave off).1 = false →
        (∀ d, a.write = some d → d.length = 64 → Memory.readN t.mem.bytes off 64 = d ∧
          (off / 64 ∈ t.mem.poison ↔ a.poison = true) ∧
          ∀ x, (x < off ∨ off + 64 ≤ x) → Memory.read t.mem.bytes x = Memory.read s.mem.bytes x) ∧
        (a.write = none → a.ecc = [] → off / 64 ∉ s.mem.poison → AMap.get s.mem.errs (off / 64) 0 = 0 →
          Out.cxlMem a.addr (Memory.readN s.mem.bytes off 64) false ∈ t.out ∧ t.mem = s.mem) ∧
        (a.cache = true → a.addr / 64 ∈ t.host.snoop))) ∧
  (∀ (line : Nat) (dirty : Option (List Byte)) (s : State), Canonical s → line ∈ s.host.biWait → s.mem.ranges = [] →
    s.mem.regions = [] → s.mem.waiting = [] → s.groups = [] → s.streaming = false →
    ∃ t, exec (.biResponse line dirty) s = .next t ∧ t.host.biWait = s.host.biWait.filter (fun x => decide (x ≠ line)) ∧
      (dirty = none → t.mem = s.mem) ∧
      (∀ d, dirty = some d → d.length = 64 → s.stackDown (s.interleave (s.lineOff line)).1 = false →
        Memory.readN t.mem.bytes (s.lineOff line) 64 = d)) ∧
  (∀ (line : Nat) (s : State), line ∈ s.host.biWait → s.mem.waiting = [] → s.groups = [] → s.streaming = false →
    ∃ t, exec (.biTimeout line) s = .next t ∧ t.host.biWait = s.host.biWait.filter (fun x => decide (x ≠ line)) ∧
      t.get R.hostBiTimeouts = min (s.get R.hostBiTimeouts + 1) (2 ^ 32 - 1) ∧ t.eventSet 0x0804 pgHOST) ∧
  (∀ (addr : Nat) (s : State), s.dataOn = true → s.get R.hostLinkRate ≠ 0 →
    ∃ t, exec (.hostSnoop addr) s = .next t ∧ Out.snoopResp addr ∈ t.out ∧ t = s.recorded t ∧ SameWords [] s t) ∧
  (∀ (p : PortId) (f : Flit) (s : State), Canonical s → s.dataOn = true → cwCrcOk f.hdr = true → s.portLive p = true →
    flitKind f = 7 → s.chip = some (flitDest f) → (s.port p).marked = [] → flitLen f = 64 → f.payload.length = 64 →
    flitPoison f = false → s.checkAccess (flitOffset f) 64 = none → tierOf (flitOffset f) = 1 → MemoryAtRest s →
    ∃ t, exec (.hostInitiatedFlitReceived p f .write) s = .next t ∧
      Memory.readN t.mem.bytes (flitOffset f) 64 = f.payload ∧ flitOffset f / 64 ∉ t.mem.poison)

/-- DMA channels (R414, R415): descriptors from HEAD to TAIL start in order, one that is bad stops the channel with its cause, one that
is done moves its bytes, advances HEAD and counts; RESET empties the channel; EN runs and stops it. That the bytes move at the
completion is the model's choice (log 56). -/
def Obligations.DmaChannelsRunTheirDescriptors : Prop :=
  ∀ (ch : DmaId) (s : State), s.host.dma.length = 4 →
    (s.reaches .host 0 → ∀ (tail : Nat) (d : DmaDesc),
      let head := s.get (R.hostDmaHead.at_ ch) % 2 ^ s.get (R.hostDmaCtrlSize.at_ ch)
      (∃ t, exec (.dmaTailWrite ch tail []) s = .next t ∧ t.get (R.hostDmaTail.at_ ch) = tail % 2 ^ 16) ∧
      (s.get (R.hostDmaStatusState.at_ ch) = 1 → s.host.dma.getD ch [] = [] →
        head ≠ tail % 2 ^ 16 % 2 ^ s.get (R.hostDmaCtrlSize.at_ ch) → (dmaRunOf head d).remote = none →
        ∃ t, exec (.dmaTailWrite ch tail [d]) s = .next t ∧
          (s.dmaCause d (dmaRunOf head d) = none →
            t.host.dma.getD ch [] = [{ dmaRunOf head d with started := true }] ∧
            ((dmaRunOf head d).toHost = false →
              Out.dmaRead ch (dmaRunOf head d).hostAddr (dmaRunOf head d).len ∈ t.out)) ∧
          (∀ c, s.dmaCause d (dmaRunOf head d) = some c → t.get (R.hostDmaStatusState.at_ ch) = 2 ∧
            t.get (R.hostDmaStatusCause.at_ ch) = c ∧ t.eventSet 0x0805 pgHOST))) ∧
    (s.reaches .host 0 →
      ∃ t, exec (.dmaReset ch) s = .next t ∧ t.get (R.hostDmaHead.at_ ch) = 0 ∧ t.get (R.hostDmaTail.at_ ch) = 0 ∧
        t.host.dma.getD ch [] = [] ∧ t.get (R.hostDmaStatusState.at_ ch) = s.get (R.hostDmaCtrlEn.at_ ch)) ∧
    (s.reaches .host 0 → ∀ v : Word, fieldsOk (R.hostDmaCtrlEn.at_ ch).addr v → bitAt v.toNat 9 = false →
      s.get (R.hostDmaStatusState.at_ ch) ≠ 2 →
      ∃ t, exec (.dmaChannelEnable ch v []) s = .next t ∧
        t.get (R.hostDmaStatusState.at_ ch) = bitsOf v.toNat 8 1 ∧ t.get (R.hostDmaCtrlSize.at_ ch) = bitsOf v.toNat 0 5 ∧
        (bitAt v.toNat 8 = false → t.host.dma.getD ch [] = (s.host.dma.getD ch []).filter (·.started))) ∧
    (∀ (r : DmaRun) (data : DmaData), s.host.dma.getD ch [] = [r] → s.dataOn = true → r.started = true →
      (∃ t, exec (.dmaDescriptorDone ch data true false) s = .next t ∧ t.get (R.hostDmaStatusState.at_ ch) = 2 ∧
        t.get (R.hostDmaStatusCause.at_ ch) = 3 ∧ t.eventSet 0x0805 pgHOST ∧ t.host.dma.getD ch [] = []) ∧
      (Canonical s → MemoryAtRest s → r.toHost = false → r.remote = none → r.len = 64 → data.bytes.length = 64 →
        data.poison = [] → r.modOff % 64 = 0 → tierOf r.modOff = 1 →
        ∃ t, exec (.dmaDescriptorDone ch data false false) s = .next t ∧ Memory.readN t.mem.bytes r.modOff 64 = data.bytes ∧
          t.host.dma.getD ch [] = [] ∧
          t.get (R.hostDmaHead.at_ ch) = (r.index + 1) % 2 ^ s.get (R.hostDmaCtrlSize.at_ ch) % 2 ^ 16 ∧
          t.get (R.hostDmaDone.at_ ch) = min (s.get (R.hostDmaDone.at_ ch) + 1) (2 ^ 32 - 1)))

/-- Programs (R178 to R181, R416): GO asks for a load, the checks end in a loaded program or in the cause of the first that fails, an
unload that nothing holds back removes the program. The place of an image is checked as log 27 says. -/
def Obligations.ProgramsLoadAndUnload : Prop :=
  (∀ (path : Path) (s : State), s.reaches path 0 → s.host.loading = none →
    ∃ t, exec (.loadGo path) s = .next t ∧
      (s.get R.hostLinkRate = 0 ∨ s.flagReg R.hostLinkCxl = true →
        t.host.loading = some (s.get2 R.hostLoadOffLo R.hostLoadOffHi) ∧ t.get R.hostLoadStatusBusy = 1) ∧
      (s.get R.hostLinkRate ≠ 0 → s.flagReg R.hostLinkCxl = false → t.host.loading = none ∧ t.eventSet 0x0808 pgHOST)) ∧
  (∀ (s : State) (off : Nat), s.dataOn = true → s.host.loading = some off → (s.fetchImage off).2 = true →
    ∃ t, exec .loadCheckDone s = .next t ∧ t.host.loading = none ∧ t.get R.hostLoadStatusBusy = 0 ∧
      t.get R.cmdLoadStatusProgram = byteOf (s.peek off 128) 8 ∧
      match s.checkImage off with
      | .loaded p => t.progs = s.progs ++ [p] ∧ t.get R.cmdLoadStatusCause = 0
      | .refused c => t.progs = s.progs ∧ t.get R.cmdLoadStatusCause = c ∧ t.eventSet 0x0208 pgCMD
      | .badAct _ => t.progs = s.progs ∧ t.get R.cmdLoadStatusCause = 8 ∧ t.eventSet 0x0107 pgCUE
      | .badFormat _ => t.progs = s.progs ∧ t.get R.cmdLoadStatusCause = 9 ∧ t.eventSet 0x0201 pgCMD) ∧
  (∀ (path : Path) (prog : Byte) (s : State), s.reaches path 0 →
    ∃ t, exec (.loadUnload path prog) s = .next t ∧ t.get R.hostLoadStatusUnload = s.unloadStatus prog.toNat ∧
      (s.unloadStatus prog.toNat = 0 → t.progs = s.progs.filter (fun p => p.num != prog.toNat)) ∧
      (s.unloadStatus prog.toNat ≠ 0 → t.progs = s.progs))

/-! ## Registers -/

/-- Register accesses (R39, R404 to R408): a read of TIME_LO and TIME_HI is of one count; a word of any page without an effect of its own
takes a write in its fields that software may write, and not at all where one of them is out of range, nor while a ring or a lock
holds it (R174, R214, R272, R412); EVENT is cleared by ones; a refused access is counted and raised; a block that does not answer
returns ones, and to a Callboard request status 2 (R406, R419); a chip number may change while no program is loaded (R427). -/
def Obligations.RegistersAreReadAndWritten : Prop :=
  (∀ (path : Path) (s : State), s.reaches path R.cueTimeLo.page → NothingUnrecorded s →
    exec (.timeLoRead path) s =
      .next ((s.set R.cueTimeHi (s.time.toNat / 2 ^ 32)).emit (.readData path (s.time.setWidth 32)))) ∧
  (∀ (path : Path) (off : Nat) (v : DWord) (s : State), s.reaches path (off / 0x1000) → off % 4 = 0 → s.plainWord off = true →
    let w : Word := v.setWidth 32
    ((∃ r ∈ rowsAt off, r.acc = .rw) → (∀ r ∈ rowsAt off, r.acc = .rw ∨ r.acc = .ro) → fieldsOk off w →
      let m := BitVec.ofNat 32 (maskOf ((rowsAt off).filter fun r => decide (r.acc = .rw)))
      ∃ t, exec (.registerWrite path off 4 v) s = .next t ∧ t.word off = (s.word off &&& ~~~m) ||| (w &&& m) ∧
        SameWords [off] s t ∧ t = s.recorded t) ∧
    ((∃ r ∈ rowsAt off, r.acc = .rw) → (∀ r ∈ rowsAt off, r.acc = .rw ∨ r.acc = .ro) →
      (∃ r ∈ rowsAt off, r.acc = .rw ∧ fieldOk r.fld (bitsOf w.toNat r.fld.lo r.fld.w) = false) →
      ∃ t, exec (.registerWrite path off 4 v) s = .next t ∧ t.word off = s.word off ∧ t.eventSet 0x0808 pgHOST) ∧
    (off % 0x1000 = 0x10 →
      ∃ t, exec (.registerWrite path off 4 v) s = .next t ∧ t.word off = s.word off &&& ~~~w ∧ SameWords [off] s t)) ∧
  (∀ (path : Path) (off : Nat) (v : DWord) (s : State), s.reaches path (off / 0x1000) → s.heldWord off = true →
    ∃ t, exec (.registerWrite path off 4 v) s = .next t ∧ SameWords [] s t ∧ t = s.recorded t) ∧
  (∀ (path : Path) (off size : Nat) (v : DWord) (s : State), s.pathOpen path = true →
    (off % 4 ≠ 0 ∨ (size ≠ 4 ∧ size ≠ 8)) →
    ∃ t, exec (.registerWrite path off size v) s = .next t ∧ t.eventSet 0x0808 pgHOST ∧
      t.get R.hostBadAccess = min (s.get R.hostBadAccess + 1) (2 ^ 32 - 1) ∧
      t.get R.hostBadAccessLastOffset = off % 2 ^ 26 ∧ t = s.recorded t) ∧
  (∀ (path : Path) (off : Nat) (s : State), s.reaches path (off / 0x1000) →
    (∃ t, exec (.registerTimeout path off .read) s = .next t ∧ t.eventSet 0x0807 pgHOST ∧ t = s.recorded t ∧
      Out.readData path (BitVec.allOnes 32) ∈ t.out) ∧
    (∃ t, exec (.registerTimeout path off .write) s = .next t ∧ t.eventSet 0x0807 pgHOST ∧ t = s.recorded t ∧
      SameWords [(R.pageEvent pgHOST).addr] s t) ∧
    (∀ f : CbFrame, path = .callboard → s.takes f 0x10 → f.payload.length = 5 → byteOf f.payload 4 = 1 →
      u32Of f.payload 0 = off → off % 4 = 0 →
      ∃ t, exec (.registerTimeout path off (.request f)) s = .next t ∧ t.eventSet 0x0807 pgHOST ∧
        cbMake f.src false true s.cbPos 0x11 f.seq ([2, 0, 0, 0] ++ natLe 4 (2 ^ 32 - 1)) ∈ t.cb.own)) ∧
  (∀ (path : Path) (v : Word) (s : State), s.reaches path 1 →
    ∃ t, exec (.mgmtChipWrite path v) s = .next t ∧
      (s.loaded = false → t.get R.mgmtChipNumber = bitsOf v.toNat 0 14 ∧ t.get R.mgmtChipValid = bitsOf v.toNat 31 1 ∧
        t.get R.collPositionValid = 0) ∧
      (s.loaded = true → t.get R.mgmtChipNumber = s.get R.mgmtChipNumber ∧ t.eventSet 0x0808 pgHOST))

/-- Controls act at once: captures (R169, R182), the trace and slack rings (R174, R272), counts (R149, R274), the fault log (R473). -/
def Obligations.ControlsActAtOnce : Prop :=
  (∀ (path : Path) (s : State), s.reaches path 3 →
    (∃ t, exec (.captureClearHaz path) s = .next t ∧ t.hazHeld = false ∧ t = { s.recorded t with hazHeld := false }) ∧
    (∃ t, exec (.captureClearWx path) s = .next t ∧ t.wxHeld = false ∧ t = { s.recorded t with wxHeld := false }) ∧
    (∀ v : Word, fieldsOk R.cmdTraceCtrlEn.addr v → s.traced = [] →
      ∃ t, exec (.traceEnable path v) s = .next t ∧ t.get R.cmdTraceCtrlEn = bitsOf v.toNat 0 1 ∧
        (s.flagReg R.cmdTraceCtrlEn = false → bitAt v.toNat 0 = true → t.get2 R.cmdTraceWrptrLo R.cmdTraceWrptrHi = 0) ∧
        (s.flagReg R.cmdTraceCtrlEn = true ∨ bitAt v.toNat 0 = false →
          t.get2 R.cmdTraceWrptrLo R.cmdTraceWrptrHi = s.get2 R.cmdTraceWrptrLo R.cmdTraceWrptrHi) ∧ t = s.recorded t)) ∧
  (∀ (path : Path) (s : State), s.reaches path 6 →
    (∀ v : Word, fieldsOk R.collSlackCtrlEn.addr v →
      ∃ t, exec (.slackEnable path v) s = .next t ∧ t.get R.collSlackCtrlEn = bitsOf v.toNat 8 1 ∧
        (s.flagReg R.collSlackCtrlEn = false → bitAt v.toNat 8 = true → t.get R.collSlackWrptr = 0 ∧
          t.get R.collSlackSize = bitsOf v.toNat 0 5) ∧
        (s.flagReg R.collSlackCtrlEn = true → t.get R.collSlackSize = s.get R.collSlackSize) ∧ t = s.recorded t) ∧
    (∃ t, exec (.collCountClear path) s = .next t ∧ t = s.recorded t ∧
      ∀ a, a ∉ recordWords → t.word a = if a / 0x1000 = 6 ∧ groupCountWindow (a % 0x1000) = true then regReset a else s.word a)) ∧
  (∀ (path : Path) (cell : CellId) (s : State), s.reaches path (pgCELL cell) →
    ∃ t, exec (.cellCountClear path cell) s = .next t ∧ t = s.recorded t ∧
      ∀ a, a ∉ recordWords →
        t.word a = if a / 0x1000 = pgCELL cell ∧ countWindow (a % 0x1000) = true then regReset a else s.word a) ∧
  (∀ (path : Path) (s : State), s.reaches path 1 → NothingUnrecorded s →
    ∃ t, exec (.faultLogClear path) s = .next t ∧ t.faults = [] ∧ t.get R.mgmtFaultWr = 1 ∧ t.get R.mgmtFaultFirstValid = 0 ∧
      t.get R.mgmtFaultCount = s.get R.mgmtFaultCount)

/-- Events and the host ring (R407, R408, R412, R413): a forced event sets its bit and does nothing else; EVQ_RD and EVQ_CTRL make room
for the records that wait; at the end of a holdoff one message covers what came meanwhile. That a forced event does nothing
else is read from R408 (log 51). -/
def Obligations.HostRingIsFilledAndSignalled : Prop :=
  (∀ (path : Path) (page : Nat) (bits : Word) (s : State) (k : PageKind) (code : Nat), s.reaches path page →
    pageKind page = some k → code ∈ pageCodes k → bitAt bits.toNat (code % 32) = true →
    ∃ t, exec (.eventForce path page bits) s = .next t ∧ t.eventSet code page ∧ t = s.recorded t) ∧
  (∀ (path : Path) (v : Word) (s : State), s.reaches path 0 →
    ∃ t, exec (.evqRdWrite path v) s = .next t ∧ t.get R.hostEvqRd = v.toNat % 2 ^ 20 ∧
      (s.ringOpen = true → t.host.buffer = []) ∧ t = s.recorded t) ∧
  (∀ (path : Path) (v : Word) (s : State), s.reaches path 0 →
    ∃ t, exec (.eventRingEnable path v) s = .next t ∧
      (s.flagReg R.hostEvqCtrlEn = true → t.get R.hostEvqCtrlSize = s.get R.hostEvqCtrlSize ∧
        t.get R.hostEvqCtrlEn = bitsOf v.toNat 8 1) ∧
      (s.flagReg R.hostEvqCtrlEn = false → fieldsOk R.hostEvqCtrlEn.addr v →
        t.get R.hostEvqCtrlSize = bitsOf v.toNat 0 5 ∧ t.get R.hostEvqCtrlEn = bitsOf v.toNat 8 1 ∧
        (bitAt v.toNat 8 = true → s.get R.hostLinkRate ≠ 0 → t.host.buffer = []))) ∧
  (∀ (vec : Fin 16) (s : State), s.start.powered = true → NothingUnrecorded s → vec.val ∈ s.host.holdoff →
    ∃ t, exec (.irqHoldoffExpire vec) s = .next t ∧
      (vec.val ∉ s.host.owed → t.out = s.out ∧ vec.val ∉ t.host.holdoff) ∧
      (vec.val ∈ s.host.owed → s.get R.hostLinkRate ≠ 0 → t.out = s.out ++ [.msix vec] ∧ vec.val ∉ t.host.owed ∧
        (s.get R.hostIrqHoldoffUs ≠ 0 → vec.val ∈ t.host.holdoff)))

/-! ## The Callboard and the mailboxes -/

/-- Frames on the Callboard (R418 to R425): enumeration gives a position and goes on, or ends at the tail; a frame for another module
goes on unchanged, and one from downstream shows that the module is no tail; a frame for this one that fails its CRC is counted and
raised, whatever its type; a register read or write is answered; telemetry is the module's own frame; a mirror is passed on or taken.
Readings of single frames are in log 52, and the module's own queue in log 13. -/
def Obligations.CallboardFramesAreActedOn : Prop :=
  (∀ (f : CbFrame) (n : Byte) (s : State), s.start.powered = true → NothingUnrecorded s → f.type = 0x01 → f.up = false →
    cbHcrcOk f = true → cbCrcOk f = true → f.payload = [n] →
    ∃ t, exec (.enumerate f) s = .next t ∧
      (n.toNat ≤ 63 → t.get R.mgmtCbPosition = n.toNat ∧ t.get R.mgmtCbValid = 1 ∧
        (s.flagReg R.mgmtCbTail = false →
          Out.callboard (cbMake f.dest f.bcast false n.toNat 0x01 f.seq [n + 1]) ∈ t.out) ∧
        (s.flagReg R.mgmtCbTail = true → cbMake 0 false true n.toNat 0x02 f.seq [n, 0] ∈ t.cb.own)) ∧
      (63 < n.toNat → t.get R.mgmtCbValid = 0 ∧ cbMake 0 false true s.cbPos 0x02 f.seq [63, 1] ∈ t.cb.own)) ∧
  (∀ (f : CbFrame) (s : State), s.start.powered = true → f.type = 0x02 → f.up = true → cbHcrcOk f = true → cbCrcOk f = true →
    f.payload.length = 2 →
    ∃ t, exec (.enumDone f) s = .next t ∧ t.get R.mgmtCbLength = byteOf f.payload 0 % 2 ^ 6 ∧ t.eventSet 0x0907 pgMGMT ∧
      t.get R.mgmtCbTail = 0 ∧ Out.callboard f ∈ t.out) ∧
  (∀ s : State, s.start.powered = true → ∃ t, exec .callboardTailDetect s = .next t ∧ t.get R.mgmtCbTail = 1 ∧ t = s.recorded t) ∧
  (∀ (f : CbFrame) (s : State), s.start.powered = true → cbHcrcOk f = true → s.cbMine f = false → f.type ≠ 0x01 →
    ∃ t, exec (.callboardForward f) s = .next t ∧ Out.callboard f ∈ t.out ∧ SameWords [R.mgmtCbTail.addr] s t ∧
      t.get R.mgmtCbTail = (if f.up then 0 else s.get R.mgmtCbTail) ∧ t = s.recorded t) ∧
  (∀ (f : CbFrame) (s : State), s.start.powered = true → cbHcrcOk f = true → s.cbMine f = true → f.type ≠ 0x01 →
    requestType f.type = false → cbCrcOk f = false →
    ∃ t, exec (.callboardForward f) s = .next t ∧ t.eventSet 0x0906 pgMGMT ∧ t = s.recorded t ∧
      t.get R.mgmtCbCrcErrors = min (s.get R.mgmtCbCrcErrors + 1) (2 ^ R.mgmtCbCrcErrors.w - 1)) ∧
  (∀ s : State, s.start.powered = true → NothingUnrecorded s → s.cbValid = true → s.get R.mgmtCbTelemMs ≠ 0 →
    ∃ t, exec .telemetry s = .next t ∧
      cbMake 0 false true s.cbPos 0x21 (BitVec.ofNat 8 s.cb.seq) s.telemetryBytes ∈ t.cb.own ∧ t.host.evSince = 0) ∧
  (∀ (f : CbFrame) (s : State), s.takes f 0x10 → NothingUnrecorded s → f.payload.length = 5 → byteOf f.payload 4 = 1 →
    let off := u32Of f.payload 0
    off % 4 = 0 → off ≠ R.cueTimeLo.addr → s.pageOpen (off / 0x1000) = true →
    ∃ t, exec (.regRead f) s = .next t ∧
      cbMake f.src false true s.cbPos 0x11 f.seq ([0, 0, 0, 0] ++ natLe 4 (s.readWord off).toNat) ∈ t.cb.own ∧
      SameWords [] s t) ∧
  (∀ (f : CbFrame) (s : State), s.takes f 0x12 → NothingUnrecorded s → f.payload.length = 8 →
    let off := u32Of f.payload 0
    let w := BitVec.ofNat 32 (u32Of f.payload 4)
    off % 4 = 0 → s.plainWord off = true → s.pageOpen (off / 0x1000) = true → (∃ r ∈ rowsAt off, r.acc = .rw) →
    (∀ r ∈ rowsAt off, r.acc = .rw ∨ r.acc = .ro) → fieldsOk off w →
    let m := BitVec.ofNat 32 (maskOf ((rowsAt off).filter fun r => decide (r.acc = .rw)))
    ∃ t, exec (.regWrite f) s = .next t ∧ t.word off = (s.word off &&& ~~~m) ||| (w &&& m) ∧
      cbMake f.src false true s.cbPos 0x13 f.seq [0] ∈ t.cb.own) ∧
  (∀ (p : PortId) (dest src : Nat) (f : CbFrame) (s : State), s.dataOn = true → s.portLive p = true →
    (s.port p).marked = [] →
    ∃ t, exec (.mgmtMirrorReceived p dest src f) s = .next t ∧
      (s.chip ≠ some dest → t = { s.recorded t with ports := t.ports }) ∧
      (s.chip = some dest → cbHcrcOk f = true → cbCrcOk f = true → f.type = 0x11 →
        ∀ x, AMap.find s.mbox 0 = some x → x.awaits = some src →
          AMap.find t.mbox 0 = some { x with resp := cbBytes f, awaits := none }))

/-- Mailboxes (R425, R428 to R430, R436, R437): an idle one takes a doorbell and its owner, a busy one collides; a request is done with
its result and response, or expires; its owner acknowledges or ends it. When a request takes effect and how its bytes lie are
the model's choices (log 28). -/
def Obligations.MailboxesServeRequests : Prop :=
  (∀ (path : Path) (m : MboxId) (seq : Byte) (s : State), s.reaches path (pgMBOX m) → s.get (R.mboxMstateState m) = 0 →
    let taken := fun (t : State) (op : Nat) (x : MboxSt) =>
      t.get (R.mboxMstateState m) = 1 ∧ t.get (R.mboxMstateOwner m) = pathBit path ∧
        t.get (R.mboxMstateSeq m) = seq.toNat ∧ AMap.find t.mbox m = some x ∧ x.opcode = op
    (s.get (R.mboxReqLen m) = 0 →
      (∃ t x, exec (.version path m seq) s = .next t ∧ taken t 1 x ∧ x.result = 0 ∧
        x.resp = (Config.versionResponse m).take 768) ∧
      ∃ t x, exec (.identity path m seq) s = .next t ∧ taken t 2 x ∧
        (m.val = 0 → x.result = 0 ∧ x.resp = identityStatement.take 768) ∧ (m.val ≠ 0 → x.result = 1 ∧ x.resp = [])) ∧
    (m.val = 0 → ∃ t x, exec (.attest path m seq) s = .next t ∧ taken t 3 x ∧
      (s.get (R.mboxReqLen m) = 32 → x.result = 0 ∧ x.resp = (s.attestation (s.mboxRequest 0)).take 768) ∧
      (s.get (R.mboxReqLen m) = 31 → x.result = 2 ∧ x.resp = [])) ∧
    (∀ op : Byte, ∃ t x, exec (.mboxDiagnostic path m op seq) s = .next t ∧ taken t (128 + op.toNat % 128) x ∧ x.result = 0 ∧
      x.resp = (Config.diagnosticResponse m (128 + op.toNat % 128) (s.mboxRequest m)).take 768) ∧
    (∀ f, m.val = 0 → cbOfBytes ((s.mboxRequest 0).drop 2) = some f →
      let c := u16Of (s.mboxRequest 0) 0
      (∀ p, s.chip ≠ some c → s.route c 0 = some p →
        ∃ t x, exec (.remoteMgmt path m seq) s = .next t ∧ taken t 8 x ∧ x.result = 0 ∧ x.awaits = some c) ∧
      (s.chip = some c →
        ∃ t x, exec (.remoteMgmt path m seq) s = .next t ∧ taken t 8 x ∧ x.result = 6 ∧ x.awaits = none))) ∧
  (∀ (path : Path) (m : MboxId) (seq : Byte) (s : State), s.reaches path (pgMBOX m) → s.get (R.mboxMstateState m) ≠ 0 →
    ∃ t, exec (.version path m seq) s = .next t ∧ t.get (R.mboxMstateCollide m) = 1 ∧ t.eventSet 0x0905 (pgMBOX m) ∧
      t.get (R.mboxMstateState m) = s.get (R.mboxMstateState m) ∧ t.mbox = s.mbox) ∧
  (∀ (f : CbFrame) (m : MboxId) (s : State), s.takes f 0x40 → f.payload.length = 4 → u16Of f.payload 0 = m →
    byteOf f.payload 2 = 1 → s.pageOpen (pgMBOX m) = true → s.get (R.mboxMstateState m) = 0 →
    ∃ t x, exec (.mboxReq f) s = .next t ∧ t.get (R.mboxMstateState m) = 1 ∧ t.get (R.mboxMstateOwner m) = 1 ∧
      AMap.find t.mbox m = some x ∧ x.opcode = 1 ∧ x.result = 0 ∧ x.resp = (Config.versionResponse m).take 768 ∧
      x.cbSrc = f.src ∧ x.cbSeq = f.seq) ∧
  (∀ (m : MboxId) (s : State) (x : MboxSt), s.start.powered = true → AMap.sorted s.mbox = true → AMap.find s.mbox m = some x →
    (x.awaits = none → x.stage = none → x.resp.length ≤ 768 →
      ∃ t, exec (.mailboxDone m) s = .next t ∧ t.get (R.mboxMstateState m) = 2 ∧
        t.get (R.mboxMstateResult m) = x.result % 256 ∧ t.get (R.mboxRespLen m) = x.resp.length ∧
        (∀ i < ceilDiv x.resp.length 4, t.get ((R.mboxResp m).at_ i) = u32Of x.resp (4 * i)) ∧
        AMap.find t.mbox m = none ∧
        (s.get (R.mboxMstateOwner m) = 0 → s.get R.hostLinkRate ≠ 0 → 0 ∉ s.host.holdoff → Out.msix 0 ∈ t.out)) ∧
    (∃ t, exec (.mailboxExpired m) s = .next t ∧ t.get (R.mboxMstateState m) = 3 ∧ AMap.find t.mbox m = none ∧
      t.eventSet 0x0904 (pgMBOX m))) ∧
  (∀ (path : Path) (m : MboxId) (s : State), s.reaches path (pgMBOX m) →
    (s.get (R.mboxMstateOwner m) = pathBit path →
      (2 ≤ s.get (R.mboxMstateState m) →
        ∃ t, exec (.mctrlAck path m) s = .next t ∧ t.get (R.mboxMstateState m) = 0 ∧ t = s.recorded t) ∧
      (s.get (R.mboxMstateState m) = 1 → AMap.sorted s.mbox = true →
        ∃ t, exec (.mctrlAbort path m) s = .next t ∧ t.get (R.mboxMstateState m) = 3 ∧ AMap.find t.mbox m = none)) ∧
    (s.get (R.mboxMstateOwner m) ≠ pathBit path →
      ∃ t, exec (.mctrlAbort path m) s = .next t ∧ t.get (R.mboxMstateState m) = s.get (R.mboxMstateState m) ∧
        t.mbox = s.mbox ∧ t.eventSet 0x0808 pgHOST))

/-- Firmware and fuses (R402, R430 to R435): a staging is taken up, unless a recovery image comes in, and made when its request ends: an
image that passes stands in the slot that is not active, one that fails changes nothing and is raised, and the result says which check
it fails; a slot is selected for the next start; a minimum SVN and a key slot are burned, but not the slot of the running module
controller; in recovery, blocks are gathered and answered. The request layouts and the instants are the model's choice (log 28), and
the status of an acknowledgement is the boot ROM's, but for that of a malformed block (log 81). -/
def Obligations.FirmwareIsStagedSelectedAndBurned : Prop :=
  (∀ (path : Path) (seq : Byte) (s : State) (ty : Nat), s.reaches path 0x400 → s.get (R.mboxMstateState 0) = 0 → 1 ≤ ty → ty ≤ 4 →
    s.fw.slotA.length = 4 → s.fw.slotB.length = 4 → s.fw.burnedSvn.length = 4 →
    let req := s.mboxRequest 0
    (req.length = 13 → byteOf req 0 = ty → 0x80 ≤ u32Of req 9 → inTiers12 (u64Of req 1) (u32Of req 9) = true →
      ∃ t x, exec (.fwStage path 0 seq) s = .next t ∧ t.fw = s.fw ∧ AMap.find t.mbox 0 = some x ∧
        (s.fw.stage = [] → x.result = 0 ∧ x.stage = some (ty, u64Of req 1, u32Of req 9)) ∧
        (s.fw.stage ≠ [] → x.result = 7 ∧ x.stage = none)) ∧
    (∀ b : Bool, req = [BitVec.ofNat 8 ty, BitVec.ofNat 8 (boolNat b)] →
      ∃ t, exec (.fwSelect path 0 seq) s = .next t ∧ t.fw = s.fw ∧ bitAt (t.get R.mgmtFwNextSlot) (ty - 1) = b ∧
        ∀ k < 4, k ≠ ty - 1 → bitAt (t.get R.mgmtFwNextSlot) k = bitAt (s.get R.mgmtFwNextSlot) k) ∧
    (req = [BitVec.ofNat 8 ty] →
      let v := byteOf (s.fw.running.getD (ty - 1) []) 12
      ∃ t, exec (.svnAdvance path 0 seq) s = .next t ∧ t.minSvn ty = max (s.minSvn ty) v ∧
        (v ≤ s.minSvn ty ∨ t.eventSet 0x0908 pgMGMT) ∧ ∀ u, 1 ≤ u → u ≠ ty → t.minSvn u = s.minSvn u) ∧
    (∀ k < 4, req = [BitVec.ofNat 8 k] →
      ∃ t, exec (.keyRevoke path 0 seq) s = .next t ∧
        ((∃ img, s.fw.running[0]? = some img ∧ byteOf img 5 = k) → t.keysRevoked = s.keysRevoked) ∧
        ((∀ img, s.fw.running[0]? = some img → byteOf img 5 ≠ k) → t.keysRevoked = s.keysRevoked ||| 2 ^ k ∧
          (bitAt s.keysRevoked k = true ∨ t.eventSet 0x0908 pgMGMT)))) ∧
  (∀ (s : State) (x : MboxSt) (ty off len : Nat), s.start.powered = true → AMap.sorted s.mbox = true → AMap.find s.mbox 0 = some x →
    x.stage = some (ty, off, len) → 1 ≤ ty → ty ≤ 4 → s.fw.slotA.length = 4 → s.fw.slotB.length = 4 →
    (s.mustWait false off len = true → ∃ t, exec (.mailboxDone 0) s = .next t ∧ SameWords [] s t ∧ t = s.recorded t) ∧
    (MemoryAtRest s → MemoryClean s → x.resp.length ≤ 768 →
      let img := s.peek off len
      ∃ t, exec (.mailboxDone 0) s = .next t ∧ t.get (R.mboxMstateState 0) = 2 ∧
        t.get (R.mboxMstateResult 0) = s.fwCheck ty img ∧ AMap.find t.mbox 0 = none ∧ t.mem.bytes = s.mem.bytes ∧
        if s.fwCheck ty img = 0 then
          t.fw.slot ty (!bitAt (s.get R.mgmtFwActiveSlot) (ty - 1)) = some (img.take (0x80 + u32Of img 0x10)) ∧
          t.fw.slot ty (bitAt (s.get R.mgmtFwActiveSlot) (ty - 1)) = s.fw.slot ty (bitAt (s.get R.mgmtFwActiveSlot) (ty - 1))
        else t.fw = s.fw ∧ t.eventSet 0x0903 pgMGMT)) ∧
  (∀ (f : CbFrame) (status : Byte) (s : State), s.takes f 0x50 → NothingUnrecorded s → s.get R.mgmtStartState = 3 →
    let ack := fun (x : Byte) => cbMake f.src false true s.cbPos 0x51 f.seq (natLe 4 (u32Of f.payload 0) ++ [x])
    (f.payload.length < 5 → ∃ t, exec (.recoveryBlock f status) s = .next t ∧ t.fw = s.fw ∧ ack 3 ∈ t.cb.own) ∧
    (5 ≤ f.payload.length →
      let b := fitBytes (u32Of f.payload 0) s.fw.stage ++ f.payload.drop 4
      imageWhole b = false →
      ∃ t, exec (.recoveryBlock f status) s = .next t ∧ t.fw = { s.fw with stage := b } ∧ ack status ∈ t.cb.own))

/-! ## Start-up, reset, input power -/

/-- The start-up sequence, the input and the test port (R438, R442 to R444, R480, R484): power begins step 0 with PRES mated and the input
switch closed, each step that ends begins the next, a fatal one fails the module; the loss of the input leaves the fuses and firmware
storage, and opens a closed switch where R480 and R484 say so. The causes of a step, where the sequence starts and what makes PRES
mate are the model's readings (logs 5, 31 and 95). -/
def Obligations.StartUpRunsItsSteps : Prop :=
  (∀ s : State, s.start.powered = false →
    ∃ t, exec .powerInputRise s = .next t ∧ t.start.powered = true ∧ t.start.pres = true ∧ t.start.switch = true ∧
      (s.start.switch = false → Out.inputSwitch true ∈ t.out) ∧ t = { s.recorded t with start := t.start }) ∧
  (∀ (r : StepReport) (s : State), s.start.powered = true → s.start.trip = false → s.get R.mgmtStartState = 0 →
    ∃ t, exec (.startupStepComplete r) s = .next t ∧
      (s.get R.mgmtStartStep = 0 → t.get R.mgmtStartStep = 1 ∧ t.start.step0End = t.time ∧
        t.time = (s.atLeast (s.start.rangeSince + 20000000)).time) ∧
      (s.get R.mgmtStartStep = 1 → t.get R.mgmtStartStep = 2 ∧ t.mem = s.mem) ∧
      (s.get R.mgmtStartStep = 2 →
        if [1, 2, 3, 4].all (fun ty => s.fwPasses ty (s.fw.slot ty (bitAt (s.get R.mgmtFwNextSlot) (ty - 1)))) = true then
          t.get R.mgmtStartStep = 3 ∧ t.get R.mgmtFwActiveSlot = s.get R.mgmtFwNextSlot ∧ t.get R.mgmtFwFallback = 0
        else (∃ ty ∈ [1, 2, 3, 4], s.fwChoice ty = none) →
          t.get R.mgmtStartState = 3 ∧ t.get R.mgmtFwRecovery = 1 ∧ t.fw.running = [] ∧ t.get R.mgmtFwActiveSlot = 0) ∧
      (s.get R.mgmtStartStep = 4 →
        (r.nearOk = true → t.get R.mgmtStartStep = 5 ∧ (∀ a < TIER3, Memory.read t.mem.bytes a = 0) ∧
          t.get R.memIlStatusLocked1 = 0 ∧ t.get R.memIlStatusLocked2 = 0) ∧
        (r.nearOk = false → t.get R.mgmtStartState = 2 ∧ t.get R.mgmtStartCause = 5 ∧ t.eventSet 0x0909 pgMGMT)) ∧
      (s.get R.mgmtStartStep = 5 → t.get R.mgmtStartStep = 6 ∧ ∀ p < 32, t.cage p = r.cages.getD p 0 % 4 ∧
        (r.cages.getD p 0 % 4 = 1 → ∀ l < 9, t.get ((R.portLaneTxBiasBol p).at_ l) = (r.biasBol.getD p []).getD l 0 % 2 ^ 16)) ∧
      (s.get R.mgmtStartStep = 8 → s.flagReg R.mgmtChipValid = true →
        t.get R.mgmtStartState = 1 ∧ t.eventSet 0x090A pgMGMT)) ∧
  (∀ (cause : Nat) (s : State), s.start.powered = true → s.start.trip = false → s.get R.mgmtStartState = 0 →
    ∃ t, exec (.startupStepTimeout cause) s = .next t ∧
      (s.get R.mgmtStartStep = 0 → t.get R.mgmtStartCause = 1 ∧ t.get R.mgmtStartState = 0 ∧ t.eventSet 0x0909 pgMGMT) ∧
      (s.get R.mgmtStartStep = 2 → t.get R.mgmtStartCause = 6 ∧ t.get R.mgmtStartState = 2 ∧ t.eventSet 0x0909 pgMGMT) ∧
      (s.get R.mgmtStartStep = 7 → t.get R.mgmtStartCause = 7 ∧ t.get R.mgmtStartState = 0 ∧ t.get R.mgmtStartStep = 8 ∧
        t.eventSet 0x0909 pgMGMT)) ∧
  (∀ s : State, s.start.powered = true → s.get R.mgmtStartState = 0 → s.get R.mgmtStartStep = 0 →
    ∃ t, exec .inputRangeLeave s = .next t ∧ t.start = { s.start with rangeSince := s.time } ∧
      t = { s.recorded t with start := t.start }) ∧
  (∀ s : State, s.start.powered = true →
    let off := fun (t : State) => t.start.powered = false ∧ t.mem.bytes = [] ∧ t.progs = [] ∧ t.acts = [] ∧
      t.keysRevoked = s.keysRevoked ∧ (∀ ty, t.minSvn ty = s.minSvn ty) ∧
      t.get R.mgmtFwNextSlot = s.get R.mgmtFwNextSlot ∧
      (AMap.find s.mbox 0 = none → t.fw.slotA = s.fw.slotA ∧ t.fw.slotB = s.fw.slotB)
    (∃ t, exec .uvloFall s = .next t ∧ off t) ∧
    (∃ t, exec .overvoltageDisconnect s = .next t ∧ off t ∧ t.start.switch = false ∧
      (s.start.switch = true → Out.inputSwitch false ∈ t.out)) ∧
    (∃ t, exec .presBreak s = .next t ∧ off t ∧ t.start.switch = false ∧ t.start.pres = false ∧
      (s.start.switch = true → Out.inputSwitch false ∈ t.out))) ∧
  (∀ s : State, s.start.powered = false →
    ∃ t, exec .presBreak s = .next t ∧ t.start.pres = false ∧ t.start.switch = false ∧ t = { s.recorded t with start := t.start }) ∧
  (∀ (j : JtagInstr) (s : State), s.start.powered = true →
    ∃ t, exec (.testPortInstruction j) s = .next t ∧ t = { s.recorded t with test := t.test, free := t.free } ∧
      (j = .idcode → t.test = .idcode ∧ Out.testPort .idcode Config.idcode ∈ t.out) ∧
      (j = .other → t.test = .bypass) ∧ (s.dieInReset = false → j = .extest → t.test = .bypass))

/-- Resets (R447 to R451), in whatever state the module is: they end all work and record level and source, a thermal trip or firmware
recovery making the level 3 at least; level 1 reruns no step and keeps time, memory and the state of the start-up, levels 2 and above
start again from their first step with time 0, level 4 clears memory; fuses stand. One that a start-up of a higher level covers does
nothing; a level outside 1 to 4 is refused. What a level does to state that R449 does not name, and a reset during a start-up from
power, are the model's choices (logs 8 and 33). -/
def Obligations.ResetsEndWorkAndRestart : Prop :=
  (∀ s : State,
    let after := fun (l src : Nat) (t : State) =>
      let k := s.levelOf l
      (s.higherRuns k = true → SameWords [] s t ∧ t = s.recorded t) ∧
      (s.higherRuns k = false →
        t.get R.mgmtResetCauseLevel = k ∧ t.get R.mgmtResetCauseSource = src ∧ t.eventSet 0x090B pgMGMT ∧
        t.progs = [] ∧ t.acts = [] ∧ t.job = none ∧ t.cells = [] ∧ t.cores = [] ∧ t.movers = [] ∧
        t.keysRevoked = s.keysRevoked ∧
        (k = 1 → t.get R.mgmtStartState = s.get R.mgmtStartState ∧ t.get R.mgmtStartStep = s.get R.mgmtStartStep ∧
          t.time = s.time) ∧
        (2 ≤ k → t.get R.mgmtStartState = 0 ∧ t.time = 0 ∧ t.get R.mgmtStartStep =
          (if s.owesSteps k then min (s.get R.mgmtStartStep) (firstStep k) else firstStep k)) ∧
        (k ≤ 3 → t.mem.bytes = s.mem.bytes) ∧ (k = 4 → t.mem.bytes = []))
    (∀ (f : CbFrame) (l : Nat), s.takes f 0x30 → f.payload = [BitVec.ofNat 8 l] → 1 ≤ l → l ≤ 4 →
      ∃ t, exec (.reset f) s = .next t ∧ after l 1 t) ∧
    (∀ (path : Path) (l : Nat), s.reaches path 1 → 1 ≤ l → l ≤ 4 →
      ∃ t, exec (.resetLevelWrite path l) s = .next t ∧ after l 2 t) ∧
    (s.start.powered = true → 1 ≤ s.get R.mgmtResetCfgPerst → s.get R.mgmtResetCfgPerst ≤ 4 →
      ∃ t, exec .perstAssert s = .next t ∧ after (s.get R.mgmtResetCfgPerst) 3 t) ∧
    (s.start.powered = true → ∃ t, exec .watchdogExpire s = .next t ∧ after 3 4 t)) ∧
  (∀ (path : Path) (l : Nat) (s : State), s.reaches path 1 → l % 8 = 0 ∨ 4 < l % 8 →
    ∃ t, exec (.resetLevelWrite path l) s = .next t ∧ t.eventSet 0x0808 pgHOST ∧ t = s.recorded t)
end

