-- ==== Sys2Proof/Laws/Map.lean ====
section
/-! SUPPORT. What listing and unlisting a key do to a sparse table. -/

namespace Sys2Proof.Machine

variable {α : Type}

@[simp] theorem AMap.find_nil (x : Nat) : AMap.find ([] : AMap α) x = none := rfl

@[simp] theorem AMap.get_nil (x : Nat) (d : α) : AMap.get ([] : AMap α) x d = d := rfl

@[simp] theorem AMap.find_put_same (m : AMap α) (x : Nat) (v : α) : AMap.find (AMap.put m x v) x = some v := by
  induction m with
  | nil => simp [AMap.put, AMap.find]
  | cons e m ih =>
    obtain ⟨k, w⟩ := e
    simp only [AMap.put]
    split
    · simp [AMap.find]
    · split
      · simp [AMap.find]
      · next h => simp [AMap.find, h, ih]

theorem AMap.find_put_other (m : AMap α) {x y : Nat} (v : α) (h : y ≠ x) :
    AMap.find (AMap.put m x v) y = AMap.find m y := by
  induction m with
  | nil => simp [AMap.put, AMap.find, h]
  | cons e m ih =>
    obtain ⟨k, w⟩ := e
    simp only [AMap.put]
    split
    · simp [AMap.find, h]
    · split
      · next hk => subst hk; simp [AMap.find, h]
      · simp [AMap.find, ih]

@[simp] theorem AMap.get_put_same (m : AMap α) (x : Nat) (v d : α) : AMap.get (AMap.put m x v) x d = v := by
  simp [AMap.get]

theorem AMap.get_put_other (m : AMap α) {x y : Nat} (v d : α) (h : y ≠ x) :
    AMap.get (AMap.put m x v) y d = AMap.get m y d := by
  simp [AMap.get, AMap.find_put_other m v h]

theorem AMap.find_del_other (m : AMap α) {x y : Nat} (h : y ≠ x) : AMap.find (AMap.del m x) y = AMap.find m y := by
  induction m with
  | nil => rfl
  | cons e m ih =>
    obtain ⟨k, w⟩ := e
    simp only [AMap.del]
    split
    · next hk => subst hk; simp [AMap.find, h]
    · simp [AMap.find, ih]

/-- Keys above a bound stay above it. -/
theorem AMap.sortedAbove_mono {m : AMap α} {a b : Nat} (h : AMap.sortedAbove (some b) m = true) (hab : a ≤ b) :
    AMap.sortedAbove (some a) m = true := by
  cases m with
  | nil => rfl
  | cons e m =>
    obtain ⟨k, w⟩ := e
    simp only [AMap.sortedAbove, Bool.and_eq_true, decide_eq_true_eq] at h ⊢
    exact ⟨by omega, h.2⟩

theorem AMap.sortedAbove_none {m : AMap α} {a : Nat} (h : AMap.sortedAbove (some a) m = true) :
    AMap.sortedAbove none m = true := by
  cases m with
  | nil => rfl
  | cons e m => exact (by simpa [AMap.sortedAbove] using h : _ ∧ _).2

theorem AMap.sortedAbove_put {m : AMap α} {lo : Option Nat} {x : Nat} (v : α) (h : AMap.sortedAbove lo m = true)
    (hx : ∀ a, lo = some a → a < x) : AMap.sortedAbove lo (AMap.put m x v) = true := by
  induction m generalizing lo with
  | nil =>
    cases lo with
    | none => rfl
    | some a => simpa [AMap.put, AMap.sortedAbove] using hx a rfl
  | cons e m ih =>
    obtain ⟨k, w⟩ := e
    have hm : AMap.sortedAbove (some k) m = true := by
      cases lo <;> simp_all [AMap.sortedAbove]
    simp only [AMap.put]
    split
    · next hlt =>
      cases lo with
      | none => simp [AMap.sortedAbove, hlt, hm]
      | some a => simp [AMap.sortedAbove, hlt, hm, hx a rfl]
    · split
      · next he =>
        subst he
        cases lo with
        | none => simpa [AMap.sortedAbove] using hm
        | some a => simpa [AMap.sortedAbove] using ⟨hx a rfl, hm⟩
      · next h1 h2 =>
        have := ih hm (fun a ha => by cases ha; omega)
        cases lo with
        | none => simpa [AMap.sortedAbove] using this
        | some a =>
          have hk : a < k := by simpa [AMap.sortedAbove] using (by simpa [AMap.sortedAbove] using h : _ ∧ _).1
          simpa [AMap.sortedAbove] using ⟨hk, this⟩

/-- Listing a key keeps the keys strictly rising. -/
theorem AMap.sorted_put {m : AMap α} (x : Nat) (v : α) (h : AMap.sorted m = true) : AMap.sorted (AMap.put m x v) = true :=
  AMap.sortedAbove_put v h (fun _ ha => by cases ha)

theorem AMap.sortedAbove_del {m : AMap α} {lo : Option Nat} (x : Nat) (h : AMap.sortedAbove lo m = true) :
    AMap.sortedAbove lo (AMap.del m x) = true := by
  induction m generalizing lo with
  | nil => cases lo <;> rfl
  | cons e m ih =>
    obtain ⟨k, w⟩ := e
    have hm : AMap.sortedAbove (some k) m = true := by
      cases lo <;> simp_all [AMap.sortedAbove]
    simp only [AMap.del]
    split
    · cases lo with
      | none => exact AMap.sortedAbove_none hm
      | some a =>
        have hk : a < k := by simpa [AMap.sortedAbove] using (by simpa [AMap.sortedAbove] using h : _ ∧ _).1
        exact AMap.sortedAbove_mono hm (Nat.le_of_lt hk)
    · have := ih hm
      cases lo with
      | none => simpa [AMap.sortedAbove] using this
      | some a =>
        have hk : a < k := by simpa [AMap.sortedAbove] using (by simpa [AMap.sortedAbove] using h : _ ∧ _).1
        simpa [AMap.sortedAbove] using ⟨hk, this⟩

/-- Unlisting a key keeps the keys strictly rising. -/
theorem AMap.sorted_del {m : AMap α} (x : Nat) (h : AMap.sorted m = true) : AMap.sorted (AMap.del m x) = true :=
  AMap.sortedAbove_del x h

theorem AMap.find_none_of_above {m : AMap α} {a x : Nat} (h : AMap.sortedAbove (some a) m = true) (hx : x ≤ a) :
    AMap.find m x = none := by
  induction m generalizing a with
  | nil => rfl
  | cons e m ih =>
    obtain ⟨k, w⟩ := e
    simp only [AMap.sortedAbove, Bool.and_eq_true, decide_eq_true_eq] at h
    have : x ≠ k := by omega
    simp [AMap.find, this, ih h.2 (by omega)]

/-- An unlisted key of a table in rising order is no longer listed. -/
theorem AMap.find_del_same {m : AMap α} (x : Nat) (h : AMap.sorted m = true) : AMap.find (AMap.del m x) x = none := by
  unfold AMap.sorted at h
  induction m with
  | nil => rfl
  | cons e m ih =>
    obtain ⟨k, w⟩ := e
    have hm : AMap.sortedAbove (some k) m = true := by simpa [AMap.sortedAbove] using h
    simp only [AMap.del]
    split
    · next hk => subst hk; exact AMap.find_none_of_above hm (Nat.le_refl _)
    · next hk => simp [AMap.find, hk, ih (AMap.sortedAbove_none hm)]

theorem AMap.sortedAbove_filter {m : AMap α} {lo : Option Nat} (f : Nat × α → Bool) (h : AMap.sortedAbove lo m = true) :
    AMap.sortedAbove lo (m.filter f) = true := by
  induction m generalizing lo with
  | nil => cases lo <;> rfl
  | cons e m ih =>
    obtain ⟨k, w⟩ := e
    have hm : AMap.sortedAbove (some k) m = true := by
      cases lo <;> simp_all [AMap.sortedAbove]
    simp only [List.filter]
    cases f (k, w) with
    | true =>
      have := ih hm
      cases lo with
      | none => simpa [AMap.sortedAbove] using this
      | some a =>
        have hk : a < k := by simpa [AMap.sortedAbove] using (by simpa [AMap.sortedAbove] using h : _ ∧ _).1
        simpa [AMap.sortedAbove] using ⟨hk, this⟩
    | false =>
      cases lo with
      | none => exact ih (AMap.sortedAbove_none hm)
      | some a =>
        have hk : a < k := by simpa [AMap.sortedAbove] using (by simpa [AMap.sortedAbove] using h : _ ∧ _).1
        exact ih (AMap.sortedAbove_mono hm (Nat.le_of_lt hk))

/-- Some entries of a table in rising order are in rising order. -/
theorem AMap.sorted_filter {m : AMap α} (f : Nat × α → Bool) (h : AMap.sorted m = true) : AMap.sorted (m.filter f) = true :=
  AMap.sortedAbove_filter f h

/-- Entries with some keys left out: those keys read as unlisted, the others as before. -/
theorem AMap.find_filter_key (m : AMap α) (keep : Nat → Bool) (x : Nat) :
    AMap.find (m.filter fun e => keep e.1) x = if keep x then AMap.find m x else none := by
  induction m with
  | nil => simp [AMap.find]
  | cons e m ih =>
    obtain ⟨k, w⟩ := e
    by_cases hk : x = k
    · subst hk
      by_cases h : keep x <;> simp [List.filter, AMap.find, h, ih]
    · by_cases h : keep k <;> simp [List.filter, AMap.find, h, ih, hk]

end Sys2Proof.Machine
end

