-- ==== Sys2Proof/Laws/State.lean ====
section
/-! SUPPORT. What each update of the state leaves and what it sets: one lemma for each field. -/

namespace Sys2Proof.Machine

open Sys2Proof

variable (s : State)

/-! `setWord` -/

@[simp] theorem State.setWord_pending (a : Nat) (v : Word) : (s.setWord a v).pending = s.pending := rfl
@[simp] theorem State.setWord_free (a : Nat) (v : Word) : (s.setWord a v).free = s.free := rfl
@[simp] theorem State.setWord_out (a : Nat) (v : Word) : (s.setWord a v).out = s.out := rfl
@[simp] theorem State.setWord_time (a : Nat) (v : Word) : (s.setWord a v).time = s.time := rfl
@[simp] theorem State.setWord_regs (a : Nat) (v : Word) : (s.setWord a v).regs = AMap.put s.regs a v := rfl
@[simp] theorem State.setWord_shadow (a : Nat) (v : Word) : (s.setWord a v).shadow = s.shadow := rfl
@[simp] theorem State.setWord_cue (a : Nat) (v : Word) : (s.setWord a v).cue = s.cue := rfl
@[simp] theorem State.setWord_sheet (a : Nat) (v : Word) : (s.setWord a v).sheet = s.sheet := rfl
@[simp] theorem State.setWord_progs (a : Nat) (v : Word) : (s.setWord a v).progs = s.progs := rfl
@[simp] theorem State.setWord_job (a : Nat) (v : Word) : (s.setWord a v).job = s.job := rfl
@[simp] theorem State.setWord_acts (a : Nat) (v : Word) : (s.setWord a v).acts = s.acts := rfl
@[simp] theorem State.setWord_cells (a : Nat) (v : Word) : (s.setWord a v).cells = s.cells := rfl
@[simp] theorem State.setWord_cores (a : Nat) (v : Word) : (s.setWord a v).cores = s.cores := rfl
@[simp] theorem State.setWord_movers (a : Nat) (v : Word) : (s.setWord a v).movers = s.movers := rfl
@[simp] theorem State.setWord_nextReq (a : Nat) (v : Word) : (s.setWord a v).nextReq = s.nextReq := rfl
@[simp] theorem State.setWord_groups (a : Nat) (v : Word) : (s.setWord a v).groups = s.groups := rfl
@[simp] theorem State.setWord_scale (a : Nat) (v : Word) : (s.setWord a v).scale = s.scale := rfl
@[simp] theorem State.setWord_upd (a : Nat) (v : Word) : (s.setWord a v).upd = s.upd := rfl
@[simp] theorem State.setWord_mem (a : Nat) (v : Word) : (s.setWord a v).mem = s.mem := rfl
@[simp] theorem State.setWord_t3 (a : Nat) (v : Word) : (s.setWord a v).t3 = s.t3 := rfl
@[simp] theorem State.setWord_serves (a : Nat) (v : Word) : (s.setWord a v).serves = s.serves := rfl
@[simp] theorem State.setWord_commit (a : Nat) (v : Word) : (s.setWord a v).commit = s.commit := rfl
@[simp] theorem State.setWord_ports (a : Nat) (v : Word) : (s.setWord a v).ports = s.ports := rfl
@[simp] theorem State.setWord_map (a : Nat) (v : Word) : (s.setWord a v).map = s.map := rfl
@[simp] theorem State.setWord_pwr (a : Nat) (v : Word) : (s.setWord a v).pwr = s.pwr := rfl
@[simp] theorem State.setWord_host (a : Nat) (v : Word) : (s.setWord a v).host = s.host := rfl
@[simp] theorem State.setWord_cb (a : Nat) (v : Word) : (s.setWord a v).cb = s.cb := rfl
@[simp] theorem State.setWord_mbox (a : Nat) (v : Word) : (s.setWord a v).mbox = s.mbox := rfl
@[simp] theorem State.setWord_fw (a : Nat) (v : Word) : (s.setWord a v).fw = s.fw := rfl
@[simp] theorem State.setWord_faults (a : Nat) (v : Word) : (s.setWord a v).faults = s.faults := rfl
@[simp] theorem State.setWord_faultSeq (a : Nat) (v : Word) : (s.setWord a v).faultSeq = s.faultSeq := rfl
@[simp] theorem State.setWord_evCount (a : Nat) (v : Word) : (s.setWord a v).evCount = s.evCount := rfl
@[simp] theorem State.setWord_raised (a : Nat) (v : Word) : (s.setWord a v).raised = s.raised := rfl
@[simp] theorem State.setWord_traced (a : Nat) (v : Word) : (s.setWord a v).traced = s.traced := rfl
@[simp] theorem State.setWord_hazHeld (a : Nat) (v : Word) : (s.setWord a v).hazHeld = s.hazHeld := rfl
@[simp] theorem State.setWord_wxHeld (a : Nat) (v : Word) : (s.setWord a v).wxHeld = s.wxHeld := rfl
@[simp] theorem State.setWord_start (a : Nat) (v : Word) : (s.setWord a v).start = s.start := rfl
@[simp] theorem State.setWord_test (a : Nat) (v : Word) : (s.setWord a v).test = s.test := rfl

/-! `set` -/

@[simp] theorem State.set_pending (f : Fld) (v : Nat) : (s.set f v).pending = s.pending := rfl
@[simp] theorem State.set_free (f : Fld) (v : Nat) : (s.set f v).free = s.free := rfl
@[simp] theorem State.set_out (f : Fld) (v : Nat) : (s.set f v).out = s.out := rfl
@[simp] theorem State.set_time (f : Fld) (v : Nat) : (s.set f v).time = s.time := rfl
@[simp] theorem State.set_shadow (f : Fld) (v : Nat) : (s.set f v).shadow = s.shadow := rfl
@[simp] theorem State.set_cue (f : Fld) (v : Nat) : (s.set f v).cue = s.cue := rfl
@[simp] theorem State.set_sheet (f : Fld) (v : Nat) : (s.set f v).sheet = s.sheet := rfl
@[simp] theorem State.set_progs (f : Fld) (v : Nat) : (s.set f v).progs = s.progs := rfl
@[simp] theorem State.set_job (f : Fld) (v : Nat) : (s.set f v).job = s.job := rfl
@[simp] theorem State.set_acts (f : Fld) (v : Nat) : (s.set f v).acts = s.acts := rfl
@[simp] theorem State.set_cells (f : Fld) (v : Nat) : (s.set f v).cells = s.cells := rfl
@[simp] theorem State.set_cores (f : Fld) (v : Nat) : (s.set f v).cores = s.cores := rfl
@[simp] theorem State.set_movers (f : Fld) (v : Nat) : (s.set f v).movers = s.movers := rfl
@[simp] theorem State.set_nextReq (f : Fld) (v : Nat) : (s.set f v).nextReq = s.nextReq := rfl
@[simp] theorem State.set_groups (f : Fld) (v : Nat) : (s.set f v).groups = s.groups := rfl
@[simp] theorem State.set_scale (f : Fld) (v : Nat) : (s.set f v).scale = s.scale := rfl
@[simp] theorem State.set_upd (f : Fld) (v : Nat) : (s.set f v).upd = s.upd := rfl
@[simp] theorem State.set_mem (f : Fld) (v : Nat) : (s.set f v).mem = s.mem := rfl
@[simp] theorem State.set_t3 (f : Fld) (v : Nat) : (s.set f v).t3 = s.t3 := rfl
@[simp] theorem State.set_serves (f : Fld) (v : Nat) : (s.set f v).serves = s.serves := rfl
@[simp] theorem State.set_commit (f : Fld) (v : Nat) : (s.set f v).commit = s.commit := rfl
@[simp] theorem State.set_ports (f : Fld) (v : Nat) : (s.set f v).ports = s.ports := rfl
@[simp] theorem State.set_map (f : Fld) (v : Nat) : (s.set f v).map = s.map := rfl
@[simp] theorem State.set_pwr (f : Fld) (v : Nat) : (s.set f v).pwr = s.pwr := rfl
@[simp] theorem State.set_host (f : Fld) (v : Nat) : (s.set f v).host = s.host := rfl
@[simp] theorem State.set_cb (f : Fld) (v : Nat) : (s.set f v).cb = s.cb := rfl
@[simp] theorem State.set_mbox (f : Fld) (v : Nat) : (s.set f v).mbox = s.mbox := rfl
@[simp] theorem State.set_fw (f : Fld) (v : Nat) : (s.set f v).fw = s.fw := rfl
@[simp] theorem State.set_faults (f : Fld) (v : Nat) : (s.set f v).faults = s.faults := rfl
@[simp] theorem State.set_faultSeq (f : Fld) (v : Nat) : (s.set f v).faultSeq = s.faultSeq := rfl
@[simp] theorem State.set_evCount (f : Fld) (v : Nat) : (s.set f v).evCount = s.evCount := rfl
@[simp] theorem State.set_raised (f : Fld) (v : Nat) : (s.set f v).raised = s.raised := rfl
@[simp] theorem State.set_traced (f : Fld) (v : Nat) : (s.set f v).traced = s.traced := rfl
@[simp] theorem State.set_hazHeld (f : Fld) (v : Nat) : (s.set f v).hazHeld = s.hazHeld := rfl
@[simp] theorem State.set_wxHeld (f : Fld) (v : Nat) : (s.set f v).wxHeld = s.wxHeld := rfl
@[simp] theorem State.set_start (f : Fld) (v : Nat) : (s.set f v).start = s.start := rfl
@[simp] theorem State.set_test (f : Fld) (v : Nat) : (s.set f v).test = s.test := rfl

/-! `inc` -/

@[simp] theorem State.inc_pending (f : Fld) (n : Nat) : (s.inc f n).pending = s.pending := rfl
@[simp] theorem State.inc_free (f : Fld) (n : Nat) : (s.inc f n).free = s.free := rfl
@[simp] theorem State.inc_out (f : Fld) (n : Nat) : (s.inc f n).out = s.out := rfl
@[simp] theorem State.inc_time (f : Fld) (n : Nat) : (s.inc f n).time = s.time := rfl
@[simp] theorem State.inc_shadow (f : Fld) (n : Nat) : (s.inc f n).shadow = s.shadow := rfl
@[simp] theorem State.inc_cue (f : Fld) (n : Nat) : (s.inc f n).cue = s.cue := rfl
@[simp] theorem State.inc_sheet (f : Fld) (n : Nat) : (s.inc f n).sheet = s.sheet := rfl
@[simp] theorem State.inc_progs (f : Fld) (n : Nat) : (s.inc f n).progs = s.progs := rfl
@[simp] theorem State.inc_job (f : Fld) (n : Nat) : (s.inc f n).job = s.job := rfl
@[simp] theorem State.inc_acts (f : Fld) (n : Nat) : (s.inc f n).acts = s.acts := rfl
@[simp] theorem State.inc_cells (f : Fld) (n : Nat) : (s.inc f n).cells = s.cells := rfl
@[simp] theorem State.inc_cores (f : Fld) (n : Nat) : (s.inc f n).cores = s.cores := rfl
@[simp] theorem State.inc_movers (f : Fld) (n : Nat) : (s.inc f n).movers = s.movers := rfl
@[simp] theorem State.inc_nextReq (f : Fld) (n : Nat) : (s.inc f n).nextReq = s.nextReq := rfl
@[simp] theorem State.inc_groups (f : Fld) (n : Nat) : (s.inc f n).groups = s.groups := rfl
@[simp] theorem State.inc_scale (f : Fld) (n : Nat) : (s.inc f n).scale = s.scale := rfl
@[simp] theorem State.inc_upd (f : Fld) (n : Nat) : (s.inc f n).upd = s.upd := rfl
@[simp] theorem State.inc_mem (f : Fld) (n : Nat) : (s.inc f n).mem = s.mem := rfl
@[simp] theorem State.inc_t3 (f : Fld) (n : Nat) : (s.inc f n).t3 = s.t3 := rfl
@[simp] theorem State.inc_serves (f : Fld) (n : Nat) : (s.inc f n).serves = s.serves := rfl
@[simp] theorem State.inc_commit (f : Fld) (n : Nat) : (s.inc f n).commit = s.commit := rfl
@[simp] theorem State.inc_ports (f : Fld) (n : Nat) : (s.inc f n).ports = s.ports := rfl
@[simp] theorem State.inc_map (f : Fld) (n : Nat) : (s.inc f n).map = s.map := rfl
@[simp] theorem State.inc_pwr (f : Fld) (n : Nat) : (s.inc f n).pwr = s.pwr := rfl
@[simp] theorem State.inc_host (f : Fld) (n : Nat) : (s.inc f n).host = s.host := rfl
@[simp] theorem State.inc_cb (f : Fld) (n : Nat) : (s.inc f n).cb = s.cb := rfl
@[simp] theorem State.inc_mbox (f : Fld) (n : Nat) : (s.inc f n).mbox = s.mbox := rfl
@[simp] theorem State.inc_fw (f : Fld) (n : Nat) : (s.inc f n).fw = s.fw := rfl
@[simp] theorem State.inc_faults (f : Fld) (n : Nat) : (s.inc f n).faults = s.faults := rfl
@[simp] theorem State.inc_faultSeq (f : Fld) (n : Nat) : (s.inc f n).faultSeq = s.faultSeq := rfl
@[simp] theorem State.inc_evCount (f : Fld) (n : Nat) : (s.inc f n).evCount = s.evCount := rfl
@[simp] theorem State.inc_raised (f : Fld) (n : Nat) : (s.inc f n).raised = s.raised := rfl
@[simp] theorem State.inc_traced (f : Fld) (n : Nat) : (s.inc f n).traced = s.traced := rfl
@[simp] theorem State.inc_hazHeld (f : Fld) (n : Nat) : (s.inc f n).hazHeld = s.hazHeld := rfl
@[simp] theorem State.inc_wxHeld (f : Fld) (n : Nat) : (s.inc f n).wxHeld = s.wxHeld := rfl
@[simp] theorem State.inc_start (f : Fld) (n : Nat) : (s.inc f n).start = s.start := rfl
@[simp] theorem State.inc_test (f : Fld) (n : Nat) : (s.inc f n).test = s.test := rfl

/-! `set2` -/

@[simp] theorem State.set2_pending (lo hi : Fld) (v : Nat) : (s.set2 lo hi v).pending = s.pending := rfl
@[simp] theorem State.set2_free (lo hi : Fld) (v : Nat) : (s.set2 lo hi v).free = s.free := rfl
@[simp] theorem State.set2_out (lo hi : Fld) (v : Nat) : (s.set2 lo hi v).out = s.out := rfl
@[simp] theorem State.set2_time (lo hi : Fld) (v : Nat) : (s.set2 lo hi v).time = s.time := rfl
@[simp] theorem State.set2_shadow (lo hi : Fld) (v : Nat) : (s.set2 lo hi v).shadow = s.shadow := rfl
@[simp] theorem State.set2_cue (lo hi : Fld) (v : Nat) : (s.set2 lo hi v).cue = s.cue := rfl
@[simp] theorem State.set2_sheet (lo hi : Fld) (v : Nat) : (s.set2 lo hi v).sheet = s.sheet := rfl
@[simp] theorem State.set2_progs (lo hi : Fld) (v : Nat) : (s.set2 lo hi v).progs = s.progs := rfl
@[simp] theorem State.set2_job (lo hi : Fld) (v : Nat) : (s.set2 lo hi v).job = s.job := rfl
@[simp] theorem State.set2_acts (lo hi : Fld) (v : Nat) : (s.set2 lo hi v).acts = s.acts := rfl
@[simp] theorem State.set2_cells (lo hi : Fld) (v : Nat) : (s.set2 lo hi v).cells = s.cells := rfl
@[simp] theorem State.set2_cores (lo hi : Fld) (v : Nat) : (s.set2 lo hi v).cores = s.cores := rfl
@[simp] theorem State.set2_movers (lo hi : Fld) (v : Nat) : (s.set2 lo hi v).movers = s.movers := rfl
@[simp] theorem State.set2_nextReq (lo hi : Fld) (v : Nat) : (s.set2 lo hi v).nextReq = s.nextReq := rfl
@[simp] theorem State.set2_groups (lo hi : Fld) (v : Nat) : (s.set2 lo hi v).groups = s.groups := rfl
@[simp] theorem State.set2_scale (lo hi : Fld) (v : Nat) : (s.set2 lo hi v).scale = s.scale := rfl
@[simp] theorem State.set2_upd (lo hi : Fld) (v : Nat) : (s.set2 lo hi v).upd = s.upd := rfl
@[simp] theorem State.set2_mem (lo hi : Fld) (v : Nat) : (s.set2 lo hi v).mem = s.mem := rfl
@[simp] theorem State.set2_t3 (lo hi : Fld) (v : Nat) : (s.set2 lo hi v).t3 = s.t3 := rfl
@[simp] theorem State.set2_serves (lo hi : Fld) (v : Nat) : (s.set2 lo hi v).serves = s.serves := rfl
@[simp] theorem State.set2_commit (lo hi : Fld) (v : Nat) : (s.set2 lo hi v).commit = s.commit := rfl
@[simp] theorem State.set2_ports (lo hi : Fld) (v : Nat) : (s.set2 lo hi v).ports = s.ports := rfl
@[simp] theorem State.set2_map (lo hi : Fld) (v : Nat) : (s.set2 lo hi v).map = s.map := rfl
@[simp] theorem State.set2_pwr (lo hi : Fld) (v : Nat) : (s.set2 lo hi v).pwr = s.pwr := rfl
@[simp] theorem State.set2_host (lo hi : Fld) (v : Nat) : (s.set2 lo hi v).host = s.host := rfl
@[simp] theorem State.set2_cb (lo hi : Fld) (v : Nat) : (s.set2 lo hi v).cb = s.cb := rfl
@[simp] theorem State.set2_mbox (lo hi : Fld) (v : Nat) : (s.set2 lo hi v).mbox = s.mbox := rfl
@[simp] theorem State.set2_fw (lo hi : Fld) (v : Nat) : (s.set2 lo hi v).fw = s.fw := rfl
@[simp] theorem State.set2_faults (lo hi : Fld) (v : Nat) : (s.set2 lo hi v).faults = s.faults := rfl
@[simp] theorem State.set2_faultSeq (lo hi : Fld) (v : Nat) : (s.set2 lo hi v).faultSeq = s.faultSeq := rfl
@[simp] theorem State.set2_evCount (lo hi : Fld) (v : Nat) : (s.set2 lo hi v).evCount = s.evCount := rfl
@[simp] theorem State.set2_raised (lo hi : Fld) (v : Nat) : (s.set2 lo hi v).raised = s.raised := rfl
@[simp] theorem State.set2_traced (lo hi : Fld) (v : Nat) : (s.set2 lo hi v).traced = s.traced := rfl
@[simp] theorem State.set2_hazHeld (lo hi : Fld) (v : Nat) : (s.set2 lo hi v).hazHeld = s.hazHeld := rfl
@[simp] theorem State.set2_wxHeld (lo hi : Fld) (v : Nat) : (s.set2 lo hi v).wxHeld = s.wxHeld := rfl
@[simp] theorem State.set2_start (lo hi : Fld) (v : Nat) : (s.set2 lo hi v).start = s.start := rfl
@[simp] theorem State.set2_test (lo hi : Fld) (v : Nat) : (s.set2 lo hi v).test = s.test := rfl

/-! `setStaged` -/

@[simp] theorem State.setStaged_pending (f : Fld) (v : Nat) : (s.setStaged f v).pending = s.pending := rfl
@[simp] theorem State.setStaged_free (f : Fld) (v : Nat) : (s.setStaged f v).free = s.free := rfl
@[simp] theorem State.setStaged_out (f : Fld) (v : Nat) : (s.setStaged f v).out = s.out := rfl
@[simp] theorem State.setStaged_time (f : Fld) (v : Nat) : (s.setStaged f v).time = s.time := rfl
@[simp] theorem State.setStaged_regs (f : Fld) (v : Nat) : (s.setStaged f v).regs = s.regs := rfl
@[simp] theorem State.setStaged_cue (f : Fld) (v : Nat) : (s.setStaged f v).cue = s.cue := rfl
@[simp] theorem State.setStaged_sheet (f : Fld) (v : Nat) : (s.setStaged f v).sheet = s.sheet := rfl
@[simp] theorem State.setStaged_progs (f : Fld) (v : Nat) : (s.setStaged f v).progs = s.progs := rfl
@[simp] theorem State.setStaged_job (f : Fld) (v : Nat) : (s.setStaged f v).job = s.job := rfl
@[simp] theorem State.setStaged_acts (f : Fld) (v : Nat) : (s.setStaged f v).acts = s.acts := rfl
@[simp] theorem State.setStaged_cells (f : Fld) (v : Nat) : (s.setStaged f v).cells = s.cells := rfl
@[simp] theorem State.setStaged_cores (f : Fld) (v : Nat) : (s.setStaged f v).cores = s.cores := rfl
@[simp] theorem State.setStaged_movers (f : Fld) (v : Nat) : (s.setStaged f v).movers = s.movers := rfl
@[simp] theorem State.setStaged_nextReq (f : Fld) (v : Nat) : (s.setStaged f v).nextReq = s.nextReq := rfl
@[simp] theorem State.setStaged_groups (f : Fld) (v : Nat) : (s.setStaged f v).groups = s.groups := rfl
@[simp] theorem State.setStaged_scale (f : Fld) (v : Nat) : (s.setStaged f v).scale = s.scale := rfl
@[simp] theorem State.setStaged_upd (f : Fld) (v : Nat) : (s.setStaged f v).upd = s.upd := rfl
@[simp] theorem State.setStaged_mem (f : Fld) (v : Nat) : (s.setStaged f v).mem = s.mem := rfl
@[simp] theorem State.setStaged_t3 (f : Fld) (v : Nat) : (s.setStaged f v).t3 = s.t3 := rfl
@[simp] theorem State.setStaged_serves (f : Fld) (v : Nat) : (s.setStaged f v).serves = s.serves := rfl
@[simp] theorem State.setStaged_commit (f : Fld) (v : Nat) : (s.setStaged f v).commit = s.commit := rfl
@[simp] theorem State.setStaged_ports (f : Fld) (v : Nat) : (s.setStaged f v).ports = s.ports := rfl
@[simp] theorem State.setStaged_map (f : Fld) (v : Nat) : (s.setStaged f v).map = s.map := rfl
@[simp] theorem State.setStaged_pwr (f : Fld) (v : Nat) : (s.setStaged f v).pwr = s.pwr := rfl
@[simp] theorem State.setStaged_host (f : Fld) (v : Nat) : (s.setStaged f v).host = s.host := rfl
@[simp] theorem State.setStaged_cb (f : Fld) (v : Nat) : (s.setStaged f v).cb = s.cb := rfl
@[simp] theorem State.setStaged_mbox (f : Fld) (v : Nat) : (s.setStaged f v).mbox = s.mbox := rfl
@[simp] theorem State.setStaged_fw (f : Fld) (v : Nat) : (s.setStaged f v).fw = s.fw := rfl
@[simp] theorem State.setStaged_faults (f : Fld) (v : Nat) : (s.setStaged f v).faults = s.faults := rfl
@[simp] theorem State.setStaged_faultSeq (f : Fld) (v : Nat) : (s.setStaged f v).faultSeq = s.faultSeq := rfl
@[simp] theorem State.setStaged_evCount (f : Fld) (v : Nat) : (s.setStaged f v).evCount = s.evCount := rfl
@[simp] theorem State.setStaged_raised (f : Fld) (v : Nat) : (s.setStaged f v).raised = s.raised := rfl
@[simp] theorem State.setStaged_traced (f : Fld) (v : Nat) : (s.setStaged f v).traced = s.traced := rfl
@[simp] theorem State.setStaged_hazHeld (f : Fld) (v : Nat) : (s.setStaged f v).hazHeld = s.hazHeld := rfl
@[simp] theorem State.setStaged_wxHeld (f : Fld) (v : Nat) : (s.setStaged f v).wxHeld = s.wxHeld := rfl
@[simp] theorem State.setStaged_start (f : Fld) (v : Nat) : (s.setStaged f v).start = s.start := rfl
@[simp] theorem State.setStaged_test (f : Fld) (v : Nat) : (s.setStaged f v).test = s.test := rfl

/-! `setCell` -/

@[simp] theorem State.setCell_pending (c : Nat) (x : CellSt) : (s.setCell c x).pending = s.pending := rfl
@[simp] theorem State.setCell_free (c : Nat) (x : CellSt) : (s.setCell c x).free = s.free := rfl
@[simp] theorem State.setCell_out (c : Nat) (x : CellSt) : (s.setCell c x).out = s.out := rfl
@[simp] theorem State.setCell_time (c : Nat) (x : CellSt) : (s.setCell c x).time = s.time := rfl
@[simp] theorem State.setCell_regs (c : Nat) (x : CellSt) : (s.setCell c x).regs = s.regs := rfl
@[simp] theorem State.setCell_shadow (c : Nat) (x : CellSt) : (s.setCell c x).shadow = s.shadow := rfl
@[simp] theorem State.setCell_cue (c : Nat) (x : CellSt) : (s.setCell c x).cue = s.cue := rfl
@[simp] theorem State.setCell_sheet (c : Nat) (x : CellSt) : (s.setCell c x).sheet = s.sheet := rfl
@[simp] theorem State.setCell_progs (c : Nat) (x : CellSt) : (s.setCell c x).progs = s.progs := rfl
@[simp] theorem State.setCell_job (c : Nat) (x : CellSt) : (s.setCell c x).job = s.job := rfl
@[simp] theorem State.setCell_acts (c : Nat) (x : CellSt) : (s.setCell c x).acts = s.acts := rfl
@[simp] theorem State.setCell_cells (c : Nat) (x : CellSt) : (s.setCell c x).cells = AMap.put s.cells c x := rfl
@[simp] theorem State.setCell_cores (c : Nat) (x : CellSt) : (s.setCell c x).cores = s.cores := rfl
@[simp] theorem State.setCell_movers (c : Nat) (x : CellSt) : (s.setCell c x).movers = s.movers := rfl
@[simp] theorem State.setCell_nextReq (c : Nat) (x : CellSt) : (s.setCell c x).nextReq = s.nextReq := rfl
@[simp] theorem State.setCell_groups (c : Nat) (x : CellSt) : (s.setCell c x).groups = s.groups := rfl
@[simp] theorem State.setCell_scale (c : Nat) (x : CellSt) : (s.setCell c x).scale = s.scale := rfl
@[simp] theorem State.setCell_upd (c : Nat) (x : CellSt) : (s.setCell c x).upd = s.upd := rfl
@[simp] theorem State.setCell_mem (c : Nat) (x : CellSt) : (s.setCell c x).mem = s.mem := rfl
@[simp] theorem State.setCell_t3 (c : Nat) (x : CellSt) : (s.setCell c x).t3 = s.t3 := rfl
@[simp] theorem State.setCell_serves (c : Nat) (x : CellSt) : (s.setCell c x).serves = s.serves := rfl
@[simp] theorem State.setCell_commit (c : Nat) (x : CellSt) : (s.setCell c x).commit = s.commit := rfl
@[simp] theorem State.setCell_ports (c : Nat) (x : CellSt) : (s.setCell c x).ports = s.ports := rfl
@[simp] theorem State.setCell_map (c : Nat) (x : CellSt) : (s.setCell c x).map = s.map := rfl
@[simp] theorem State.setCell_pwr (c : Nat) (x : CellSt) : (s.setCell c x).pwr = s.pwr := rfl
@[simp] theorem State.setCell_host (c : Nat) (x : CellSt) : (s.setCell c x).host = s.host := rfl
@[simp] theorem State.setCell_cb (c : Nat) (x : CellSt) : (s.setCell c x).cb = s.cb := rfl
@[simp] theorem State.setCell_mbox (c : Nat) (x : CellSt) : (s.setCell c x).mbox = s.mbox := rfl
@[simp] theorem State.setCell_fw (c : Nat) (x : CellSt) : (s.setCell c x).fw = s.fw := rfl
@[simp] theorem State.setCell_faults (c : Nat) (x : CellSt) : (s.setCell c x).faults = s.faults := rfl
@[simp] theorem State.setCell_faultSeq (c : Nat) (x : CellSt) : (s.setCell c x).faultSeq = s.faultSeq := rfl
@[simp] theorem State.setCell_evCount (c : Nat) (x : CellSt) : (s.setCell c x).evCount = s.evCount := rfl
@[simp] theorem State.setCell_raised (c : Nat) (x : CellSt) : (s.setCell c x).raised = s.raised := rfl
@[simp] theorem State.setCell_traced (c : Nat) (x : CellSt) : (s.setCell c x).traced = s.traced := rfl
@[simp] theorem State.setCell_hazHeld (c : Nat) (x : CellSt) : (s.setCell c x).hazHeld = s.hazHeld := rfl
@[simp] theorem State.setCell_wxHeld (c : Nat) (x : CellSt) : (s.setCell c x).wxHeld = s.wxHeld := rfl
@[simp] theorem State.setCell_start (c : Nat) (x : CellSt) : (s.setCell c x).start = s.start := rfl
@[simp] theorem State.setCell_test (c : Nat) (x : CellSt) : (s.setCell c x).test = s.test := rfl

/-! `setCore` -/

@[simp] theorem State.setCore_pending (c k : Nat) (x : CoreSt) : (s.setCore c k x).pending = s.pending := rfl
@[simp] theorem State.setCore_free (c k : Nat) (x : CoreSt) : (s.setCore c k x).free = s.free := rfl
@[simp] theorem State.setCore_out (c k : Nat) (x : CoreSt) : (s.setCore c k x).out = s.out := rfl
@[simp] theorem State.setCore_time (c k : Nat) (x : CoreSt) : (s.setCore c k x).time = s.time := rfl
@[simp] theorem State.setCore_regs (c k : Nat) (x : CoreSt) : (s.setCore c k x).regs = s.regs := rfl
@[simp] theorem State.setCore_shadow (c k : Nat) (x : CoreSt) : (s.setCore c k x).shadow = s.shadow := rfl
@[simp] theorem State.setCore_cue (c k : Nat) (x : CoreSt) : (s.setCore c k x).cue = s.cue := rfl
@[simp] theorem State.setCore_sheet (c k : Nat) (x : CoreSt) : (s.setCore c k x).sheet = s.sheet := rfl
@[simp] theorem State.setCore_progs (c k : Nat) (x : CoreSt) : (s.setCore c k x).progs = s.progs := rfl
@[simp] theorem State.setCore_job (c k : Nat) (x : CoreSt) : (s.setCore c k x).job = s.job := rfl
@[simp] theorem State.setCore_acts (c k : Nat) (x : CoreSt) : (s.setCore c k x).acts = s.acts := rfl
@[simp] theorem State.setCore_cells (c k : Nat) (x : CoreSt) : (s.setCore c k x).cells = s.cells := rfl
@[simp] theorem State.setCore_cores (c k : Nat) (x : CoreSt) : (s.setCore c k x).cores = AMap.put s.cores (c * 32 + k) x := rfl
@[simp] theorem State.setCore_movers (c k : Nat) (x : CoreSt) : (s.setCore c k x).movers = s.movers := rfl
@[simp] theorem State.setCore_nextReq (c k : Nat) (x : CoreSt) : (s.setCore c k x).nextReq = s.nextReq := rfl
@[simp] theorem State.setCore_groups (c k : Nat) (x : CoreSt) : (s.setCore c k x).groups = s.groups := rfl
@[simp] theorem State.setCore_scale (c k : Nat) (x : CoreSt) : (s.setCore c k x).scale = s.scale := rfl
@[simp] theorem State.setCore_upd (c k : Nat) (x : CoreSt) : (s.setCore c k x).upd = s.upd := rfl
@[simp] theorem State.setCore_mem (c k : Nat) (x : CoreSt) : (s.setCore c k x).mem = s.mem := rfl
@[simp] theorem State.setCore_t3 (c k : Nat) (x : CoreSt) : (s.setCore c k x).t3 = s.t3 := rfl
@[simp] theorem State.setCore_serves (c k : Nat) (x : CoreSt) : (s.setCore c k x).serves = s.serves := rfl
@[simp] theorem State.setCore_commit (c k : Nat) (x : CoreSt) : (s.setCore c k x).commit = s.commit := rfl
@[simp] theorem State.setCore_ports (c k : Nat) (x : CoreSt) : (s.setCore c k x).ports = s.ports := rfl
@[simp] theorem State.setCore_map (c k : Nat) (x : CoreSt) : (s.setCore c k x).map = s.map := rfl
@[simp] theorem State.setCore_pwr (c k : Nat) (x : CoreSt) : (s.setCore c k x).pwr = s.pwr := rfl
@[simp] theorem State.setCore_host (c k : Nat) (x : CoreSt) : (s.setCore c k x).host = s.host := rfl
@[simp] theorem State.setCore_cb (c k : Nat) (x : CoreSt) : (s.setCore c k x).cb = s.cb := rfl
@[simp] theorem State.setCore_mbox (c k : Nat) (x : CoreSt) : (s.setCore c k x).mbox = s.mbox := rfl
@[simp] theorem State.setCore_fw (c k : Nat) (x : CoreSt) : (s.setCore c k x).fw = s.fw := rfl
@[simp] theorem State.setCore_faults (c k : Nat) (x : CoreSt) : (s.setCore c k x).faults = s.faults := rfl
@[simp] theorem State.setCore_faultSeq (c k : Nat) (x : CoreSt) : (s.setCore c k x).faultSeq = s.faultSeq := rfl
@[simp] theorem State.setCore_evCount (c k : Nat) (x : CoreSt) : (s.setCore c k x).evCount = s.evCount := rfl
@[simp] theorem State.setCore_raised (c k : Nat) (x : CoreSt) : (s.setCore c k x).raised = s.raised := rfl
@[simp] theorem State.setCore_traced (c k : Nat) (x : CoreSt) : (s.setCore c k x).traced = s.traced := rfl
@[simp] theorem State.setCore_hazHeld (c k : Nat) (x : CoreSt) : (s.setCore c k x).hazHeld = s.hazHeld := rfl
@[simp] theorem State.setCore_wxHeld (c k : Nat) (x : CoreSt) : (s.setCore c k x).wxHeld = s.wxHeld := rfl
@[simp] theorem State.setCore_start (c k : Nat) (x : CoreSt) : (s.setCore c k x).start = s.start := rfl
@[simp] theorem State.setCore_test (c k : Nat) (x : CoreSt) : (s.setCore c k x).test = s.test := rfl

/-! `setGroup` -/

@[simp] theorem State.setGroup_pending (g : Nat) (x : GroupSt) : (s.setGroup g x).pending = s.pending := rfl
@[simp] theorem State.setGroup_free (g : Nat) (x : GroupSt) : (s.setGroup g x).free = s.free := rfl
@[simp] theorem State.setGroup_out (g : Nat) (x : GroupSt) : (s.setGroup g x).out = s.out := rfl
@[simp] theorem State.setGroup_time (g : Nat) (x : GroupSt) : (s.setGroup g x).time = s.time := rfl
@[simp] theorem State.setGroup_regs (g : Nat) (x : GroupSt) : (s.setGroup g x).regs = s.regs := rfl
@[simp] theorem State.setGroup_shadow (g : Nat) (x : GroupSt) : (s.setGroup g x).shadow = s.shadow := rfl
@[simp] theorem State.setGroup_cue (g : Nat) (x : GroupSt) : (s.setGroup g x).cue = s.cue := rfl
@[simp] theorem State.setGroup_sheet (g : Nat) (x : GroupSt) : (s.setGroup g x).sheet = s.sheet := rfl
@[simp] theorem State.setGroup_progs (g : Nat) (x : GroupSt) : (s.setGroup g x).progs = s.progs := rfl
@[simp] theorem State.setGroup_job (g : Nat) (x : GroupSt) : (s.setGroup g x).job = s.job := rfl
@[simp] theorem State.setGroup_acts (g : Nat) (x : GroupSt) : (s.setGroup g x).acts = s.acts := rfl
@[simp] theorem State.setGroup_cells (g : Nat) (x : GroupSt) : (s.setGroup g x).cells = s.cells := rfl
@[simp] theorem State.setGroup_cores (g : Nat) (x : GroupSt) : (s.setGroup g x).cores = s.cores := rfl
@[simp] theorem State.setGroup_movers (g : Nat) (x : GroupSt) : (s.setGroup g x).movers = s.movers := rfl
@[simp] theorem State.setGroup_nextReq (g : Nat) (x : GroupSt) : (s.setGroup g x).nextReq = s.nextReq := rfl
@[simp] theorem State.setGroup_groups (g : Nat) (x : GroupSt) : (s.setGroup g x).groups = AMap.put s.groups g x := rfl
@[simp] theorem State.setGroup_scale (g : Nat) (x : GroupSt) : (s.setGroup g x).scale = s.scale := rfl
@[simp] theorem State.setGroup_upd (g : Nat) (x : GroupSt) : (s.setGroup g x).upd = s.upd := rfl
@[simp] theorem State.setGroup_mem (g : Nat) (x : GroupSt) : (s.setGroup g x).mem = s.mem := rfl
@[simp] theorem State.setGroup_t3 (g : Nat) (x : GroupSt) : (s.setGroup g x).t3 = s.t3 := rfl
@[simp] theorem State.setGroup_serves (g : Nat) (x : GroupSt) : (s.setGroup g x).serves = s.serves := rfl
@[simp] theorem State.setGroup_commit (g : Nat) (x : GroupSt) : (s.setGroup g x).commit = s.commit := rfl
@[simp] theorem State.setGroup_ports (g : Nat) (x : GroupSt) : (s.setGroup g x).ports = s.ports := rfl
@[simp] theorem State.setGroup_map (g : Nat) (x : GroupSt) : (s.setGroup g x).map = s.map := rfl
@[simp] theorem State.setGroup_pwr (g : Nat) (x : GroupSt) : (s.setGroup g x).pwr = s.pwr := rfl
@[simp] theorem State.setGroup_host (g : Nat) (x : GroupSt) : (s.setGroup g x).host = s.host := rfl
@[simp] theorem State.setGroup_cb (g : Nat) (x : GroupSt) : (s.setGroup g x).cb = s.cb := rfl
@[simp] theorem State.setGroup_mbox (g : Nat) (x : GroupSt) : (s.setGroup g x).mbox = s.mbox := rfl
@[simp] theorem State.setGroup_fw (g : Nat) (x : GroupSt) : (s.setGroup g x).fw = s.fw := rfl
@[simp] theorem State.setGroup_faults (g : Nat) (x : GroupSt) : (s.setGroup g x).faults = s.faults := rfl
@[simp] theorem State.setGroup_faultSeq (g : Nat) (x : GroupSt) : (s.setGroup g x).faultSeq = s.faultSeq := rfl
@[simp] theorem State.setGroup_evCount (g : Nat) (x : GroupSt) : (s.setGroup g x).evCount = s.evCount := rfl
@[simp] theorem State.setGroup_raised (g : Nat) (x : GroupSt) : (s.setGroup g x).raised = s.raised := rfl
@[simp] theorem State.setGroup_traced (g : Nat) (x : GroupSt) : (s.setGroup g x).traced = s.traced := rfl
@[simp] theorem State.setGroup_hazHeld (g : Nat) (x : GroupSt) : (s.setGroup g x).hazHeld = s.hazHeld := rfl
@[simp] theorem State.setGroup_wxHeld (g : Nat) (x : GroupSt) : (s.setGroup g x).wxHeld = s.wxHeld := rfl
@[simp] theorem State.setGroup_start (g : Nat) (x : GroupSt) : (s.setGroup g x).start = s.start := rfl
@[simp] theorem State.setGroup_test (g : Nat) (x : GroupSt) : (s.setGroup g x).test = s.test := rfl

/-! `setPort` -/

@[simp] theorem State.setPort_pending (p : Nat) (x : PortSt) : (s.setPort p x).pending = s.pending := rfl
@[simp] theorem State.setPort_free (p : Nat) (x : PortSt) : (s.setPort p x).free = s.free := rfl
@[simp] theorem State.setPort_out (p : Nat) (x : PortSt) : (s.setPort p x).out = s.out := rfl
@[simp] theorem State.setPort_time (p : Nat) (x : PortSt) : (s.setPort p x).time = s.time := rfl
@[simp] theorem State.setPort_regs (p : Nat) (x : PortSt) : (s.setPort p x).regs = s.regs := rfl
@[simp] theorem State.setPort_shadow (p : Nat) (x : PortSt) : (s.setPort p x).shadow = s.shadow := rfl
@[simp] theorem State.setPort_cue (p : Nat) (x : PortSt) : (s.setPort p x).cue = s.cue := rfl
@[simp] theorem State.setPort_sheet (p : Nat) (x : PortSt) : (s.setPort p x).sheet = s.sheet := rfl
@[simp] theorem State.setPort_progs (p : Nat) (x : PortSt) : (s.setPort p x).progs = s.progs := rfl
@[simp] theorem State.setPort_job (p : Nat) (x : PortSt) : (s.setPort p x).job = s.job := rfl
@[simp] theorem State.setPort_acts (p : Nat) (x : PortSt) : (s.setPort p x).acts = s.acts := rfl
@[simp] theorem State.setPort_cells (p : Nat) (x : PortSt) : (s.setPort p x).cells = s.cells := rfl
@[simp] theorem State.setPort_cores (p : Nat) (x : PortSt) : (s.setPort p x).cores = s.cores := rfl
@[simp] theorem State.setPort_movers (p : Nat) (x : PortSt) : (s.setPort p x).movers = s.movers := rfl
@[simp] theorem State.setPort_nextReq (p : Nat) (x : PortSt) : (s.setPort p x).nextReq = s.nextReq := rfl
@[simp] theorem State.setPort_groups (p : Nat) (x : PortSt) : (s.setPort p x).groups = s.groups := rfl
@[simp] theorem State.setPort_scale (p : Nat) (x : PortSt) : (s.setPort p x).scale = s.scale := rfl
@[simp] theorem State.setPort_upd (p : Nat) (x : PortSt) : (s.setPort p x).upd = s.upd := rfl
@[simp] theorem State.setPort_mem (p : Nat) (x : PortSt) : (s.setPort p x).mem = s.mem := rfl
@[simp] theorem State.setPort_t3 (p : Nat) (x : PortSt) : (s.setPort p x).t3 = s.t3 := rfl
@[simp] theorem State.setPort_serves (p : Nat) (x : PortSt) : (s.setPort p x).serves = s.serves := rfl
@[simp] theorem State.setPort_commit (p : Nat) (x : PortSt) : (s.setPort p x).commit = s.commit := rfl
@[simp] theorem State.setPort_ports (p : Nat) (x : PortSt) : (s.setPort p x).ports = AMap.put s.ports p x := rfl
@[simp] theorem State.setPort_map (p : Nat) (x : PortSt) : (s.setPort p x).map = s.map := rfl
@[simp] theorem State.setPort_pwr (p : Nat) (x : PortSt) : (s.setPort p x).pwr = s.pwr := rfl
@[simp] theorem State.setPort_host (p : Nat) (x : PortSt) : (s.setPort p x).host = s.host := rfl
@[simp] theorem State.setPort_cb (p : Nat) (x : PortSt) : (s.setPort p x).cb = s.cb := rfl
@[simp] theorem State.setPort_mbox (p : Nat) (x : PortSt) : (s.setPort p x).mbox = s.mbox := rfl
@[simp] theorem State.setPort_fw (p : Nat) (x : PortSt) : (s.setPort p x).fw = s.fw := rfl
@[simp] theorem State.setPort_faults (p : Nat) (x : PortSt) : (s.setPort p x).faults = s.faults := rfl
@[simp] theorem State.setPort_faultSeq (p : Nat) (x : PortSt) : (s.setPort p x).faultSeq = s.faultSeq := rfl
@[simp] theorem State.setPort_evCount (p : Nat) (x : PortSt) : (s.setPort p x).evCount = s.evCount := rfl
@[simp] theorem State.setPort_raised (p : Nat) (x : PortSt) : (s.setPort p x).raised = s.raised := rfl
@[simp] theorem State.setPort_traced (p : Nat) (x : PortSt) : (s.setPort p x).traced = s.traced := rfl
@[simp] theorem State.setPort_hazHeld (p : Nat) (x : PortSt) : (s.setPort p x).hazHeld = s.hazHeld := rfl
@[simp] theorem State.setPort_wxHeld (p : Nat) (x : PortSt) : (s.setPort p x).wxHeld = s.wxHeld := rfl
@[simp] theorem State.setPort_start (p : Nat) (x : PortSt) : (s.setPort p x).start = s.start := rfl
@[simp] theorem State.setPort_test (p : Nat) (x : PortSt) : (s.setPort p x).test = s.test := rfl

/-! `emit` -/

@[simp] theorem State.emit_pending (o : Out) : (s.emit o).pending = s.pending := rfl
@[simp] theorem State.emit_free (o : Out) : (s.emit o).free = s.free := rfl
@[simp] theorem State.emit_out (o : Out) : (s.emit o).out = s.out ++ [o] := rfl
@[simp] theorem State.emit_time (o : Out) : (s.emit o).time = s.time := rfl
@[simp] theorem State.emit_regs (o : Out) : (s.emit o).regs = s.regs := rfl
@[simp] theorem State.emit_shadow (o : Out) : (s.emit o).shadow = s.shadow := rfl
@[simp] theorem State.emit_cue (o : Out) : (s.emit o).cue = s.cue := rfl
@[simp] theorem State.emit_sheet (o : Out) : (s.emit o).sheet = s.sheet := rfl
@[simp] theorem State.emit_progs (o : Out) : (s.emit o).progs = s.progs := rfl
@[simp] theorem State.emit_job (o : Out) : (s.emit o).job = s.job := rfl
@[simp] theorem State.emit_acts (o : Out) : (s.emit o).acts = s.acts := rfl
@[simp] theorem State.emit_cells (o : Out) : (s.emit o).cells = s.cells := rfl
@[simp] theorem State.emit_cores (o : Out) : (s.emit o).cores = s.cores := rfl
@[simp] theorem State.emit_movers (o : Out) : (s.emit o).movers = s.movers := rfl
@[simp] theorem State.emit_nextReq (o : Out) : (s.emit o).nextReq = s.nextReq := rfl
@[simp] theorem State.emit_groups (o : Out) : (s.emit o).groups = s.groups := rfl
@[simp] theorem State.emit_scale (o : Out) : (s.emit o).scale = s.scale := rfl
@[simp] theorem State.emit_upd (o : Out) : (s.emit o).upd = s.upd := rfl
@[simp] theorem State.emit_mem (o : Out) : (s.emit o).mem = s.mem := rfl
@[simp] theorem State.emit_t3 (o : Out) : (s.emit o).t3 = s.t3 := rfl
@[simp] theorem State.emit_serves (o : Out) : (s.emit o).serves = s.serves := rfl
@[simp] theorem State.emit_commit (o : Out) : (s.emit o).commit = s.commit := rfl
@[simp] theorem State.emit_ports (o : Out) : (s.emit o).ports = s.ports := rfl
@[simp] theorem State.emit_map (o : Out) : (s.emit o).map = s.map := rfl
@[simp] theorem State.emit_pwr (o : Out) : (s.emit o).pwr = s.pwr := rfl
@[simp] theorem State.emit_host (o : Out) : (s.emit o).host = s.host := rfl
@[simp] theorem State.emit_cb (o : Out) : (s.emit o).cb = s.cb := rfl
@[simp] theorem State.emit_mbox (o : Out) : (s.emit o).mbox = s.mbox := rfl
@[simp] theorem State.emit_fw (o : Out) : (s.emit o).fw = s.fw := rfl
@[simp] theorem State.emit_faults (o : Out) : (s.emit o).faults = s.faults := rfl
@[simp] theorem State.emit_faultSeq (o : Out) : (s.emit o).faultSeq = s.faultSeq := rfl
@[simp] theorem State.emit_evCount (o : Out) : (s.emit o).evCount = s.evCount := rfl
@[simp] theorem State.emit_raised (o : Out) : (s.emit o).raised = s.raised := rfl
@[simp] theorem State.emit_traced (o : Out) : (s.emit o).traced = s.traced := rfl
@[simp] theorem State.emit_hazHeld (o : Out) : (s.emit o).hazHeld = s.hazHeld := rfl
@[simp] theorem State.emit_wxHeld (o : Out) : (s.emit o).wxHeld = s.wxHeld := rfl
@[simp] theorem State.emit_start (o : Out) : (s.emit o).start = s.start := rfl
@[simp] theorem State.emit_test (o : Out) : (s.emit o).test = s.test := rfl

/-! `setMem` -/

@[simp] theorem State.setMem_pending (m : MemSt) : (s.setMem m).pending = s.pending := rfl
@[simp] theorem State.setMem_free (m : MemSt) : (s.setMem m).free = s.free := rfl
@[simp] theorem State.setMem_out (m : MemSt) : (s.setMem m).out = s.out := rfl
@[simp] theorem State.setMem_time (m : MemSt) : (s.setMem m).time = s.time := rfl
@[simp] theorem State.setMem_regs (m : MemSt) : (s.setMem m).regs = s.regs := rfl
@[simp] theorem State.setMem_shadow (m : MemSt) : (s.setMem m).shadow = s.shadow := rfl
@[simp] theorem State.setMem_cue (m : MemSt) : (s.setMem m).cue = s.cue := rfl
@[simp] theorem State.setMem_sheet (m : MemSt) : (s.setMem m).sheet = s.sheet := rfl
@[simp] theorem State.setMem_progs (m : MemSt) : (s.setMem m).progs = s.progs := rfl
@[simp] theorem State.setMem_job (m : MemSt) : (s.setMem m).job = s.job := rfl
@[simp] theorem State.setMem_acts (m : MemSt) : (s.setMem m).acts = s.acts := rfl
@[simp] theorem State.setMem_cells (m : MemSt) : (s.setMem m).cells = s.cells := rfl
@[simp] theorem State.setMem_cores (m : MemSt) : (s.setMem m).cores = s.cores := rfl
@[simp] theorem State.setMem_movers (m : MemSt) : (s.setMem m).movers = s.movers := rfl
@[simp] theorem State.setMem_nextReq (m : MemSt) : (s.setMem m).nextReq = s.nextReq := rfl
@[simp] theorem State.setMem_groups (m : MemSt) : (s.setMem m).groups = s.groups := rfl
@[simp] theorem State.setMem_scale (m : MemSt) : (s.setMem m).scale = s.scale := rfl
@[simp] theorem State.setMem_upd (m : MemSt) : (s.setMem m).upd = s.upd := rfl
@[simp] theorem State.setMem_mem (m : MemSt) : (s.setMem m).mem = m := rfl
@[simp] theorem State.setMem_t3 (m : MemSt) : (s.setMem m).t3 = s.t3 := rfl
@[simp] theorem State.setMem_serves (m : MemSt) : (s.setMem m).serves = s.serves := rfl
@[simp] theorem State.setMem_commit (m : MemSt) : (s.setMem m).commit = s.commit := rfl
@[simp] theorem State.setMem_ports (m : MemSt) : (s.setMem m).ports = s.ports := rfl
@[simp] theorem State.setMem_map (m : MemSt) : (s.setMem m).map = s.map := rfl
@[simp] theorem State.setMem_pwr (m : MemSt) : (s.setMem m).pwr = s.pwr := rfl
@[simp] theorem State.setMem_host (m : MemSt) : (s.setMem m).host = s.host := rfl
@[simp] theorem State.setMem_cb (m : MemSt) : (s.setMem m).cb = s.cb := rfl
@[simp] theorem State.setMem_mbox (m : MemSt) : (s.setMem m).mbox = s.mbox := rfl
@[simp] theorem State.setMem_fw (m : MemSt) : (s.setMem m).fw = s.fw := rfl
@[simp] theorem State.setMem_faults (m : MemSt) : (s.setMem m).faults = s.faults := rfl
@[simp] theorem State.setMem_faultSeq (m : MemSt) : (s.setMem m).faultSeq = s.faultSeq := rfl
@[simp] theorem State.setMem_evCount (m : MemSt) : (s.setMem m).evCount = s.evCount := rfl
@[simp] theorem State.setMem_raised (m : MemSt) : (s.setMem m).raised = s.raised := rfl
@[simp] theorem State.setMem_traced (m : MemSt) : (s.setMem m).traced = s.traced := rfl
@[simp] theorem State.setMem_hazHeld (m : MemSt) : (s.setMem m).hazHeld = s.hazHeld := rfl
@[simp] theorem State.setMem_wxHeld (m : MemSt) : (s.setMem m).wxHeld = s.wxHeld := rfl
@[simp] theorem State.setMem_start (m : MemSt) : (s.setMem m).start = s.start := rfl
@[simp] theorem State.setMem_test (m : MemSt) : (s.setMem m).test = s.test := rfl

/-! `setPwr` -/

@[simp] theorem State.setPwr_pending (x : PwrSt) : (s.setPwr x).pending = s.pending := rfl
@[simp] theorem State.setPwr_free (x : PwrSt) : (s.setPwr x).free = s.free := rfl
@[simp] theorem State.setPwr_out (x : PwrSt) : (s.setPwr x).out = s.out := rfl
@[simp] theorem State.setPwr_time (x : PwrSt) : (s.setPwr x).time = s.time := rfl
@[simp] theorem State.setPwr_regs (x : PwrSt) : (s.setPwr x).regs = s.regs := rfl
@[simp] theorem State.setPwr_shadow (x : PwrSt) : (s.setPwr x).shadow = s.shadow := rfl
@[simp] theorem State.setPwr_cue (x : PwrSt) : (s.setPwr x).cue = s.cue := rfl
@[simp] theorem State.setPwr_sheet (x : PwrSt) : (s.setPwr x).sheet = s.sheet := rfl
@[simp] theorem State.setPwr_progs (x : PwrSt) : (s.setPwr x).progs = s.progs := rfl
@[simp] theorem State.setPwr_job (x : PwrSt) : (s.setPwr x).job = s.job := rfl
@[simp] theorem State.setPwr_acts (x : PwrSt) : (s.setPwr x).acts = s.acts := rfl
@[simp] theorem State.setPwr_cells (x : PwrSt) : (s.setPwr x).cells = s.cells := rfl
@[simp] theorem State.setPwr_cores (x : PwrSt) : (s.setPwr x).cores = s.cores := rfl
@[simp] theorem State.setPwr_movers (x : PwrSt) : (s.setPwr x).movers = s.movers := rfl
@[simp] theorem State.setPwr_nextReq (x : PwrSt) : (s.setPwr x).nextReq = s.nextReq := rfl
@[simp] theorem State.setPwr_groups (x : PwrSt) : (s.setPwr x).groups = s.groups := rfl
@[simp] theorem State.setPwr_scale (x : PwrSt) : (s.setPwr x).scale = s.scale := rfl
@[simp] theorem State.setPwr_upd (x : PwrSt) : (s.setPwr x).upd = s.upd := rfl
@[simp] theorem State.setPwr_mem (x : PwrSt) : (s.setPwr x).mem = s.mem := rfl
@[simp] theorem State.setPwr_t3 (x : PwrSt) : (s.setPwr x).t3 = s.t3 := rfl
@[simp] theorem State.setPwr_serves (x : PwrSt) : (s.setPwr x).serves = s.serves := rfl
@[simp] theorem State.setPwr_commit (x : PwrSt) : (s.setPwr x).commit = s.commit := rfl
@[simp] theorem State.setPwr_ports (x : PwrSt) : (s.setPwr x).ports = s.ports := rfl
@[simp] theorem State.setPwr_map (x : PwrSt) : (s.setPwr x).map = s.map := rfl
@[simp] theorem State.setPwr_pwr (x : PwrSt) : (s.setPwr x).pwr = x := rfl
@[simp] theorem State.setPwr_host (x : PwrSt) : (s.setPwr x).host = s.host := rfl
@[simp] theorem State.setPwr_cb (x : PwrSt) : (s.setPwr x).cb = s.cb := rfl
@[simp] theorem State.setPwr_mbox (x : PwrSt) : (s.setPwr x).mbox = s.mbox := rfl
@[simp] theorem State.setPwr_fw (x : PwrSt) : (s.setPwr x).fw = s.fw := rfl
@[simp] theorem State.setPwr_faults (x : PwrSt) : (s.setPwr x).faults = s.faults := rfl
@[simp] theorem State.setPwr_faultSeq (x : PwrSt) : (s.setPwr x).faultSeq = s.faultSeq := rfl
@[simp] theorem State.setPwr_evCount (x : PwrSt) : (s.setPwr x).evCount = s.evCount := rfl
@[simp] theorem State.setPwr_raised (x : PwrSt) : (s.setPwr x).raised = s.raised := rfl
@[simp] theorem State.setPwr_traced (x : PwrSt) : (s.setPwr x).traced = s.traced := rfl
@[simp] theorem State.setPwr_hazHeld (x : PwrSt) : (s.setPwr x).hazHeld = s.hazHeld := rfl
@[simp] theorem State.setPwr_wxHeld (x : PwrSt) : (s.setPwr x).wxHeld = s.wxHeld := rfl
@[simp] theorem State.setPwr_start (x : PwrSt) : (s.setPwr x).start = s.start := rfl
@[simp] theorem State.setPwr_test (x : PwrSt) : (s.setPwr x).test = s.test := rfl

/-! `setAct` -/

@[simp] theorem State.setAct_pending (a : ActiveAct) : (s.setAct a).pending = s.pending := rfl
@[simp] theorem State.setAct_free (a : ActiveAct) : (s.setAct a).free = s.free := rfl
@[simp] theorem State.setAct_out (a : ActiveAct) : (s.setAct a).out = s.out := rfl
@[simp] theorem State.setAct_time (a : ActiveAct) : (s.setAct a).time = s.time := rfl
@[simp] theorem State.setAct_regs (a : ActiveAct) : (s.setAct a).regs = s.regs := rfl
@[simp] theorem State.setAct_shadow (a : ActiveAct) : (s.setAct a).shadow = s.shadow := rfl
@[simp] theorem State.setAct_cue (a : ActiveAct) : (s.setAct a).cue = s.cue := rfl
@[simp] theorem State.setAct_sheet (a : ActiveAct) : (s.setAct a).sheet = s.sheet := rfl
@[simp] theorem State.setAct_progs (a : ActiveAct) : (s.setAct a).progs = s.progs := rfl
@[simp] theorem State.setAct_job (a : ActiveAct) : (s.setAct a).job = s.job := rfl
@[simp] theorem State.setAct_acts (a : ActiveAct) : (s.setAct a).acts = s.acts.map fun b => if b.desc.act = a.desc.act then a else b := rfl
@[simp] theorem State.setAct_cells (a : ActiveAct) : (s.setAct a).cells = s.cells := rfl
@[simp] theorem State.setAct_cores (a : ActiveAct) : (s.setAct a).cores = s.cores := rfl
@[simp] theorem State.setAct_movers (a : ActiveAct) : (s.setAct a).movers = s.movers := rfl
@[simp] theorem State.setAct_nextReq (a : ActiveAct) : (s.setAct a).nextReq = s.nextReq := rfl
@[simp] theorem State.setAct_groups (a : ActiveAct) : (s.setAct a).groups = s.groups := rfl
@[simp] theorem State.setAct_scale (a : ActiveAct) : (s.setAct a).scale = s.scale := rfl
@[simp] theorem State.setAct_upd (a : ActiveAct) : (s.setAct a).upd = s.upd := rfl
@[simp] theorem State.setAct_mem (a : ActiveAct) : (s.setAct a).mem = s.mem := rfl
@[simp] theorem State.setAct_t3 (a : ActiveAct) : (s.setAct a).t3 = s.t3 := rfl
@[simp] theorem State.setAct_serves (a : ActiveAct) : (s.setAct a).serves = s.serves := rfl
@[simp] theorem State.setAct_commit (a : ActiveAct) : (s.setAct a).commit = s.commit := rfl
@[simp] theorem State.setAct_ports (a : ActiveAct) : (s.setAct a).ports = s.ports := rfl
@[simp] theorem State.setAct_map (a : ActiveAct) : (s.setAct a).map = s.map := rfl
@[simp] theorem State.setAct_pwr (a : ActiveAct) : (s.setAct a).pwr = s.pwr := rfl
@[simp] theorem State.setAct_host (a : ActiveAct) : (s.setAct a).host = s.host := rfl
@[simp] theorem State.setAct_cb (a : ActiveAct) : (s.setAct a).cb = s.cb := rfl
@[simp] theorem State.setAct_mbox (a : ActiveAct) : (s.setAct a).mbox = s.mbox := rfl
@[simp] theorem State.setAct_fw (a : ActiveAct) : (s.setAct a).fw = s.fw := rfl
@[simp] theorem State.setAct_faults (a : ActiveAct) : (s.setAct a).faults = s.faults := rfl
@[simp] theorem State.setAct_faultSeq (a : ActiveAct) : (s.setAct a).faultSeq = s.faultSeq := rfl
@[simp] theorem State.setAct_evCount (a : ActiveAct) : (s.setAct a).evCount = s.evCount := rfl
@[simp] theorem State.setAct_raised (a : ActiveAct) : (s.setAct a).raised = s.raised := rfl
@[simp] theorem State.setAct_traced (a : ActiveAct) : (s.setAct a).traced = s.traced := rfl
@[simp] theorem State.setAct_hazHeld (a : ActiveAct) : (s.setAct a).hazHeld = s.hazHeld := rfl
@[simp] theorem State.setAct_wxHeld (a : ActiveAct) : (s.setAct a).wxHeld = s.wxHeld := rfl
@[simp] theorem State.setAct_start (a : ActiveAct) : (s.setAct a).start = s.start := rfl
@[simp] theorem State.setAct_test (a : ActiveAct) : (s.setAct a).test = s.test := rfl

/-! `lsWrite` -/

@[simp] theorem State.lsWrite_pending (c k a : Nat) (l : List Byte) : (s.lsWrite c k a l).pending = s.pending := rfl
@[simp] theorem State.lsWrite_free (c k a : Nat) (l : List Byte) : (s.lsWrite c k a l).free = s.free := rfl
@[simp] theorem State.lsWrite_out (c k a : Nat) (l : List Byte) : (s.lsWrite c k a l).out = s.out := rfl
@[simp] theorem State.lsWrite_time (c k a : Nat) (l : List Byte) : (s.lsWrite c k a l).time = s.time := rfl
@[simp] theorem State.lsWrite_regs (c k a : Nat) (l : List Byte) : (s.lsWrite c k a l).regs = s.regs := rfl
@[simp] theorem State.lsWrite_shadow (c k a : Nat) (l : List Byte) : (s.lsWrite c k a l).shadow = s.shadow := rfl
@[simp] theorem State.lsWrite_cue (c k a : Nat) (l : List Byte) : (s.lsWrite c k a l).cue = s.cue := rfl
@[simp] theorem State.lsWrite_sheet (c k a : Nat) (l : List Byte) : (s.lsWrite c k a l).sheet = s.sheet := rfl
@[simp] theorem State.lsWrite_progs (c k a : Nat) (l : List Byte) : (s.lsWrite c k a l).progs = s.progs := rfl
@[simp] theorem State.lsWrite_job (c k a : Nat) (l : List Byte) : (s.lsWrite c k a l).job = s.job := rfl
@[simp] theorem State.lsWrite_acts (c k a : Nat) (l : List Byte) : (s.lsWrite c k a l).acts = s.acts := rfl
@[simp] theorem State.lsWrite_cells (c k a : Nat) (l : List Byte) : (s.lsWrite c k a l).cells = s.cells := rfl
@[simp] theorem State.lsWrite_movers (c k a : Nat) (l : List Byte) : (s.lsWrite c k a l).movers = s.movers := rfl
@[simp] theorem State.lsWrite_nextReq (c k a : Nat) (l : List Byte) : (s.lsWrite c k a l).nextReq = s.nextReq := rfl
@[simp] theorem State.lsWrite_groups (c k a : Nat) (l : List Byte) : (s.lsWrite c k a l).groups = s.groups := rfl
@[simp] theorem State.lsWrite_scale (c k a : Nat) (l : List Byte) : (s.lsWrite c k a l).scale = s.scale := rfl
@[simp] theorem State.lsWrite_upd (c k a : Nat) (l : List Byte) : (s.lsWrite c k a l).upd = s.upd := rfl
@[simp] theorem State.lsWrite_mem (c k a : Nat) (l : List Byte) : (s.lsWrite c k a l).mem = s.mem := rfl
@[simp] theorem State.lsWrite_t3 (c k a : Nat) (l : List Byte) : (s.lsWrite c k a l).t3 = s.t3 := rfl
@[simp] theorem State.lsWrite_serves (c k a : Nat) (l : List Byte) : (s.lsWrite c k a l).serves = s.serves := rfl
@[simp] theorem State.lsWrite_commit (c k a : Nat) (l : List Byte) : (s.lsWrite c k a l).commit = s.commit := rfl
@[simp] theorem State.lsWrite_ports (c k a : Nat) (l : List Byte) : (s.lsWrite c k a l).ports = s.ports := rfl
@[simp] theorem State.lsWrite_map (c k a : Nat) (l : List Byte) : (s.lsWrite c k a l).map = s.map := rfl
@[simp] theorem State.lsWrite_pwr (c k a : Nat) (l : List Byte) : (s.lsWrite c k a l).pwr = s.pwr := rfl
@[simp] theorem State.lsWrite_host (c k a : Nat) (l : List Byte) : (s.lsWrite c k a l).host = s.host := rfl
@[simp] theorem State.lsWrite_cb (c k a : Nat) (l : List Byte) : (s.lsWrite c k a l).cb = s.cb := rfl
@[simp] theorem State.lsWrite_mbox (c k a : Nat) (l : List Byte) : (s.lsWrite c k a l).mbox = s.mbox := rfl
@[simp] theorem State.lsWrite_fw (c k a : Nat) (l : List Byte) : (s.lsWrite c k a l).fw = s.fw := rfl
@[simp] theorem State.lsWrite_faults (c k a : Nat) (l : List Byte) : (s.lsWrite c k a l).faults = s.faults := rfl
@[simp] theorem State.lsWrite_faultSeq (c k a : Nat) (l : List Byte) : (s.lsWrite c k a l).faultSeq = s.faultSeq := rfl
@[simp] theorem State.lsWrite_evCount (c k a : Nat) (l : List Byte) : (s.lsWrite c k a l).evCount = s.evCount := rfl
@[simp] theorem State.lsWrite_raised (c k a : Nat) (l : List Byte) : (s.lsWrite c k a l).raised = s.raised := rfl
@[simp] theorem State.lsWrite_traced (c k a : Nat) (l : List Byte) : (s.lsWrite c k a l).traced = s.traced := rfl
@[simp] theorem State.lsWrite_hazHeld (c k a : Nat) (l : List Byte) : (s.lsWrite c k a l).hazHeld = s.hazHeld := rfl
@[simp] theorem State.lsWrite_wxHeld (c k a : Nat) (l : List Byte) : (s.lsWrite c k a l).wxHeld = s.wxHeld := rfl
@[simp] theorem State.lsWrite_start (c k a : Nat) (l : List Byte) : (s.lsWrite c k a l).start = s.start := rfl
@[simp] theorem State.lsWrite_test (c k a : Nat) (l : List Byte) : (s.lsWrite c k a l).test = s.test := rfl

/-! `accWrite` -/

@[simp] theorem State.accWrite_pending (c k e : Nat) (l : List Word) : (s.accWrite c k e l).pending = s.pending := rfl
@[simp] theorem State.accWrite_free (c k e : Nat) (l : List Word) : (s.accWrite c k e l).free = s.free := rfl
@[simp] theorem State.accWrite_out (c k e : Nat) (l : List Word) : (s.accWrite c k e l).out = s.out := rfl
@[simp] theorem State.accWrite_time (c k e : Nat) (l : List Word) : (s.accWrite c k e l).time = s.time := rfl
@[simp] theorem State.accWrite_regs (c k e : Nat) (l : List Word) : (s.accWrite c k e l).regs = s.regs := rfl
@[simp] theorem State.accWrite_shadow (c k e : Nat) (l : List Word) : (s.accWrite c k e l).shadow = s.shadow := rfl
@[simp] theorem State.accWrite_cue (c k e : Nat) (l : List Word) : (s.accWrite c k e l).cue = s.cue := rfl
@[simp] theorem State.accWrite_sheet (c k e : Nat) (l : List Word) : (s.accWrite c k e l).sheet = s.sheet := rfl
@[simp] theorem State.accWrite_progs (c k e : Nat) (l : List Word) : (s.accWrite c k e l).progs = s.progs := rfl
@[simp] theorem State.accWrite_job (c k e : Nat) (l : List Word) : (s.accWrite c k e l).job = s.job := rfl
@[simp] theorem State.accWrite_acts (c k e : Nat) (l : List Word) : (s.accWrite c k e l).acts = s.acts := rfl
@[simp] theorem State.accWrite_cells (c k e : Nat) (l : List Word) : (s.accWrite c k e l).cells = s.cells := rfl
@[simp] theorem State.accWrite_movers (c k e : Nat) (l : List Word) : (s.accWrite c k e l).movers = s.movers := rfl
@[simp] theorem State.accWrite_nextReq (c k e : Nat) (l : List Word) : (s.accWrite c k e l).nextReq = s.nextReq := rfl
@[simp] theorem State.accWrite_groups (c k e : Nat) (l : List Word) : (s.accWrite c k e l).groups = s.groups := rfl
@[simp] theorem State.accWrite_scale (c k e : Nat) (l : List Word) : (s.accWrite c k e l).scale = s.scale := rfl
@[simp] theorem State.accWrite_upd (c k e : Nat) (l : List Word) : (s.accWrite c k e l).upd = s.upd := rfl
@[simp] theorem State.accWrite_mem (c k e : Nat) (l : List Word) : (s.accWrite c k e l).mem = s.mem := rfl
@[simp] theorem State.accWrite_t3 (c k e : Nat) (l : List Word) : (s.accWrite c k e l).t3 = s.t3 := rfl
@[simp] theorem State.accWrite_serves (c k e : Nat) (l : List Word) : (s.accWrite c k e l).serves = s.serves := rfl
@[simp] theorem State.accWrite_commit (c k e : Nat) (l : List Word) : (s.accWrite c k e l).commit = s.commit := rfl
@[simp] theorem State.accWrite_ports (c k e : Nat) (l : List Word) : (s.accWrite c k e l).ports = s.ports := rfl
@[simp] theorem State.accWrite_map (c k e : Nat) (l : List Word) : (s.accWrite c k e l).map = s.map := rfl
@[simp] theorem State.accWrite_pwr (c k e : Nat) (l : List Word) : (s.accWrite c k e l).pwr = s.pwr := rfl
@[simp] theorem State.accWrite_host (c k e : Nat) (l : List Word) : (s.accWrite c k e l).host = s.host := rfl
@[simp] theorem State.accWrite_cb (c k e : Nat) (l : List Word) : (s.accWrite c k e l).cb = s.cb := rfl
@[simp] theorem State.accWrite_mbox (c k e : Nat) (l : List Word) : (s.accWrite c k e l).mbox = s.mbox := rfl
@[simp] theorem State.accWrite_fw (c k e : Nat) (l : List Word) : (s.accWrite c k e l).fw = s.fw := rfl
@[simp] theorem State.accWrite_faults (c k e : Nat) (l : List Word) : (s.accWrite c k e l).faults = s.faults := rfl
@[simp] theorem State.accWrite_faultSeq (c k e : Nat) (l : List Word) : (s.accWrite c k e l).faultSeq = s.faultSeq := rfl
@[simp] theorem State.accWrite_evCount (c k e : Nat) (l : List Word) : (s.accWrite c k e l).evCount = s.evCount := rfl
@[simp] theorem State.accWrite_raised (c k e : Nat) (l : List Word) : (s.accWrite c k e l).raised = s.raised := rfl
@[simp] theorem State.accWrite_traced (c k e : Nat) (l : List Word) : (s.accWrite c k e l).traced = s.traced := rfl
@[simp] theorem State.accWrite_hazHeld (c k e : Nat) (l : List Word) : (s.accWrite c k e l).hazHeld = s.hazHeld := rfl
@[simp] theorem State.accWrite_wxHeld (c k e : Nat) (l : List Word) : (s.accWrite c k e l).wxHeld = s.wxHeld := rfl
@[simp] theorem State.accWrite_start (c k e : Nat) (l : List Word) : (s.accWrite c k e l).start = s.start := rfl
@[simp] theorem State.accWrite_test (c k e : Nat) (l : List Word) : (s.accWrite c k e l).test = s.test := rfl

/-! `csWrite` -/

@[simp] theorem State.csWrite_pending (c a : Nat) (l : List Byte) : (s.csWrite c a l).pending = s.pending := rfl
@[simp] theorem State.csWrite_free (c a : Nat) (l : List Byte) : (s.csWrite c a l).free = s.free := rfl
@[simp] theorem State.csWrite_out (c a : Nat) (l : List Byte) : (s.csWrite c a l).out = s.out := rfl
@[simp] theorem State.csWrite_time (c a : Nat) (l : List Byte) : (s.csWrite c a l).time = s.time := rfl
@[simp] theorem State.csWrite_regs (c a : Nat) (l : List Byte) : (s.csWrite c a l).regs = s.regs := rfl
@[simp] theorem State.csWrite_shadow (c a : Nat) (l : List Byte) : (s.csWrite c a l).shadow = s.shadow := rfl
@[simp] theorem State.csWrite_cue (c a : Nat) (l : List Byte) : (s.csWrite c a l).cue = s.cue := rfl
@[simp] theorem State.csWrite_sheet (c a : Nat) (l : List Byte) : (s.csWrite c a l).sheet = s.sheet := rfl
@[simp] theorem State.csWrite_progs (c a : Nat) (l : List Byte) : (s.csWrite c a l).progs = s.progs := rfl
@[simp] theorem State.csWrite_job (c a : Nat) (l : List Byte) : (s.csWrite c a l).job = s.job := rfl
@[simp] theorem State.csWrite_acts (c a : Nat) (l : List Byte) : (s.csWrite c a l).acts = s.acts := rfl
@[simp] theorem State.csWrite_cores (c a : Nat) (l : List Byte) : (s.csWrite c a l).cores = s.cores := rfl
@[simp] theorem State.csWrite_movers (c a : Nat) (l : List Byte) : (s.csWrite c a l).movers = s.movers := rfl
@[simp] theorem State.csWrite_nextReq (c a : Nat) (l : List Byte) : (s.csWrite c a l).nextReq = s.nextReq := rfl
@[simp] theorem State.csWrite_groups (c a : Nat) (l : List Byte) : (s.csWrite c a l).groups = s.groups := rfl
@[simp] theorem State.csWrite_scale (c a : Nat) (l : List Byte) : (s.csWrite c a l).scale = s.scale := rfl
@[simp] theorem State.csWrite_upd (c a : Nat) (l : List Byte) : (s.csWrite c a l).upd = s.upd := rfl
@[simp] theorem State.csWrite_mem (c a : Nat) (l : List Byte) : (s.csWrite c a l).mem = s.mem := rfl
@[simp] theorem State.csWrite_t3 (c a : Nat) (l : List Byte) : (s.csWrite c a l).t3 = s.t3 := rfl
@[simp] theorem State.csWrite_serves (c a : Nat) (l : List Byte) : (s.csWrite c a l).serves = s.serves := rfl
@[simp] theorem State.csWrite_commit (c a : Nat) (l : List Byte) : (s.csWrite c a l).commit = s.commit := rfl
@[simp] theorem State.csWrite_ports (c a : Nat) (l : List Byte) : (s.csWrite c a l).ports = s.ports := rfl
@[simp] theorem State.csWrite_map (c a : Nat) (l : List Byte) : (s.csWrite c a l).map = s.map := rfl
@[simp] theorem State.csWrite_pwr (c a : Nat) (l : List Byte) : (s.csWrite c a l).pwr = s.pwr := rfl
@[simp] theorem State.csWrite_host (c a : Nat) (l : List Byte) : (s.csWrite c a l).host = s.host := rfl
@[simp] theorem State.csWrite_cb (c a : Nat) (l : List Byte) : (s.csWrite c a l).cb = s.cb := rfl
@[simp] theorem State.csWrite_mbox (c a : Nat) (l : List Byte) : (s.csWrite c a l).mbox = s.mbox := rfl
@[simp] theorem State.csWrite_fw (c a : Nat) (l : List Byte) : (s.csWrite c a l).fw = s.fw := rfl
@[simp] theorem State.csWrite_faults (c a : Nat) (l : List Byte) : (s.csWrite c a l).faults = s.faults := rfl
@[simp] theorem State.csWrite_faultSeq (c a : Nat) (l : List Byte) : (s.csWrite c a l).faultSeq = s.faultSeq := rfl
@[simp] theorem State.csWrite_evCount (c a : Nat) (l : List Byte) : (s.csWrite c a l).evCount = s.evCount := rfl
@[simp] theorem State.csWrite_raised (c a : Nat) (l : List Byte) : (s.csWrite c a l).raised = s.raised := rfl
@[simp] theorem State.csWrite_traced (c a : Nat) (l : List Byte) : (s.csWrite c a l).traced = s.traced := rfl
@[simp] theorem State.csWrite_hazHeld (c a : Nat) (l : List Byte) : (s.csWrite c a l).hazHeld = s.hazHeld := rfl
@[simp] theorem State.csWrite_wxHeld (c a : Nat) (l : List Byte) : (s.csWrite c a l).wxHeld = s.wxHeld := rfl
@[simp] theorem State.csWrite_start (c a : Nat) (l : List Byte) : (s.csWrite c a l).start = s.start := rfl
@[simp] theorem State.csWrite_test (c a : Nat) (l : List Byte) : (s.csWrite c a l).test = s.test := rfl

/-! `drawWord` -/

@[simp] theorem State.drawWord_pending : (s.drawWord.2).pending = s.pending := rfl
@[simp] theorem State.drawWord_free : (s.drawWord.2).free = s.free + 1 := rfl
@[simp] theorem State.drawWord_out : (s.drawWord.2).out = s.out := rfl
@[simp] theorem State.drawWord_time : (s.drawWord.2).time = s.time := rfl
@[simp] theorem State.drawWord_regs : (s.drawWord.2).regs = s.regs := rfl
@[simp] theorem State.drawWord_shadow : (s.drawWord.2).shadow = s.shadow := rfl
@[simp] theorem State.drawWord_cue : (s.drawWord.2).cue = s.cue := rfl
@[simp] theorem State.drawWord_sheet : (s.drawWord.2).sheet = s.sheet := rfl
@[simp] theorem State.drawWord_progs : (s.drawWord.2).progs = s.progs := rfl
@[simp] theorem State.drawWord_job : (s.drawWord.2).job = s.job := rfl
@[simp] theorem State.drawWord_acts : (s.drawWord.2).acts = s.acts := rfl
@[simp] theorem State.drawWord_cells : (s.drawWord.2).cells = s.cells := rfl
@[simp] theorem State.drawWord_cores : (s.drawWord.2).cores = s.cores := rfl
@[simp] theorem State.drawWord_movers : (s.drawWord.2).movers = s.movers := rfl
@[simp] theorem State.drawWord_nextReq : (s.drawWord.2).nextReq = s.nextReq := rfl
@[simp] theorem State.drawWord_groups : (s.drawWord.2).groups = s.groups := rfl
@[simp] theorem State.drawWord_scale : (s.drawWord.2).scale = s.scale := rfl
@[simp] theorem State.drawWord_upd : (s.drawWord.2).upd = s.upd := rfl
@[simp] theorem State.drawWord_mem : (s.drawWord.2).mem = s.mem := rfl
@[simp] theorem State.drawWord_t3 : (s.drawWord.2).t3 = s.t3 := rfl
@[simp] theorem State.drawWord_serves : (s.drawWord.2).serves = s.serves := rfl
@[simp] theorem State.drawWord_commit : (s.drawWord.2).commit = s.commit := rfl
@[simp] theorem State.drawWord_ports : (s.drawWord.2).ports = s.ports := rfl
@[simp] theorem State.drawWord_map : (s.drawWord.2).map = s.map := rfl
@[simp] theorem State.drawWord_pwr : (s.drawWord.2).pwr = s.pwr := rfl
@[simp] theorem State.drawWord_host : (s.drawWord.2).host = s.host := rfl
@[simp] theorem State.drawWord_cb : (s.drawWord.2).cb = s.cb := rfl
@[simp] theorem State.drawWord_mbox : (s.drawWord.2).mbox = s.mbox := rfl
@[simp] theorem State.drawWord_fw : (s.drawWord.2).fw = s.fw := rfl
@[simp] theorem State.drawWord_faults : (s.drawWord.2).faults = s.faults := rfl
@[simp] theorem State.drawWord_faultSeq : (s.drawWord.2).faultSeq = s.faultSeq := rfl
@[simp] theorem State.drawWord_evCount : (s.drawWord.2).evCount = s.evCount := rfl
@[simp] theorem State.drawWord_raised : (s.drawWord.2).raised = s.raised := rfl
@[simp] theorem State.drawWord_traced : (s.drawWord.2).traced = s.traced := rfl
@[simp] theorem State.drawWord_hazHeld : (s.drawWord.2).hazHeld = s.hazHeld := rfl
@[simp] theorem State.drawWord_wxHeld : (s.drawWord.2).wxHeld = s.wxHeld := rfl
@[simp] theorem State.drawWord_start : (s.drawWord.2).start = s.start := rfl
@[simp] theorem State.drawWord_test : (s.drawWord.2).test = s.test := rfl

/-! `drawBool` -/

@[simp] theorem State.drawBool_pending : (s.drawBool.2).pending = s.pending := rfl
@[simp] theorem State.drawBool_free : (s.drawBool.2).free = s.free + 1 := rfl
@[simp] theorem State.drawBool_out : (s.drawBool.2).out = s.out := rfl
@[simp] theorem State.drawBool_time : (s.drawBool.2).time = s.time := rfl
@[simp] theorem State.drawBool_regs : (s.drawBool.2).regs = s.regs := rfl
@[simp] theorem State.drawBool_shadow : (s.drawBool.2).shadow = s.shadow := rfl
@[simp] theorem State.drawBool_cue : (s.drawBool.2).cue = s.cue := rfl
@[simp] theorem State.drawBool_sheet : (s.drawBool.2).sheet = s.sheet := rfl
@[simp] theorem State.drawBool_progs : (s.drawBool.2).progs = s.progs := rfl
@[simp] theorem State.drawBool_job : (s.drawBool.2).job = s.job := rfl
@[simp] theorem State.drawBool_acts : (s.drawBool.2).acts = s.acts := rfl
@[simp] theorem State.drawBool_cells : (s.drawBool.2).cells = s.cells := rfl
@[simp] theorem State.drawBool_cores : (s.drawBool.2).cores = s.cores := rfl
@[simp] theorem State.drawBool_movers : (s.drawBool.2).movers = s.movers := rfl
@[simp] theorem State.drawBool_nextReq : (s.drawBool.2).nextReq = s.nextReq := rfl
@[simp] theorem State.drawBool_groups : (s.drawBool.2).groups = s.groups := rfl
@[simp] theorem State.drawBool_scale : (s.drawBool.2).scale = s.scale := rfl
@[simp] theorem State.drawBool_upd : (s.drawBool.2).upd = s.upd := rfl
@[simp] theorem State.drawBool_mem : (s.drawBool.2).mem = s.mem := rfl
@[simp] theorem State.drawBool_t3 : (s.drawBool.2).t3 = s.t3 := rfl
@[simp] theorem State.drawBool_serves : (s.drawBool.2).serves = s.serves := rfl
@[simp] theorem State.drawBool_commit : (s.drawBool.2).commit = s.commit := rfl
@[simp] theorem State.drawBool_ports : (s.drawBool.2).ports = s.ports := rfl
@[simp] theorem State.drawBool_map : (s.drawBool.2).map = s.map := rfl
@[simp] theorem State.drawBool_pwr : (s.drawBool.2).pwr = s.pwr := rfl
@[simp] theorem State.drawBool_host : (s.drawBool.2).host = s.host := rfl
@[simp] theorem State.drawBool_cb : (s.drawBool.2).cb = s.cb := rfl
@[simp] theorem State.drawBool_mbox : (s.drawBool.2).mbox = s.mbox := rfl
@[simp] theorem State.drawBool_fw : (s.drawBool.2).fw = s.fw := rfl
@[simp] theorem State.drawBool_faults : (s.drawBool.2).faults = s.faults := rfl
@[simp] theorem State.drawBool_faultSeq : (s.drawBool.2).faultSeq = s.faultSeq := rfl
@[simp] theorem State.drawBool_evCount : (s.drawBool.2).evCount = s.evCount := rfl
@[simp] theorem State.drawBool_raised : (s.drawBool.2).raised = s.raised := rfl
@[simp] theorem State.drawBool_traced : (s.drawBool.2).traced = s.traced := rfl
@[simp] theorem State.drawBool_hazHeld : (s.drawBool.2).hazHeld = s.hazHeld := rfl
@[simp] theorem State.drawBool_wxHeld : (s.drawBool.2).wxHeld = s.wxHeld := rfl
@[simp] theorem State.drawBool_start : (s.drawBool.2).start = s.start := rfl
@[simp] theorem State.drawBool_test : (s.drawBool.2).test = s.test := rfl

/-! `drawBytes` -/

@[simp] theorem State.drawBytes_pending (n : Nat) : (s.drawBytes n).2.pending = s.pending := rfl
@[simp] theorem State.drawBytes_free (n : Nat) : (s.drawBytes n).2.free = s.free + n := rfl
@[simp] theorem State.drawBytes_out (n : Nat) : (s.drawBytes n).2.out = s.out := rfl
@[simp] theorem State.drawBytes_time (n : Nat) : (s.drawBytes n).2.time = s.time := rfl
@[simp] theorem State.drawBytes_regs (n : Nat) : (s.drawBytes n).2.regs = s.regs := rfl
@[simp] theorem State.drawBytes_shadow (n : Nat) : (s.drawBytes n).2.shadow = s.shadow := rfl
@[simp] theorem State.drawBytes_cue (n : Nat) : (s.drawBytes n).2.cue = s.cue := rfl
@[simp] theorem State.drawBytes_sheet (n : Nat) : (s.drawBytes n).2.sheet = s.sheet := rfl
@[simp] theorem State.drawBytes_progs (n : Nat) : (s.drawBytes n).2.progs = s.progs := rfl
@[simp] theorem State.drawBytes_job (n : Nat) : (s.drawBytes n).2.job = s.job := rfl
@[simp] theorem State.drawBytes_acts (n : Nat) : (s.drawBytes n).2.acts = s.acts := rfl
@[simp] theorem State.drawBytes_cells (n : Nat) : (s.drawBytes n).2.cells = s.cells := rfl
@[simp] theorem State.drawBytes_cores (n : Nat) : (s.drawBytes n).2.cores = s.cores := rfl
@[simp] theorem State.drawBytes_movers (n : Nat) : (s.drawBytes n).2.movers = s.movers := rfl
@[simp] theorem State.drawBytes_nextReq (n : Nat) : (s.drawBytes n).2.nextReq = s.nextReq := rfl
@[simp] theorem State.drawBytes_groups (n : Nat) : (s.drawBytes n).2.groups = s.groups := rfl
@[simp] theorem State.drawBytes_scale (n : Nat) : (s.drawBytes n).2.scale = s.scale := rfl
@[simp] theorem State.drawBytes_upd (n : Nat) : (s.drawBytes n).2.upd = s.upd := rfl
@[simp] theorem State.drawBytes_mem (n : Nat) : (s.drawBytes n).2.mem = s.mem := rfl
@[simp] theorem State.drawBytes_t3 (n : Nat) : (s.drawBytes n).2.t3 = s.t3 := rfl
@[simp] theorem State.drawBytes_serves (n : Nat) : (s.drawBytes n).2.serves = s.serves := rfl
@[simp] theorem State.drawBytes_commit (n : Nat) : (s.drawBytes n).2.commit = s.commit := rfl
@[simp] theorem State.drawBytes_ports (n : Nat) : (s.drawBytes n).2.ports = s.ports := rfl
@[simp] theorem State.drawBytes_map (n : Nat) : (s.drawBytes n).2.map = s.map := rfl
@[simp] theorem State.drawBytes_pwr (n : Nat) : (s.drawBytes n).2.pwr = s.pwr := rfl
@[simp] theorem State.drawBytes_host (n : Nat) : (s.drawBytes n).2.host = s.host := rfl
@[simp] theorem State.drawBytes_cb (n : Nat) : (s.drawBytes n).2.cb = s.cb := rfl
@[simp] theorem State.drawBytes_mbox (n : Nat) : (s.drawBytes n).2.mbox = s.mbox := rfl
@[simp] theorem State.drawBytes_fw (n : Nat) : (s.drawBytes n).2.fw = s.fw := rfl
@[simp] theorem State.drawBytes_faults (n : Nat) : (s.drawBytes n).2.faults = s.faults := rfl
@[simp] theorem State.drawBytes_faultSeq (n : Nat) : (s.drawBytes n).2.faultSeq = s.faultSeq := rfl
@[simp] theorem State.drawBytes_evCount (n : Nat) : (s.drawBytes n).2.evCount = s.evCount := rfl
@[simp] theorem State.drawBytes_raised (n : Nat) : (s.drawBytes n).2.raised = s.raised := rfl
@[simp] theorem State.drawBytes_hazHeld (n : Nat) : (s.drawBytes n).2.hazHeld = s.hazHeld := rfl
@[simp] theorem State.drawBytes_wxHeld (n : Nat) : (s.drawBytes n).2.wxHeld = s.wxHeld := rfl
@[simp] theorem State.drawBytes_start (n : Nat) : (s.drawBytes n).2.start = s.start := rfl
@[simp] theorem State.drawBytes_test (n : Nat) : (s.drawBytes n).2.test = s.test := rfl

/-! `sendOwn` -/

@[simp] theorem State.sendOwn_pending (d : Nat) (ty q : Byte) (b : List Byte) : (s.sendOwn d ty q b).pending = s.pending := rfl
@[simp] theorem State.sendOwn_free (d : Nat) (ty q : Byte) (b : List Byte) : (s.sendOwn d ty q b).free = s.free := rfl
@[simp] theorem State.sendOwn_out (d : Nat) (ty q : Byte) (b : List Byte) : (s.sendOwn d ty q b).out = s.out := rfl
@[simp] theorem State.sendOwn_time (d : Nat) (ty q : Byte) (b : List Byte) : (s.sendOwn d ty q b).time = s.time := rfl
@[simp] theorem State.sendOwn_regs (d : Nat) (ty q : Byte) (b : List Byte) : (s.sendOwn d ty q b).regs = s.regs := rfl
@[simp] theorem State.sendOwn_shadow (d : Nat) (ty q : Byte) (b : List Byte) : (s.sendOwn d ty q b).shadow = s.shadow := rfl
@[simp] theorem State.sendOwn_cue (d : Nat) (ty q : Byte) (b : List Byte) : (s.sendOwn d ty q b).cue = s.cue := rfl
@[simp] theorem State.sendOwn_sheet (d : Nat) (ty q : Byte) (b : List Byte) : (s.sendOwn d ty q b).sheet = s.sheet := rfl
@[simp] theorem State.sendOwn_progs (d : Nat) (ty q : Byte) (b : List Byte) : (s.sendOwn d ty q b).progs = s.progs := rfl
@[simp] theorem State.sendOwn_job (d : Nat) (ty q : Byte) (b : List Byte) : (s.sendOwn d ty q b).job = s.job := rfl
@[simp] theorem State.sendOwn_acts (d : Nat) (ty q : Byte) (b : List Byte) : (s.sendOwn d ty q b).acts = s.acts := rfl
@[simp] theorem State.sendOwn_cells (d : Nat) (ty q : Byte) (b : List Byte) : (s.sendOwn d ty q b).cells = s.cells := rfl
@[simp] theorem State.sendOwn_cores (d : Nat) (ty q : Byte) (b : List Byte) : (s.sendOwn d ty q b).cores = s.cores := rfl
@[simp] theorem State.sendOwn_movers (d : Nat) (ty q : Byte) (b : List Byte) : (s.sendOwn d ty q b).movers = s.movers := rfl
@[simp] theorem State.sendOwn_nextReq (d : Nat) (ty q : Byte) (b : List Byte) : (s.sendOwn d ty q b).nextReq = s.nextReq := rfl
@[simp] theorem State.sendOwn_groups (d : Nat) (ty q : Byte) (b : List Byte) : (s.sendOwn d ty q b).groups = s.groups := rfl
@[simp] theorem State.sendOwn_scale (d : Nat) (ty q : Byte) (b : List Byte) : (s.sendOwn d ty q b).scale = s.scale := rfl
@[simp] theorem State.sendOwn_upd (d : Nat) (ty q : Byte) (b : List Byte) : (s.sendOwn d ty q b).upd = s.upd := rfl
@[simp] theorem State.sendOwn_mem (d : Nat) (ty q : Byte) (b : List Byte) : (s.sendOwn d ty q b).mem = s.mem := rfl
@[simp] theorem State.sendOwn_t3 (d : Nat) (ty q : Byte) (b : List Byte) : (s.sendOwn d ty q b).t3 = s.t3 := rfl
@[simp] theorem State.sendOwn_serves (d : Nat) (ty q : Byte) (b : List Byte) : (s.sendOwn d ty q b).serves = s.serves := rfl
@[simp] theorem State.sendOwn_commit (d : Nat) (ty q : Byte) (b : List Byte) : (s.sendOwn d ty q b).commit = s.commit := rfl
@[simp] theorem State.sendOwn_ports (d : Nat) (ty q : Byte) (b : List Byte) : (s.sendOwn d ty q b).ports = s.ports := rfl
@[simp] theorem State.sendOwn_map (d : Nat) (ty q : Byte) (b : List Byte) : (s.sendOwn d ty q b).map = s.map := rfl
@[simp] theorem State.sendOwn_pwr (d : Nat) (ty q : Byte) (b : List Byte) : (s.sendOwn d ty q b).pwr = s.pwr := rfl
@[simp] theorem State.sendOwn_host (d : Nat) (ty q : Byte) (b : List Byte) : (s.sendOwn d ty q b).host = s.host := rfl
@[simp] theorem State.sendOwn_mbox (d : Nat) (ty q : Byte) (b : List Byte) : (s.sendOwn d ty q b).mbox = s.mbox := rfl
@[simp] theorem State.sendOwn_fw (d : Nat) (ty q : Byte) (b : List Byte) : (s.sendOwn d ty q b).fw = s.fw := rfl
@[simp] theorem State.sendOwn_faults (d : Nat) (ty q : Byte) (b : List Byte) : (s.sendOwn d ty q b).faults = s.faults := rfl
@[simp] theorem State.sendOwn_faultSeq (d : Nat) (ty q : Byte) (b : List Byte) : (s.sendOwn d ty q b).faultSeq = s.faultSeq := rfl
@[simp] theorem State.sendOwn_evCount (d : Nat) (ty q : Byte) (b : List Byte) : (s.sendOwn d ty q b).evCount = s.evCount := rfl
@[simp] theorem State.sendOwn_raised (d : Nat) (ty q : Byte) (b : List Byte) : (s.sendOwn d ty q b).raised = s.raised := rfl
@[simp] theorem State.sendOwn_traced (d : Nat) (ty q : Byte) (b : List Byte) : (s.sendOwn d ty q b).traced = s.traced := rfl
@[simp] theorem State.sendOwn_hazHeld (d : Nat) (ty q : Byte) (b : List Byte) : (s.sendOwn d ty q b).hazHeld = s.hazHeld := rfl
@[simp] theorem State.sendOwn_wxHeld (d : Nat) (ty q : Byte) (b : List Byte) : (s.sendOwn d ty q b).wxHeld = s.wxHeld := rfl
@[simp] theorem State.sendOwn_start (d : Nat) (ty q : Byte) (b : List Byte) : (s.sendOwn d ty q b).start = s.start := rfl
@[simp] theorem State.sendOwn_test (d : Nat) (ty q : Byte) (b : List Byte) : (s.sendOwn d ty q b).test = s.test := rfl

/-! `clearWords` -/

@[simp] theorem State.clearWords_pending (pg off : Nat → Bool) : (s.clearWords pg off).pending = s.pending := rfl
@[simp] theorem State.clearWords_free (pg off : Nat → Bool) : (s.clearWords pg off).free = s.free := rfl
@[simp] theorem State.clearWords_out (pg off : Nat → Bool) : (s.clearWords pg off).out = s.out := rfl
@[simp] theorem State.clearWords_time (pg off : Nat → Bool) : (s.clearWords pg off).time = s.time := rfl
@[simp] theorem State.clearWords_shadow (pg off : Nat → Bool) : (s.clearWords pg off).shadow = s.shadow := rfl
@[simp] theorem State.clearWords_cue (pg off : Nat → Bool) : (s.clearWords pg off).cue = s.cue := rfl
@[simp] theorem State.clearWords_sheet (pg off : Nat → Bool) : (s.clearWords pg off).sheet = s.sheet := rfl
@[simp] theorem State.clearWords_progs (pg off : Nat → Bool) : (s.clearWords pg off).progs = s.progs := rfl
@[simp] theorem State.clearWords_job (pg off : Nat → Bool) : (s.clearWords pg off).job = s.job := rfl
@[simp] theorem State.clearWords_acts (pg off : Nat → Bool) : (s.clearWords pg off).acts = s.acts := rfl
@[simp] theorem State.clearWords_cells (pg off : Nat → Bool) : (s.clearWords pg off).cells = s.cells := rfl
@[simp] theorem State.clearWords_cores (pg off : Nat → Bool) : (s.clearWords pg off).cores = s.cores := rfl
@[simp] theorem State.clearWords_movers (pg off : Nat → Bool) : (s.clearWords pg off).movers = s.movers := rfl
@[simp] theorem State.clearWords_nextReq (pg off : Nat → Bool) : (s.clearWords pg off).nextReq = s.nextReq := rfl
@[simp] theorem State.clearWords_groups (pg off : Nat → Bool) : (s.clearWords pg off).groups = s.groups := rfl
@[simp] theorem State.clearWords_scale (pg off : Nat → Bool) : (s.clearWords pg off).scale = s.scale := rfl
@[simp] theorem State.clearWords_upd (pg off : Nat → Bool) : (s.clearWords pg off).upd = s.upd := rfl
@[simp] theorem State.clearWords_mem (pg off : Nat → Bool) : (s.clearWords pg off).mem = s.mem := rfl
@[simp] theorem State.clearWords_t3 (pg off : Nat → Bool) : (s.clearWords pg off).t3 = s.t3 := rfl
@[simp] theorem State.clearWords_serves (pg off : Nat → Bool) : (s.clearWords pg off).serves = s.serves := rfl
@[simp] theorem State.clearWords_commit (pg off : Nat → Bool) : (s.clearWords pg off).commit = s.commit := rfl
@[simp] theorem State.clearWords_ports (pg off : Nat → Bool) : (s.clearWords pg off).ports = s.ports := rfl
@[simp] theorem State.clearWords_map (pg off : Nat → Bool) : (s.clearWords pg off).map = s.map := rfl
@[simp] theorem State.clearWords_pwr (pg off : Nat → Bool) : (s.clearWords pg off).pwr = s.pwr := rfl
@[simp] theorem State.clearWords_host (pg off : Nat → Bool) : (s.clearWords pg off).host = s.host := rfl
@[simp] theorem State.clearWords_cb (pg off : Nat → Bool) : (s.clearWords pg off).cb = s.cb := rfl
@[simp] theorem State.clearWords_mbox (pg off : Nat → Bool) : (s.clearWords pg off).mbox = s.mbox := rfl
@[simp] theorem State.clearWords_fw (pg off : Nat → Bool) : (s.clearWords pg off).fw = s.fw := rfl
@[simp] theorem State.clearWords_faults (pg off : Nat → Bool) : (s.clearWords pg off).faults = s.faults := rfl
@[simp] theorem State.clearWords_faultSeq (pg off : Nat → Bool) : (s.clearWords pg off).faultSeq = s.faultSeq := rfl
@[simp] theorem State.clearWords_evCount (pg off : Nat → Bool) : (s.clearWords pg off).evCount = s.evCount := rfl
@[simp] theorem State.clearWords_raised (pg off : Nat → Bool) : (s.clearWords pg off).raised = s.raised := rfl
@[simp] theorem State.clearWords_traced (pg off : Nat → Bool) : (s.clearWords pg off).traced = s.traced := rfl
@[simp] theorem State.clearWords_hazHeld (pg off : Nat → Bool) : (s.clearWords pg off).hazHeld = s.hazHeld := rfl
@[simp] theorem State.clearWords_wxHeld (pg off : Nat → Bool) : (s.clearWords pg off).wxHeld = s.wxHeld := rfl
@[simp] theorem State.clearWords_start (pg off : Nat → Bool) : (s.clearWords pg off).start = s.start := rfl
@[simp] theorem State.clearWords_test (pg off : Nat → Bool) : (s.clearWords pg off).test = s.test := rfl

/-! `setRegion` -/

@[simp] theorem State.setRegion_pending (r : MRegion) : (s.setRegion r).pending = s.pending := rfl
@[simp] theorem State.setRegion_free (r : MRegion) : (s.setRegion r).free = s.free := rfl
@[simp] theorem State.setRegion_out (r : MRegion) : (s.setRegion r).out = s.out := rfl
@[simp] theorem State.setRegion_time (r : MRegion) : (s.setRegion r).time = s.time := rfl
@[simp] theorem State.setRegion_regs (r : MRegion) : (s.setRegion r).regs = s.regs := rfl
@[simp] theorem State.setRegion_shadow (r : MRegion) : (s.setRegion r).shadow = s.shadow := rfl
@[simp] theorem State.setRegion_cue (r : MRegion) : (s.setRegion r).cue = s.cue := rfl
@[simp] theorem State.setRegion_sheet (r : MRegion) : (s.setRegion r).sheet = s.sheet := rfl
@[simp] theorem State.setRegion_progs (r : MRegion) : (s.setRegion r).progs = s.progs := rfl
@[simp] theorem State.setRegion_job (r : MRegion) : (s.setRegion r).job = s.job := rfl
@[simp] theorem State.setRegion_acts (r : MRegion) : (s.setRegion r).acts = s.acts := rfl
@[simp] theorem State.setRegion_cells (r : MRegion) : (s.setRegion r).cells = s.cells := rfl
@[simp] theorem State.setRegion_cores (r : MRegion) : (s.setRegion r).cores = s.cores := rfl
@[simp] theorem State.setRegion_movers (r : MRegion) : (s.setRegion r).movers = s.movers := rfl
@[simp] theorem State.setRegion_nextReq (r : MRegion) : (s.setRegion r).nextReq = s.nextReq := rfl
@[simp] theorem State.setRegion_groups (r : MRegion) : (s.setRegion r).groups = s.groups := rfl
@[simp] theorem State.setRegion_scale (r : MRegion) : (s.setRegion r).scale = s.scale := rfl
@[simp] theorem State.setRegion_upd (r : MRegion) : (s.setRegion r).upd = s.upd := rfl
@[simp] theorem State.setRegion_t3 (r : MRegion) : (s.setRegion r).t3 = s.t3 := rfl
@[simp] theorem State.setRegion_serves (r : MRegion) : (s.setRegion r).serves = s.serves := rfl
@[simp] theorem State.setRegion_commit (r : MRegion) : (s.setRegion r).commit = s.commit := rfl
@[simp] theorem State.setRegion_ports (r : MRegion) : (s.setRegion r).ports = s.ports := rfl
@[simp] theorem State.setRegion_map (r : MRegion) : (s.setRegion r).map = s.map := rfl
@[simp] theorem State.setRegion_pwr (r : MRegion) : (s.setRegion r).pwr = s.pwr := rfl
@[simp] theorem State.setRegion_host (r : MRegion) : (s.setRegion r).host = s.host := rfl
@[simp] theorem State.setRegion_cb (r : MRegion) : (s.setRegion r).cb = s.cb := rfl
@[simp] theorem State.setRegion_mbox (r : MRegion) : (s.setRegion r).mbox = s.mbox := rfl
@[simp] theorem State.setRegion_fw (r : MRegion) : (s.setRegion r).fw = s.fw := rfl
@[simp] theorem State.setRegion_faults (r : MRegion) : (s.setRegion r).faults = s.faults := rfl
@[simp] theorem State.setRegion_faultSeq (r : MRegion) : (s.setRegion r).faultSeq = s.faultSeq := rfl
@[simp] theorem State.setRegion_evCount (r : MRegion) : (s.setRegion r).evCount = s.evCount := rfl
@[simp] theorem State.setRegion_raised (r : MRegion) : (s.setRegion r).raised = s.raised := rfl
@[simp] theorem State.setRegion_traced (r : MRegion) : (s.setRegion r).traced = s.traced := rfl
@[simp] theorem State.setRegion_hazHeld (r : MRegion) : (s.setRegion r).hazHeld = s.hazHeld := rfl
@[simp] theorem State.setRegion_wxHeld (r : MRegion) : (s.setRegion r).wxHeld = s.wxHeld := rfl
@[simp] theorem State.setRegion_start (r : MRegion) : (s.setRegion r).start = s.start := rfl
@[simp] theorem State.setRegion_test (r : MRegion) : (s.setRegion r).test = s.test := rfl

/-! `raiseEv` -/

@[simp] theorem State.raiseEv_pending (b : Bool) (c pg : Nat) (e : EvInfo) : (s.raiseEv b c pg e).pending = s.pending := rfl
@[simp] theorem State.raiseEv_free (b : Bool) (c pg : Nat) (e : EvInfo) : (s.raiseEv b c pg e).free = s.free := rfl
@[simp] theorem State.raiseEv_out (b : Bool) (c pg : Nat) (e : EvInfo) : (s.raiseEv b c pg e).out = s.out := rfl
@[simp] theorem State.raiseEv_time (b : Bool) (c pg : Nat) (e : EvInfo) : (s.raiseEv b c pg e).time = s.time := rfl
@[simp] theorem State.raiseEv_shadow (b : Bool) (c pg : Nat) (e : EvInfo) : (s.raiseEv b c pg e).shadow = s.shadow := rfl
@[simp] theorem State.raiseEv_cue (b : Bool) (c pg : Nat) (e : EvInfo) : (s.raiseEv b c pg e).cue = s.cue := rfl
@[simp] theorem State.raiseEv_sheet (b : Bool) (c pg : Nat) (e : EvInfo) : (s.raiseEv b c pg e).sheet = s.sheet := rfl
@[simp] theorem State.raiseEv_progs (b : Bool) (c pg : Nat) (e : EvInfo) : (s.raiseEv b c pg e).progs = s.progs := rfl
@[simp] theorem State.raiseEv_job (b : Bool) (c pg : Nat) (e : EvInfo) : (s.raiseEv b c pg e).job = s.job := rfl
@[simp] theorem State.raiseEv_acts (b : Bool) (c pg : Nat) (e : EvInfo) : (s.raiseEv b c pg e).acts = s.acts := rfl
@[simp] theorem State.raiseEv_cells (b : Bool) (c pg : Nat) (e : EvInfo) : (s.raiseEv b c pg e).cells = s.cells := rfl
@[simp] theorem State.raiseEv_cores (b : Bool) (c pg : Nat) (e : EvInfo) : (s.raiseEv b c pg e).cores = s.cores := rfl
@[simp] theorem State.raiseEv_movers (b : Bool) (c pg : Nat) (e : EvInfo) : (s.raiseEv b c pg e).movers = s.movers := rfl
@[simp] theorem State.raiseEv_nextReq (b : Bool) (c pg : Nat) (e : EvInfo) : (s.raiseEv b c pg e).nextReq = s.nextReq := rfl
@[simp] theorem State.raiseEv_groups (b : Bool) (c pg : Nat) (e : EvInfo) : (s.raiseEv b c pg e).groups = s.groups := rfl
@[simp] theorem State.raiseEv_scale (b : Bool) (c pg : Nat) (e : EvInfo) : (s.raiseEv b c pg e).scale = s.scale := rfl
@[simp] theorem State.raiseEv_upd (b : Bool) (c pg : Nat) (e : EvInfo) : (s.raiseEv b c pg e).upd = s.upd := rfl
@[simp] theorem State.raiseEv_mem (b : Bool) (c pg : Nat) (e : EvInfo) : (s.raiseEv b c pg e).mem = s.mem := rfl
@[simp] theorem State.raiseEv_t3 (b : Bool) (c pg : Nat) (e : EvInfo) : (s.raiseEv b c pg e).t3 = s.t3 := rfl
@[simp] theorem State.raiseEv_serves (b : Bool) (c pg : Nat) (e : EvInfo) : (s.raiseEv b c pg e).serves = s.serves := rfl
@[simp] theorem State.raiseEv_commit (b : Bool) (c pg : Nat) (e : EvInfo) : (s.raiseEv b c pg e).commit = s.commit := rfl
@[simp] theorem State.raiseEv_ports (b : Bool) (c pg : Nat) (e : EvInfo) : (s.raiseEv b c pg e).ports = s.ports := rfl
@[simp] theorem State.raiseEv_map (b : Bool) (c pg : Nat) (e : EvInfo) : (s.raiseEv b c pg e).map = s.map := rfl
@[simp] theorem State.raiseEv_pwr (b : Bool) (c pg : Nat) (e : EvInfo) : (s.raiseEv b c pg e).pwr = s.pwr := rfl
@[simp] theorem State.raiseEv_host (b : Bool) (c pg : Nat) (e : EvInfo) : (s.raiseEv b c pg e).host = s.host := rfl
@[simp] theorem State.raiseEv_cb (b : Bool) (c pg : Nat) (e : EvInfo) : (s.raiseEv b c pg e).cb = s.cb := rfl
@[simp] theorem State.raiseEv_mbox (b : Bool) (c pg : Nat) (e : EvInfo) : (s.raiseEv b c pg e).mbox = s.mbox := rfl
@[simp] theorem State.raiseEv_fw (b : Bool) (c pg : Nat) (e : EvInfo) : (s.raiseEv b c pg e).fw = s.fw := rfl
@[simp] theorem State.raiseEv_faults (b : Bool) (c pg : Nat) (e : EvInfo) : (s.raiseEv b c pg e).faults = s.faults := rfl
@[simp] theorem State.raiseEv_faultSeq (b : Bool) (c pg : Nat) (e : EvInfo) : (s.raiseEv b c pg e).faultSeq = s.faultSeq := rfl
@[simp] theorem State.raiseEv_evCount (b : Bool) (c pg : Nat) (e : EvInfo) : (s.raiseEv b c pg e).evCount = s.evCount := rfl
@[simp] theorem State.raiseEv_hazHeld (b : Bool) (c pg : Nat) (e : EvInfo) : (s.raiseEv b c pg e).hazHeld = s.hazHeld := rfl
@[simp] theorem State.raiseEv_wxHeld (b : Bool) (c pg : Nat) (e : EvInfo) : (s.raiseEv b c pg e).wxHeld = s.wxHeld := rfl
@[simp] theorem State.raiseEv_start (b : Bool) (c pg : Nat) (e : EvInfo) : (s.raiseEv b c pg e).start = s.start := rfl
@[simp] theorem State.raiseEv_test (b : Bool) (c pg : Nat) (e : EvInfo) : (s.raiseEv b c pg e).test = s.test := rfl

/-! `raise` -/

@[simp] theorem State.raise_pending (c pg : Nat) (e : EvInfo) : (s.raise c pg e).pending = s.pending := rfl
@[simp] theorem State.raise_free (c pg : Nat) (e : EvInfo) : (s.raise c pg e).free = s.free := rfl
@[simp] theorem State.raise_out (c pg : Nat) (e : EvInfo) : (s.raise c pg e).out = s.out := rfl
@[simp] theorem State.raise_time (c pg : Nat) (e : EvInfo) : (s.raise c pg e).time = s.time := rfl
@[simp] theorem State.raise_shadow (c pg : Nat) (e : EvInfo) : (s.raise c pg e).shadow = s.shadow := rfl
@[simp] theorem State.raise_cue (c pg : Nat) (e : EvInfo) : (s.raise c pg e).cue = s.cue := rfl
@[simp] theorem State.raise_sheet (c pg : Nat) (e : EvInfo) : (s.raise c pg e).sheet = s.sheet := rfl
@[simp] theorem State.raise_progs (c pg : Nat) (e : EvInfo) : (s.raise c pg e).progs = s.progs := rfl
@[simp] theorem State.raise_job (c pg : Nat) (e : EvInfo) : (s.raise c pg e).job = s.job := rfl
@[simp] theorem State.raise_acts (c pg : Nat) (e : EvInfo) : (s.raise c pg e).acts = s.acts := rfl
@[simp] theorem State.raise_cells (c pg : Nat) (e : EvInfo) : (s.raise c pg e).cells = s.cells := rfl
@[simp] theorem State.raise_cores (c pg : Nat) (e : EvInfo) : (s.raise c pg e).cores = s.cores := rfl
@[simp] theorem State.raise_movers (c pg : Nat) (e : EvInfo) : (s.raise c pg e).movers = s.movers := rfl
@[simp] theorem State.raise_nextReq (c pg : Nat) (e : EvInfo) : (s.raise c pg e).nextReq = s.nextReq := rfl
@[simp] theorem State.raise_groups (c pg : Nat) (e : EvInfo) : (s.raise c pg e).groups = s.groups := rfl
@[simp] theorem State.raise_scale (c pg : Nat) (e : EvInfo) : (s.raise c pg e).scale = s.scale := rfl
@[simp] theorem State.raise_upd (c pg : Nat) (e : EvInfo) : (s.raise c pg e).upd = s.upd := rfl
@[simp] theorem State.raise_mem (c pg : Nat) (e : EvInfo) : (s.raise c pg e).mem = s.mem := rfl
@[simp] theorem State.raise_t3 (c pg : Nat) (e : EvInfo) : (s.raise c pg e).t3 = s.t3 := rfl
@[simp] theorem State.raise_serves (c pg : Nat) (e : EvInfo) : (s.raise c pg e).serves = s.serves := rfl
@[simp] theorem State.raise_commit (c pg : Nat) (e : EvInfo) : (s.raise c pg e).commit = s.commit := rfl
@[simp] theorem State.raise_ports (c pg : Nat) (e : EvInfo) : (s.raise c pg e).ports = s.ports := rfl
@[simp] theorem State.raise_map (c pg : Nat) (e : EvInfo) : (s.raise c pg e).map = s.map := rfl
@[simp] theorem State.raise_pwr (c pg : Nat) (e : EvInfo) : (s.raise c pg e).pwr = s.pwr := rfl
@[simp] theorem State.raise_host (c pg : Nat) (e : EvInfo) : (s.raise c pg e).host = s.host := rfl
@[simp] theorem State.raise_cb (c pg : Nat) (e : EvInfo) : (s.raise c pg e).cb = s.cb := rfl
@[simp] theorem State.raise_mbox (c pg : Nat) (e : EvInfo) : (s.raise c pg e).mbox = s.mbox := rfl
@[simp] theorem State.raise_fw (c pg : Nat) (e : EvInfo) : (s.raise c pg e).fw = s.fw := rfl
@[simp] theorem State.raise_faults (c pg : Nat) (e : EvInfo) : (s.raise c pg e).faults = s.faults := rfl
@[simp] theorem State.raise_faultSeq (c pg : Nat) (e : EvInfo) : (s.raise c pg e).faultSeq = s.faultSeq := rfl
@[simp] theorem State.raise_evCount (c pg : Nat) (e : EvInfo) : (s.raise c pg e).evCount = s.evCount := rfl
@[simp] theorem State.raise_hazHeld (c pg : Nat) (e : EvInfo) : (s.raise c pg e).hazHeld = s.hazHeld := rfl
@[simp] theorem State.raise_wxHeld (c pg : Nat) (e : EvInfo) : (s.raise c pg e).wxHeld = s.wxHeld := rfl
@[simp] theorem State.raise_start (c pg : Nat) (e : EvInfo) : (s.raise c pg e).start = s.start := rfl
@[simp] theorem State.raise_test (c pg : Nat) (e : EvInfo) : (s.raise c pg e).test = s.test := rfl

end Sys2Proof.Machine
end

