-- ==== Sys2Proof/Laws/Registers.lean ====
section
/-! SUPPORT. Bit fields, register words and register fields: what a write of one leaves of the others. -/

namespace Sys2Proof.Machine

open Sys2Proof

/-! ## Bit fields -/

theorem bitsOf_lt (v lo w : Nat) : bitsOf v lo w < 2 ^ w := Nat.mod_lt _ (Nat.two_pow_pos w)

theorem withBits_parts (v lo w x : Nat) :
    ∃ a b, v = (a * 2 ^ w + bitsOf v lo w) * 2 ^ lo + b ∧ b < 2 ^ lo ∧
      withBits v lo w x = (a * 2 ^ w + x % 2 ^ w) * 2 ^ lo + b := by
  refine ⟨v / 2 ^ lo / 2 ^ w, v % 2 ^ lo, ?_, Nat.mod_lt _ (Nat.two_pow_pos lo), ?_⟩
  · have h1 := Nat.div_add_mod v (2 ^ lo)
    have h2 := Nat.div_add_mod (v / 2 ^ lo) (2 ^ w)
    rw [bitsOf, Nat.mul_comm (v / 2 ^ lo / 2 ^ w), h2, Nat.mul_comm]
    exact h1.symm
  · have h1 := Nat.div_add_mod v (2 ^ lo)
    have h2 := Nat.div_add_mod (v / 2 ^ lo) (2 ^ w)
    have hv : v = (v / 2 ^ lo / 2 ^ w * 2 ^ w + bitsOf v lo w) * 2 ^ lo + v % 2 ^ lo := by
      rw [bitsOf, Nat.mul_comm (v / 2 ^ lo / 2 ^ w), h2, Nat.mul_comm]; exact h1.symm
    unfold withBits
    generalize hA : v / 2 ^ lo / 2 ^ w * 2 ^ w = A at hv ⊢
    generalize hB : bitsOf v lo w = B at hv ⊢
    generalize hC : v % 2 ^ lo = C at hv ⊢
    rw [Nat.add_mul] at hv ⊢
    omega

/-- A field reads what was put into it. -/
@[simp] theorem bitsOf_withBits_same (v lo w x : Nat) : bitsOf (withBits v lo w x) lo w = x % 2 ^ w := by
  obtain ⟨a, b, -, hb, h⟩ := withBits_parts v lo w x
  rw [h, bitsOf, Nat.add_comm, Nat.add_mul_div_right _ _ (Nat.two_pow_pos lo), Nat.div_eq_of_lt hb, Nat.zero_add,
    Nat.add_comm, Nat.add_mul_mod_self_right, Nat.mod_mod]

/-- A field that lies wholly below is as before. -/
theorem bitsOf_withBits_below (v lo w x lo' w' : Nat) (h : lo' + w' ≤ lo) :
    bitsOf (withBits v lo w x) lo' w' = bitsOf v lo' w' := by
  obtain ⟨a, b, hv, -, hw⟩ := withBits_parts v lo w x
  have hp : ∃ k, 2 ^ lo = 2 ^ lo' * (2 ^ w' * k) := ⟨2 ^ (lo - lo' - w'), by
    rw [← Nat.pow_add, ← Nat.pow_add]; congr 1; omega⟩
  obtain ⟨k, hk⟩ := hp
  have key : ∀ y : Nat, (y * 2 ^ lo + b) / 2 ^ lo' % 2 ^ w' = b / 2 ^ lo' % 2 ^ w' := by
    intro y
    have : y * 2 ^ lo + b = b + 2 ^ lo' * (2 ^ w' * (k * y)) := by
      rw [hk, Nat.add_comm]; simp only [Nat.mul_comm, Nat.mul_left_comm, Nat.mul_assoc]
    rw [this, Nat.add_mul_div_left _ _ (Nat.two_pow_pos lo'), Nat.add_mul_mod_self_left]
  unfold bitsOf
  rw [hw, key]
  conv => rhs; rw [hv]
  rw [key]

/-- A field that lies wholly above is as before. -/
theorem bitsOf_withBits_above (v lo w x lo' w' : Nat) (h : lo + w ≤ lo') :
    bitsOf (withBits v lo w x) lo' w' = bitsOf v lo' w' := by
  obtain ⟨a, b, hv, hb, hw⟩ := withBits_parts v lo w x
  have key : ∀ y : Nat, y < 2 ^ w → ((a * 2 ^ w + y) * 2 ^ lo + b) / 2 ^ lo' = a / 2 ^ (lo' - lo - w) := by
    intro y hy
    have e : 2 ^ lo' = 2 ^ lo * (2 ^ w * 2 ^ (lo' - lo - w)) := by
      rw [← Nat.pow_add, ← Nat.pow_add]; congr 1; omega
    rw [e, ← Nat.div_div_eq_div_mul, ← Nat.div_div_eq_div_mul, Nat.add_comm _ b,
      Nat.add_mul_div_right _ _ (Nat.two_pow_pos lo), Nat.div_eq_of_lt hb, Nat.zero_add, Nat.add_comm _ y,
      Nat.add_mul_div_right _ _ (Nat.two_pow_pos w), Nat.div_eq_of_lt hy, Nat.zero_add]
  unfold bitsOf at *
  rw [hw, key _ (Nat.mod_lt _ (Nat.two_pow_pos w))]
  conv => rhs; rw [hv]
  rw [key _ (Nat.mod_lt _ (Nat.two_pow_pos w))]

/-- A word with a field put into it is still a word. -/
theorem withBits_lt (v lo w x n : Nat) (hv : v < 2 ^ n) (h : lo + w ≤ n) : withBits v lo w x < 2 ^ n := by
  obtain ⟨a, b, hp, hb, hw⟩ := withBits_parts v lo w x
  have hx : x % 2 ^ w < 2 ^ w := Nat.mod_lt _ (Nat.two_pow_pos w)
  have e : 2 ^ n = 2 ^ (n - lo - w) * 2 ^ w * 2 ^ lo := by
    rw [← Nat.pow_add, ← Nat.pow_add]; congr 1; omega
  have ha : a < 2 ^ (n - lo - w) := by
    refine Nat.lt_of_not_le fun hc => ?_
    have h1 : 2 ^ (n - lo - w) * 2 ^ w ≤ a * 2 ^ w := Nat.mul_le_mul_right _ hc
    have h2 : 2 ^ (n - lo - w) * 2 ^ w * 2 ^ lo ≤ (a * 2 ^ w + bitsOf v lo w) * 2 ^ lo :=
      Nat.mul_le_mul_right _ (by omega)
    omega
  rw [hw, e]
  have h1 : (a + 1) * 2 ^ w ≤ 2 ^ (n - lo - w) * 2 ^ w := Nat.mul_le_mul_right _ ha
  have h2 : (a * 2 ^ w + x % 2 ^ w + 1) * 2 ^ lo ≤ 2 ^ (n - lo - w) * 2 ^ w * 2 ^ lo :=
    Nat.mul_le_mul_right _ (by rw [Nat.add_mul, Nat.one_mul] at h1; omega)
  rw [Nat.add_mul _ 1, Nat.one_mul] at h2
  omega

/-! ## Words -/

variable (s : State)

@[simp] theorem State.word_setWord_same (a : Nat) (v : Word) : (s.setWord a v).word a = v := by
  simp [State.word]

theorem State.word_setWord_other {a b : Nat} (v : Word) (h : b ≠ a) : (s.setWord a v).word b = s.word b := by
  simp [State.word, AMap.find_put_other _ v h]

/-- Two states with the same registers read the same words. -/
theorem State.word_congr {s t : State} (h : t.regs = s.regs) (a : Nat) : t.word a = s.word a := by
  simp [State.word, h]

/-- Two states with the same registers read the same fields. -/
theorem State.get_congr {s t : State} (h : t.regs = s.regs) (f : Fld) : t.get f = s.get f := by
  simp [State.get, State.word_congr h]

theorem State.word_set_other (f : Fld) (v : Nat) {b : Nat} (h : b ≠ f.addr) : (s.set f v).word b = s.word b :=
  s.word_setWord_other _ h

/-! ## Fields -/

/-- A field of at most 32 bits reads what was put into it. -/
theorem State.get_set_same (f : Fld) (v : Nat) (h : f.lo + f.w ≤ 32) : (s.set f v).get f = v % 2 ^ f.w := by
  simp only [State.get, State.set, State.word_setWord_same, BitVec.toNat_ofNat]
  rw [Nat.mod_eq_of_lt (withBits_lt _ _ _ _ 32 (s.word f.addr).isLt h), bitsOf_withBits_same]

/-- Two fields of one word that share no bit, or of two words. -/
def apart (f g : Fld) : Prop := g.addr ≠ f.addr ∨ g.lo + g.w ≤ f.lo ∨ f.lo + f.w ≤ g.lo

/-- A field keeps its value when a field apart from it is written. -/
theorem State.get_set_other (f g : Fld) (v : Nat) (hf : f.lo + f.w ≤ 32) (h : apart f g) : (s.set f v).get g = s.get g := by
  by_cases ha : g.addr = f.addr
  · have hl := withBits_lt (s.word f.addr).toNat f.lo f.w v 32 (s.word f.addr).isLt hf
    have hg : g.lo + g.w ≤ f.lo ∨ f.lo + f.w ≤ g.lo := h.resolve_left (fun x => x ha)
    simp only [State.get, State.set, ha, State.word_setWord_same, BitVec.toNat_ofNat, Nat.mod_eq_of_lt hl]
    exact hg.elim (bitsOf_withBits_below _ _ _ _ _ _) (bitsOf_withBits_above _ _ _ _ _ _)
  · simp [State.get, State.word_set_other s f v ha]

theorem State.get_lt (f : Fld) : s.get f < 2 ^ f.w := bitsOf_lt _ _ _

/-- A saturating count goes up by `n` and stops at its maximum (R14). -/
theorem State.get_inc_same (f : Fld) (n : Nat) (h : f.lo + f.w ≤ 32) :
    (s.inc f n).get f = min (s.get f + n) (2 ^ f.w - 1) := by
  have h2 := Nat.two_pow_pos f.w
  have hm : Nat.min (s.get f + n) (2 ^ f.w - 1) ≤ 2 ^ f.w - 1 := Nat.min_le_right _ _
  rw [State.inc, State.get_set_same s f _ h, Nat.mod_eq_of_lt (by omega)]

theorem State.get_inc_other (f g : Fld) (n : Nat) (hf : f.lo + f.w ≤ 32) (h : apart f g) : (s.inc f n).get g = s.get g :=
  s.get_set_other f g _ hf h

theorem State.word_inc_other (f : Fld) (n : Nat) {b : Nat} (h : b ≠ f.addr) : (s.inc f n).word b = s.word b :=
  s.word_set_other f _ h

/-- Words of cleared pages read their reset values; the others stand. -/
theorem State.word_clearWords (pg off : Nat → Bool) (a : Nat) :
    (s.clearWords pg off).word a = if pg (a / 0x1000) && off (a % 0x1000) then regReset a else s.word a := by
  have h := AMap.find_filter_key s.regs (fun k => !(pg (k / 0x1000) && off (k % 0x1000))) a
  simp only [State.word, State.clearWords]
  rw [h]
  by_cases hp : (pg (a / 0x1000) && off (a % 0x1000)) = true <;> simp [hp]

end Sys2Proof.Machine
end

