-- ==== Sys2Proof/Laws/Memory.lean ====
section
/-! SUPPORT. Tiers 1 and 2 as bytes: every operation keeps the canonical form, a byte written reads back, every other byte stands. -/

namespace Sys2Proof.Machine

open Sys2Proof

/-! ## The canonical form -/

theorem AMap.put_all {α : Type} {m : AMap α} {p : Nat × α → Bool} (x : Nat) (v : α) (h : m.all p = true)
    (hv : p (x, v) = true) : (AMap.put m x v).all p = true := by
  induction m with
  | nil => simp [AMap.put, hv]
  | cons e m ih =>
    obtain ⟨k, w⟩ := e
    simp only [List.all_cons, Bool.and_eq_true] at h
    simp only [AMap.put]
    split
    · simp [hv, h]
    · split
      · simp [hv, h]
      · simp [h.1, ih h.2]

theorem AMap.del_all {α : Type} {m : AMap α} {p : Nat × α → Bool} (x : Nat) (h : m.all p = true) :
    (AMap.del m x).all p = true := by
  induction m with
  | nil => rfl
  | cons e m ih =>
    obtain ⟨k, w⟩ := e
    simp only [List.all_cons, Bool.and_eq_true] at h
    simp only [AMap.del]
    split
    · exact h.2
    · simp [h.1, ih h.2]

theorem Memory.wf_nil : Memory.wf [] = true := rfl

theorem Memory.wf_write {m : List Host.Cell} (a : Nat) (v : Byte) (h : Memory.wf m = true) :
    Memory.wf (Memory.write m a v) = true := by
  simp only [Memory.wf, Bool.and_eq_true] at h ⊢
  unfold Memory.write
  split
  · exact ⟨AMap.sorted_del a h.1, AMap.del_all a h.2⟩
  · next hv => exact ⟨AMap.sorted_put a v h.1, AMap.put_all a v h.2 (by simpa using hv)⟩

theorem Memory.wf_writeN {m : List Host.Cell} (a : Nat) (l : List Byte) (h : Memory.wf m = true) :
    Memory.wf (Memory.writeN m a l) = true := by
  induction l generalizing m a with
  | nil => exact h
  | cons b l ih => exact ih (a + 1) (Memory.wf_write a b h)

theorem Memory.wf_clear {m : List Host.Cell} (lo hi : Nat) (h : Memory.wf m = true) :
    Memory.wf (Memory.clear m lo hi) = true := by
  simp only [Memory.wf, Bool.and_eq_true] at h ⊢
  refine ⟨AMap.sorted_filter _ h.1, ?_⟩
  simp only [Memory.clear, List.all_eq_true, List.mem_filter] at h ⊢
  exact fun x hx => h.2 x hx.1

theorem Memory.sorted_of_wf {m : List Host.Cell} (h : Memory.wf m = true) : AMap.sorted m = true := by
  simp only [Memory.wf, Bool.and_eq_true] at h
  exact h.1

/-! ## Reading back -/

@[simp] theorem Memory.read_nil (a : Nat) : Memory.read [] a = 0 := rfl

theorem Memory.read_write_same {m : List Host.Cell} (a : Nat) (v : Byte) (h : Memory.wf m = true) :
    Memory.read (Memory.write m a v) a = v := by
  unfold Memory.read Memory.write
  split
  · next hv => simp [AMap.get, AMap.find_del_same a (Memory.sorted_of_wf h), hv]
  · simp

theorem Memory.read_write_other (m : List Host.Cell) {a b : Nat} (v : Byte) (h : b ≠ a) :
    Memory.read (Memory.write m a v) b = Memory.read m b := by
  unfold Memory.read Memory.write
  split
  · simp [AMap.get, AMap.find_del_other m h]
  · exact AMap.get_put_other m v 0 h

/-- Bytes outside those written stand. -/
theorem Memory.read_writeN_other (m : List Host.Cell) (a : Nat) (l : List Byte) (b : Nat) (h : b < a ∨ a + l.length ≤ b) :
    Memory.read (Memory.writeN m a l) b = Memory.read m b := by
  induction l generalizing m a with
  | nil => rfl
  | cons x l ih =>
    simp only [List.length_cons] at h
    simp only [Memory.writeN]
    rw [ih _ (a + 1) (by omega), Memory.read_write_other m x (by omega)]

/-- Bytes written read back. -/
theorem Memory.read_writeN_same {m : List Host.Cell} (a : Nat) (l : List Byte) (i : Nat) (hw : Memory.wf m = true)
    (hi : i < l.length) : Memory.read (Memory.writeN m a l) (a + i) = l.getD i 0 := by
  induction l generalizing m a i with
  | nil => simp at hi
  | cons x l ih =>
    simp only [Memory.writeN]
    cases i with
    | zero =>
      rw [Memory.read_writeN_other _ _ _ _ (by omega)]
      exact Memory.read_write_same a x hw
    | succ i =>
      have := ih (a + 1) i (Memory.wf_write a x hw) (by simpa using hi)
      rw [show a + (i + 1) = a + 1 + i by omega, this]
      simp

theorem Memory.readN_writeN {m : List Host.Cell} (a : Nat) (l : List Byte) (hw : Memory.wf m = true) :
    Memory.readN (Memory.writeN m a l) a l.length = l := by
  apply List.ext_getElem
  · simp [Memory.readN]
  · intro i h1 h2
    have := Memory.read_writeN_same a l i hw h2
    simp only [Memory.readN, List.getElem_map, List.getElem_range, this]
    simp [h2]

/-- Cleared bytes read zero, the others stand. -/
theorem Memory.read_clear (m : List Host.Cell) (lo hi a : Nat) :
    Memory.read (Memory.clear m lo hi) a = if lo ≤ a ∧ a < hi then 0 else Memory.read m a := by
  have h := AMap.find_filter_key m (fun k => decide (k < lo) || decide (hi ≤ k)) a
  simp only [Memory.read, Memory.clear, AMap.get]
  rw [h]
  by_cases h1 : a < lo
  · have : ¬ lo ≤ a := by omega
    simp [h1, this]
  · by_cases h2 : hi ≤ a
    · have : ¬ a < hi := by omega
      simp [h2, this]
    · have h3 : lo ≤ a := by omega
      have h4 : a < hi := by omega
      simp [h1, h2, h3, h4]

/-! ## The stores of the cells -/

theorem find_putBytes_other (m : AMap Byte) (a : Nat) (l : List Byte) (b : Nat) (h : b < a ∨ a + l.length ≤ b) :
    AMap.find (putBytes m a l) b = AMap.find m b := by
  induction l generalizing m a with
  | nil => rfl
  | cons x l ih =>
    simp only [List.length_cons] at h
    simp only [putBytes]
    rw [ih _ (a + 1) (by omega), AMap.find_put_other m x (by omega)]

theorem find_putBytes_same (m : AMap Byte) (a : Nat) (l : List Byte) (i : Nat) (hi : i < l.length) :
    AMap.find (putBytes m a l) (a + i) = some (l.getD i 0) := by
  induction l generalizing m a i with
  | nil => simp at hi
  | cons x l ih =>
    simp only [putBytes]
    cases i with
    | zero =>
      rw [find_putBytes_other _ _ _ _ (by omega)]
      exact AMap.find_put_same m a x
    | succ i =>
      have := ih (AMap.put m a x) (a + 1) i (by simpa using hi)
      rw [show a + (i + 1) = a + 1 + i by omega, this]
      simp

theorem find_putWords_other (m : AMap Word) (a : Nat) (l : List Word) (b : Nat) (h : b < a ∨ a + l.length ≤ b) :
    AMap.find (putWords m a l) b = AMap.find m b := by
  induction l generalizing m a with
  | nil => rfl
  | cons x l ih =>
    simp only [List.length_cons] at h
    simp only [putWords]
    rw [ih _ (a + 1) (by omega), AMap.find_put_other m x (by omega)]

theorem find_putWords_same (m : AMap Word) (a : Nat) (l : List Word) (i : Nat) (hi : i < l.length) :
    AMap.find (putWords m a l) (a + i) = some (l.getD i 0) := by
  induction l generalizing m a i with
  | nil => simp at hi
  | cons x l ih =>
    simp only [putWords]
    cases i with
    | zero =>
      rw [find_putWords_other _ _ _ _ (by omega)]
      exact AMap.find_put_same m a x
    | succ i =>
      have := ih (AMap.put m a x) (a + 1) i (by simpa using hi)
      rw [show a + (i + 1) = a + 1 + i by omega, this]
      simp

variable (s : State)

@[simp] theorem State.cell_setCell_same (c : Nat) (x : CellSt) : (s.setCell c x).cell c = x := by simp [State.cell]

theorem State.cell_setCell_other {c d : Nat} (x : CellSt) (h : d ≠ c) : (s.setCell c x).cell d = s.cell d := by
  simp [State.cell, AMap.get_put_other _ _ _ h]

@[simp] theorem State.core_setCore_same (c k : Nat) (x : CoreSt) : (s.setCore c k x).core c k = x := by simp [State.core]

theorem State.core_setCore_other {c k c' k' : Nat} (x : CoreSt) (h : c' * 32 + k' ≠ c * 32 + k) :
    (s.setCore c k x).core c' k' = s.core c' k' := by
  simp [State.core, AMap.get_put_other _ _ _ h]

@[simp] theorem State.group_setGroup_same (g : Nat) (x : GroupSt) : (s.setGroup g x).group g = x := by simp [State.group]

theorem State.group_setGroup_other {g h : Nat} (x : GroupSt) (hg : h ≠ g) : (s.setGroup g x).group h = s.group h := by
  simp [State.group, AMap.get_put_other _ _ _ hg]

@[simp] theorem State.port_setPort_same (p : Nat) (x : PortSt) : (s.setPort p x).port p = x := by simp [State.port]

theorem State.port_setPort_other {p q : Nat} (x : PortSt) (h : q ≠ p) : (s.setPort p x).port q = s.port q := by
  simp [State.port, AMap.get_put_other _ _ _ h]

/-- A local-store byte that was written reads back. -/
theorem State.lsByte_lsWrite_same (c k a : Nat) (l : List Byte) (i : Nat) (hi : i < l.length) :
    (s.lsWrite c k a l).lsByte c k (a + i) = l.getD i 0 := by
  simp [State.lsByte, State.lsWrite, AMap.get, find_putBytes_same _ _ _ _ hi]

theorem State.lsByte_lsWrite_other (c k a : Nat) (l : List Byte) (b : Nat) (h : b < a ∨ a + l.length ≤ b) :
    (s.lsWrite c k a l).lsByte c k b = s.lsByte c k b := by
  simp [State.lsByte, State.lsWrite, AMap.get, find_putBytes_other _ _ _ _ h]

theorem State.lsRead_lsWrite (c k a : Nat) (l : List Byte) : (s.lsWrite c k a l).lsRead c k a l.length = l := by
  apply List.ext_getElem
  · simp [State.lsRead]
  · intro i h1 h2
    have := s.lsByte_lsWrite_same c k a l i h2
    simp only [State.lsRead, List.getElem_map, List.getElem_range, this]
    simp [h2]

theorem State.csByte_csWrite_same (c a : Nat) (l : List Byte) (i : Nat) (hi : i < l.length) :
    (s.csWrite c a l).csByte c (a + i) = l.getD i 0 := by
  simp [State.csByte, State.csWrite, AMap.get, find_putBytes_same _ _ _ _ hi]

theorem State.csByte_csWrite_other (c a : Nat) (l : List Byte) (b : Nat) (h : b < a ∨ a + l.length ≤ b) :
    (s.csWrite c a l).csByte c b = s.csByte c b := by
  simp [State.csByte, State.csWrite, AMap.get, find_putBytes_other _ _ _ _ h]

theorem State.csRead_csWrite (c a : Nat) (l : List Byte) : (s.csWrite c a l).csRead c a l.length = l := by
  apply List.ext_getElem
  · simp [State.csRead]
  · intro i h1 h2
    have := s.csByte_csWrite_same c a l i h2
    simp only [State.csRead, List.getElem_map, List.getElem_range, this]
    simp [h2]

theorem State.accGet_accWrite_same (c k e : Nat) (l : List Word) (i : Nat) (hi : i < l.length) :
    (s.accWrite c k e l).accGet c k (e + i) = l.getD i 0 := by
  simp [State.accGet, State.accWrite, AMap.get, find_putWords_same _ _ _ _ hi]

theorem State.accGet_accWrite_other (c k e : Nat) (l : List Word) (b : Nat) (h : b < e ∨ e + l.length ≤ b) :
    (s.accWrite c k e l).accGet c k b = s.accGet c k b := by
  simp [State.accGet, State.accWrite, AMap.get, find_putWords_other _ _ _ _ h]

end Sys2Proof.Machine
end

