-- ==== Sys2Proof/Laws/Events.lean ====
section
/-! SUPPORT. Raising an event and writing its record: what each may change. -/

namespace Sys2Proof.Machine

open Sys2Proof

/-- `t` differs from `s` only in what writing records may change. -/
def RecordsOnly (s t : State) : Prop := t = s.recorded t ∧ ∀ a, a ∉ recordWords → t.word a = s.word a

theorem RecordsOnly.refl (s : State) : RecordsOnly s s := ⟨rfl, fun _ _ => rfl⟩

theorem RecordsOnly.trans {s t u : State} (h : RecordsOnly s t) (k : RecordsOnly t u) : RecordsOnly s u := by
  refine ⟨?_, fun a ha => (k.2 a ha).trans (h.2 a ha)⟩
  have h1 := h.1
  have k1 := k.1
  rw [h1] at k1
  exact k1

/-- An update that leaves the registers. -/
theorem RecordsOnly.of_regs {s t : State} (h : t = s.recorded t) (hr : t.regs = s.regs) : RecordsOnly s t :=
  ⟨h, fun a _ => State.word_congr hr a⟩

theorem RecordsOnly.set {s : State} {f : Fld} (v : Nat) (h : f.addr ∈ recordWords) : RecordsOnly s (s.set f v) :=
  ⟨rfl, fun _ ha => s.word_set_other f v (fun e => ha (e ▸ h))⟩

theorem RecordsOnly.inc {s : State} {f : Fld} (n : Nat) (h : f.addr ∈ recordWords) : RecordsOnly s (s.inc f n) :=
  RecordsOnly.set _ h

theorem RecordsOnly.emit (s : State) (o : Out) : RecordsOnly s (s.emit o) := .of_regs rfl rfl

theorem RecordsOnly.host (s : State) (h : HostSt) : RecordsOnly s { s with host := h } := .of_regs rfl rfl

/-- Fields that a run of records leaves: those outside the record words. -/
theorem RecordsOnly.get {s t : State} (h : RecordsOnly s t) {f : Fld} (hf : f.addr ∉ recordWords) : t.get f = s.get f := by
  simp [State.get, h.2 _ hf]

theorem RecordsOnly.frame {s t : State} (h : RecordsOnly s t) : t = s.recorded t := h.1

/-- A fold of steps that only write records only writes records. -/
theorem RecordsOnly.foldl {α : Type} {f : State → α → State} (h : ∀ s x, RecordsOnly s (f s x)) (l : List α) (s : State) :
    RecordsOnly s (l.foldl f s) := by
  induction l generalizing s with
  | nil => exact .refl s
  | cons x l ih => exact (h s x).trans (ih (f s x))

/-! ## The sinks of a record -/

theorem State.owe_recordsOnly (s : State) (vec : Nat) : RecordsOnly s (s.owe vec) := by
  unfold State.owe; split
  · exact .refl s
  · exact .host s _

theorem State.signal_recordsOnly (s : State) (vec : Nat) : RecordsOnly s (s.signal vec) := by
  unfold State.signal
  split
  · exact s.owe_recordsOnly vec
  · simp only []
    split
    · exact .emit s _
    · exact (RecordsOnly.emit s _).trans (.host _ _)

theorem State.ringWrite_recordsOnly (s : State) (r : EventRec) : RecordsOnly s (s.ringWrite r) := by
  unfold State.ringWrite
  exact ((RecordsOnly.emit s _).trans (.set _ (by decide))).trans (State.signal_recordsOnly _ _)

theorem State.ringPut_recordsOnly (s : State) (r : EventRec) : RecordsOnly s (s.ringPut r) := by
  unfold State.ringPut; split
  · exact (RecordsOnly.inc 1 (by decide)).trans (.host _ _)
  · exact s.ringWrite_recordsOnly r

theorem State.hostRecord_recordsOnly (s : State) (r : EventRec) : RecordsOnly s (s.hostRecord r) := by
  unfold State.hostRecord; split
  · exact s.ringPut_recordsOnly r
  · split
    · exact .host s _
    · exact .inc 1 (by decide)

theorem State.cbRecord_recordsOnly (s : State) (r : EventRec) : RecordsOnly s (s.cbRecord r) := by
  unfold State.cbRecord; split
  · exact .of_regs rfl rfl
  · exact .refl s

theorem State.logFault_recordsOnly (s : State) (f : FaultRec) : RecordsOnly s (s.logFault f) := by
  have h : ∀ (u : State) (a : AMap FaultRec) (n : Nat), RecordsOnly u { u with faults := a, faultSeq := n } :=
    fun _ _ _ => .of_regs rfl rfl
  unfold State.logFault
  simp only []
  split
  · exact ((RecordsOnly.inc 1 (by decide)).trans (h _ _ _)).trans (.set _ (by decide))
  · exact ((RecordsOnly.inc 1 (by decide)).trans (h _ _ _)).trans (.set _ (by decide))

/-- Everything the record of an event changes. -/
theorem State.writeRecord_recordsOnly (s : State) (x : Raised) : RecordsOnly s (s.writeRecord x) := by
  have hlog : ∀ u : State, RecordsOnly u (match x.fault with | some f => u.logFault f | none => u) := by
    intro u; cases x.fault with
    | none => exact .refl u
    | some f => exact u.logFault_recordsOnly f
  have hcount : ∀ (u : State) (m : AMap Nat), RecordsOnly u { u with evCount := m } := fun _ _ => .of_regs rfl rfl
  have h0 : ∀ h, RecordsOnly s { s with host := h } := RecordsOnly.host s
  have h1 : ∀ h m, RecordsOnly s { s with host := h, evCount := m } := fun h m => (h0 h).trans (hcount _ m)
  unfold State.writeRecord
  simp only []
  split
  · exact (h0 _).trans (hlog _)
  · split
    · refine RecordsOnly.trans ?_ (hlog _)
      split <;> split
      · exact h1 _ _
      · exact (h1 _ _).trans (State.hostRecord_recordsOnly _ _)
      · exact (h1 _ _).trans (State.cbRecord_recordsOnly _ _)
      · exact ((h1 _ _).trans (State.hostRecord_recordsOnly _ _)).trans (State.cbRecord_recordsOnly _ _)
    · split
      · exact ((h1 _ _).trans (RecordsOnly.inc 1 (by decide))).trans (hlog _)
      · exact (h1 _ _).trans (RecordsOnly.inc 1 (by decide))

/-- Writing a record leaves the events that are still to be recorded. -/
theorem RecordsOnly.keep (s : State) (x : Raised) : (s.writeRecord x).raised = s.raised := by
  have hsig : ∀ (u : State) (v : Nat), (u.signal v).raised = u.raised := by
    intro u v; unfold State.signal State.owe; simp only []; repeat' split
    all_goals rfl
  have hring : ∀ (u : State) (r : EventRec), (u.hostRecord r).raised = u.raised := by
    intro u r; unfold State.hostRecord State.ringPut State.ringWrite; simp only []; repeat' split
    all_goals first | rfl | (rw [hsig]; rfl)
  have hcb : ∀ (u : State) (r : EventRec), (u.cbRecord r).raised = u.raised := by
    intro u r; unfold State.cbRecord; simp only []; split <;> rfl
  have hlog : ∀ (u : State) (f : FaultRec), (u.logFault f).raised = u.raised := by
    intro u f; simp only [State.logFault]; split <;> rfl
  cases hf : x.fault <;> simp only [State.writeRecord, hf] <;> (repeat' split) <;>
    simp only [hlog, hcb, hring, State.inc_raised]

theorem foldl_writeRecord_raised (l : List Raised) (s : State) : (l.foldl State.writeRecord s).raised = s.raised := by
  induction l generalizing s with
  | nil => rfl
  | cons x l ih => rw [List.foldl_cons, ih, RecordsOnly.keep]

/-! ## The end of a command -/

/-- The records of a command's events change nothing else. -/
theorem State.flush_recordsOnly (s : State) : RecordsOnly s s.flush := by
  have h : RecordsOnly s { s with raised := [] } := .of_regs rfl rfl
  exact h.trans (RecordsOnly.foldl State.writeRecord_recordsOnly _ _)

/-- No event waits for its record. -/
@[simp] theorem State.flush_raised (s : State) : s.flush.raised = [] := by
  unfold State.flush
  rw [foldl_writeRecord_raised]

/-- With no event raised nothing is recorded. -/
theorem State.flush_of_none {s : State} (h : s.raised = []) : s.flush = s := by
  have e : ({ s with raised := [] } : State) = s := by rw [← h]
  simp only [State.flush, h, sortRaised, List.foldl_nil]
  exact e

theorem State.flush_word (s : State) {a : Nat} (h : a ∉ recordWords) : s.flush.word a = s.word a :=
  s.flush_recordsOnly.2 a h

theorem State.flush_get (s : State) {f : Fld} (h : f.addr ∉ recordWords) : s.flush.get f = s.get f :=
  s.flush_recordsOnly.get h

theorem done_eq (s : State) : done s = .next s.flush := rfl

/-! ## Raising -/

theorem bitAt_eq_testBit (v n : Nat) : bitAt v n = v.testBit n := by
  simp [bitAt, Nat.testBit_eq_decide_div_mod_eq, BEq.beq]

/-- An event that is raised sets its bit. -/
theorem State.raiseEv_eventSet (s : State) (b : Bool) (code page : Nat) (e : EvInfo) :
    (s.raiseEv b code page e).eventSet code page := by
  have h : (s.raiseEv b code page e).get (R.pageEvent page) =
      (s.set (R.pageEvent page) (s.get (R.pageEvent page) ||| 2 ^ (code % 32))).get (R.pageEvent page) := rfl
  have h2 : (s.get (R.pageEvent page) ||| 2 ^ (code % 32)) < 2 ^ 32 :=
    Nat.or_lt_two_pow (s.get_lt _) (Nat.pow_lt_pow_right (by decide) (Nat.mod_lt _ (by decide)))
  rw [State.eventSet, h, State.get_set_same s (R.pageEvent page) _ (Nat.le_refl 32)]
  rw [show (R.pageEvent page).w = 32 from rfl, Nat.mod_eq_of_lt h2, bitAt_eq_testBit, Nat.testBit_or]
  simp

theorem State.raise_eventSet (s : State) (code page : Nat) (e : EvInfo) : (s.raise code page e).eventSet code page :=
  s.raiseEv_eventSet false code page e

/-- Raising an event changes no word but the page's EVENT word. -/
theorem State.word_raise_other (s : State) (code page : Nat) (e : EvInfo) {a : Nat} (h : a ≠ page * 0x1000 + 0x10) :
    (s.raise code page e).word a = s.word a := s.word_set_other _ _ h

/-- An event bit that is set stays set when another event is raised. -/
theorem State.eventSet_raise (s : State) (code page code' page' : Nat) (e : EvInfo) (h : s.eventSet code page) :
    (s.raise code' page' e).eventSet code page := by
  by_cases hp : page = page'
  · subst hp
    have hg : (s.raise code' page e).get (R.pageEvent page) =
        (s.set (R.pageEvent page) (s.get (R.pageEvent page) ||| 2 ^ (code' % 32))).get (R.pageEvent page) := rfl
    have h2 : (s.get (R.pageEvent page) ||| 2 ^ (code' % 32)) < 2 ^ 32 :=
      Nat.or_lt_two_pow (s.get_lt _) (Nat.pow_lt_pow_right (by decide) (Nat.mod_lt _ (by decide)))
    rw [State.eventSet, bitAt_eq_testBit] at h ⊢
    rw [hg, State.get_set_same s (R.pageEvent page) _ (Nat.le_refl 32), show (R.pageEvent page).w = 32 from rfl, Nat.mod_eq_of_lt h2,
      Nat.testBit_or, h]
    rfl
  · have ha : (R.pageEvent page).addr ≠ page' * 0x1000 + 0x10 := by
      simp only [R.pageEvent, Fld.addr]; omega
    simpa [State.eventSet, State.get, State.word_raise_other s code' page' e ha] using h

/-- EVENT words are no record words: an event's bit outlives its record. -/
theorem State.eventSet_flush (s : State) (code page : Nat) (h : s.eventSet code page) : s.flush.eventSet code page := by
  have ha : (R.pageEvent page).addr ∉ recordWords := by
    simp only [R.pageEvent, Fld.addr, recordWords, R.hostEvqWr, R.hostEvqLost, R.mgmtEvtSuppressed, R.mgmtFaultCount,
      R.mgmtFaultWr, List.mem_cons, List.not_mem_nil, or_false, not_or]
    omega
  rw [State.eventSet, State.flush_get s ha]
  exact h

end Sys2Proof.Machine
end

