-- ==== Sys2Proof/Laws/Sends.lean ====
section
/-! SUPPORT. Sending on a port changes that port and what leaves the module, and nothing else. -/

namespace Sys2Proof.Machine

open Sys2Proof

/-- `t` differs from `s` in its ports and outputs only. -/
def PortsOnly (s t : State) : Prop := t = { s with ports := t.ports, out := t.out }

theorem PortsOnly.refl (s : State) : PortsOnly s s := rfl

theorem PortsOnly.trans {s t u : State} (h : PortsOnly s t) (k : PortsOnly t u) : PortsOnly s u := by
  unfold PortsOnly at *
  rw [h] at k
  exact k

theorem PortsOnly.setPort (s : State) (p : Nat) (x : PortSt) : PortsOnly s (s.setPort p x) := rfl

theorem PortsOnly.emit (s : State) (o : Out) : PortsOnly s (s.emit o) := rfl

theorem PortsOnly.foldl {α : Type} {f : State → α → State} (h : ∀ s x, PortsOnly s (f s x)) (l : List α) (s : State) :
    PortsOnly s (l.foldl f s) := by
  induction l generalizing s with
  | nil => exact .refl s
  | cons x l ih => exact (h s x).trans (ih (f s x))

/-- The registers are as before. -/
theorem PortsOnly.regs {s t : State} (h : PortsOnly s t) : t.regs = s.regs := by rw [h]

theorem PortsOnly.get {s t : State} (h : PortsOnly s t) (f : Fld) : t.get f = s.get f := State.get_congr h.regs f

/-- Such a change stands beside the records of a command. -/
theorem PortsOnly.recorded {s t : State} (h : PortsOnly s t) : t.flush = { s.recorded t.flush with ports := t.flush.ports } := by
  have k := t.flush_recordsOnly.frame
  generalize t.flush = u at *
  have hp : u.ports = (t.recorded u).ports := congrArg State.ports k
  refine k.trans ?_
  unfold PortsOnly at h
  rw [hp]
  conv => lhs; rw [h]
  rfl

theorem State.sendFrame_portsOnly (s : State) (p : Nat) (e : TxFlit) : PortsOnly s (s.sendFrame p e) := by
  unfold State.sendFrame
  simp only []
  exact (PortsOnly.setPort s p _).trans (.emit _ _)

theorem State.spend_portsOnly (s : State) (p : Nat) (e : TxFlit) : PortsOnly s (s.spend p e) :=
  (PortsOnly.setPort s p _).trans (State.sendFrame_portsOnly _ _ _)

theorem State.sendDue_portsOnly (s : State) (p : Nat) (f : Flit) : PortsOnly s (s.sendDue p f) := by
  unfold State.sendDue
  simp only []
  split
  · split
    · exact (PortsOnly.setPort s p _).trans (State.sendFrame_portsOnly _ _ _)
    · exact (PortsOnly.setPort s p _).trans (State.spend_portsOnly _ _ _)
  · split
    · exact (PortsOnly.setPort s p _).trans (State.spend_portsOnly _ _ _)
    · exact .refl s

theorem State.returnCredits_portsOnly (p n : Nat) (s : State) : PortsOnly s (State.returnCredits p n s) := by
  induction n generalizing s with
  | zero => exact .refl s
  | succ n ih =>
    unfold State.returnCredits
    simp only []
    have h := s.sendDue_portsOnly p s.op5
    split
    · exact h
    · exact ((s.sendDue_portsOnly p _).trans (State.sendFrame_portsOnly _ p _)).trans (ih _)

theorem State.freeSlot_portsOnly (s : State) (p q : Nat) : PortsOnly s (s.freeSlot p q) := rfl

theorem State.leave_portsOnly (s : State) (o : Option (Nat × Nat)) : PortsOnly s (s.leave o) := by
  unfold State.leave
  split
  · exact (s.freeSlot_portsOnly _ _).trans (State.returnCredits_portsOnly _ 20 _)
  · exact .refl s

theorem State.pumpLoop_portsOnly (p n : Nat) (s : State) : PortsOnly s (State.pumpLoop p n s) := by
  induction n generalizing s with
  | zero => exact .refl s
  | succ n ih =>
    unfold State.pumpLoop
    simp only []
    have h := s.sendDue_portsOnly p s.op5
    split
    · exact h
    · split
      · exact h
      · exact (((h.trans (PortsOnly.setPort _ p _)).trans (State.spend_portsOnly _ _ _)).trans
          (State.leave_portsOnly _ _)).trans (ih _)

theorem State.pump_portsOnly (s : State) (p : Nat) : PortsOnly s (s.pump p) := State.pumpLoop_portsOnly p _ s

/-- Everything a flit handed to a port changes. -/
theorem State.sendTx_portsOnly (s : State) (p : Nat) (e : TxFlit) : PortsOnly s (s.sendTx p e) :=
  (PortsOnly.setPort s p _).trans (State.pump_portsOnly _ p)

theorem State.sendFlit_portsOnly (s : State) (p : Nat) (f : Flit) : PortsOnly s (s.sendFlit p f) := s.sendTx_portsOnly p _

theorem State.sendCtl_portsOnly (s : State) (p vc : Nat) (w : CtlWord) : PortsOnly s (s.sendCtl p vc w) :=
  s.sendFlit_portsOnly p _

theorem State.releaseFlit_portsOnly (s : State) (p : Nat) (f : Flit) : PortsOnly s (s.releaseFlit p f) := s.leave_portsOnly _

theorem State.arrive_portsOnly (s : State) (p : Nat) (f : Flit) : PortsOnly s (s.arrive p f).2 := by
  unfold State.arrive
  simp only []
  split <;> exact PortsOnly.setPort s p _

theorem State.sendLines_portsOnly (s : State) (kind dest src off req : Nat) (poison : List Nat) (data : List Byte) :
    PortsOnly s (s.sendLines kind dest src off req poison data) := by
  unfold State.sendLines
  simp only []
  refine PortsOnly.foldl (fun s x => ?_) _ s
  split
  · exact .refl s
  · exact s.sendFlit_portsOnly _ _

end Sys2Proof.Machine
end

