-- ==== Sys2Proof/Laws/Access.lean ====
section
/-! SUPPORT. Register accesses: where a write with an effect of its own reaches its register, and what a refused access does. -/

namespace Sys2Proof.Machine

open Sys2Proof

/-- A write whose path and page are open has its effect. -/
theorem State.writeAt_reaches {s : State} {path : Path} {f : Fld} (eff : State → State) (h : s.reaches path f.page) :
    s.writeAt path f eff = .next (eff s).flush := by
  simp [State.writeAt, h.1, h.2, done]

/-- A write to a page that does not answer is refused. -/
theorem State.writeAt_refused {s : State} {path : Path} {f : Fld} (eff : State → State) (h : s.pathOpen path = true)
    (hp : s.pageOpen f.page = false) : s.writeAt path f eff = .next (s.refuseAccess path f.addr).flush := by
  simp [State.writeAt, h, hp, done]

/-- Nothing comes on a path that is closed. -/
theorem State.writeAt_closed {s : State} {path : Path} {f : Fld} (eff : State → State) (h : s.pathOpen path = false) :
    s.writeAt path f eff = .next s.flush := by
  simp [State.writeAt, h, done]

/-- A refused access is raised. -/
theorem State.refuseAccess_eventSet (s : State) (path : Path) (off : Nat) : (s.refuseAccess path off).eventSet 0x0808 pgHOST :=
  State.raise_eventSet _ _ _ _

/-- A refused access changes registers only, and the words of page HOST alone. -/
theorem State.refuseAccess_frame (s : State) (path : Path) (off : Nat) :
    (s.refuseAccess path off) = { s with regs := (s.refuseAccess path off).regs, raised := (s.refuseAccess path off).raised } ∧
      ∀ a, a ≠ R.hostBadAccess.addr → a ≠ R.hostBadAccessLastOffset.addr → a ≠ 0x10 →
        (s.refuseAccess path off).word a = s.word a := by
  refine ⟨rfl, fun a h1 h2 h3 => ?_⟩
  unfold State.refuseAccess
  rw [State.word_raise_other _ _ _ _ (by simpa [pgHOST] using h3), State.word_set_other _ _ _ (by exact h2),
    State.word_set_other _ _ _ h2, State.word_inc_other _ _ _ h1]

/-- The key lock changes one register field at most. -/
theorem State.lockKey_frame (s : State) (off : Nat) : s.lockKey off = { s with regs := (s.lockKey off).regs } := by
  unfold State.lockKey
  repeat' split
  all_goals rfl

theorem State.lockKey_word (s : State) (off : Nat) {a : Nat} (h : a ≠ R.memIlStatusLocked1.addr) :
    (s.lockKey off).word a = s.word a := by
  unfold State.lockKey
  repeat' split
  all_goals first | rfl | exact State.word_set_other _ _ _ h

/-- A step with a command in front runs it on the rest. -/
theorem step_cons (s : State) (c : Instr) (rest : List Instr) (h : s.pending = c :: rest) :
    step s = exec c { s with pending := rest } := by
  simp [step, h]

end Sys2Proof.Machine
end

