-- ==== Sys2Proof/Machine/Line.lean ====
section
/-! DEFINITION. What a port frame looks like on the lanes (R328 to R333): codewords with their check symbols, symbols over eight or
seven lanes, scrambling, lane markers, PAM4. No command's effect reads it: it is what the far end of the fibres sees of the
frames in `out`. -/

namespace Sys2Proof.Machine

open Sys2Proof

/-! ## The code (R329, R330) -/

/-- GF(2¹⁰) over x¹⁰ + x³ + 1: a symbol times α. -/
def gfAlpha (a : Nat) : Nat := (a * 2 % 1024) ^^^ (if bitAt a 9 then 9 else 0)

/-- A product, from the highest bit of `b` down. -/
def gfMul (a b : Nat) : Nat :=
  (List.range 10).foldl (fun r i => gfAlpha r ^^^ (if bitAt b (9 - i) then a else 0)) 0

/-- α to the power i. -/
def gfPow (i : Nat) : Nat := (List.range i).foldl (fun a _ => gfAlpha a) 1

/-- A polynomial, highest power first, times x − r. -/
def gfTimesRoot (p : List Nat) (r : Nat) : List Nat :=
  (p ++ [0]).zipWith (· ^^^ ·) (0 :: p.map (gfMul r))

/-- The generator: (x − α⁰) … (x − α²³), highest power first. -/
def rsGenerator : List Nat := (List.range 24).foldl (fun p i => gfTimesRoot p (gfPow i)) [1]

/-- The check symbols of data symbols (R330): the remainder of data × x²⁴ by the generator, highest power first. -/
def rsCheck (data : List Nat) : List Nat :=
  let g := rsGenerator.drop 1
  data.foldl (fun r d =>
    let t := r.headD 0 ^^^ d
    (r.drop 1 ++ [0]).zipWith (· ^^^ ·) (g.map (gfMul t))) (List.replicate 24 0)

/-- A codeword: 456 data symbols, then 24 check symbols. -/
def rsEncode (data : List Nat) : List Nat := data ++ rsCheck data

/-- The value of symbols, highest power first, at a point: 0 at α⁰ to α²³ for a codeword. -/
def gfEval (symbols : List Nat) (x : Nat) : Nat := symbols.foldl (fun r d => gfMul r x ^^^ d) 0

/-! ## Bytes, symbols and bits -/

/-- Ten-bit symbols of a byte string, bit 7 of each byte first: four of every five bytes. -/
def symbolsOf (b : List Byte) : List Nat :=
  (piecesOf 5 (b.length / 5 + 1) b).flatMap fun p =>
    let v := p.foldl (fun v x => v * 256 + x.toNat) 0
    [v / 2 ^ 30, v / 2 ^ 20 % 1024, v / 2 ^ 10 % 1024, v % 1024]

/-- The bits of a field, most significant first. -/
def msbFirst (w v : Nat) : List Bool := (List.range w).map fun i => bitAt v (w - 1 - i)

/-- The 512 bytes of a flit (R335). -/
def flitBytes (f : Flit) : List Byte := fitBytes 512 (wordsLe (cwWords f.hdr) ++ f.payload)

/-- The frame header with its CRC-8 (R331). -/
def frameHeader (frame ack : Nat) (nak : Bool) : Nat :=
  let v := frame % 2 ^ 32 + ack % 2 ^ 32 * 2 ^ 32 + boolNat nak * 2 ^ 64
  v + crc8 ((List.range 9).map fun i => BitVec.ofNat 8 (bitsOf v (64 - 8 * i) 8)) * 2 ^ 72

/-- The 5,130 bytes of a port frame: its header, then ten flits. -/
def portFrameBytes (header : Nat) (flits : List Flit) : List Byte :=
  ((List.range 10).map fun i => BitVec.ofNat 8 (bitsOf header (72 - 8 * i) 8)) ++
    (List.range 10).flatMap fun i => flitBytes (flits.getD i idleFlit)

/-- The nine codewords of a frame (R328). -/
def codewordsOf (b : List Byte) : List (List Nat) := (piecesOf 456 9 (symbolsOf b)).map rsEncode

/-! ## Lanes (R330, R333) -/

/-- The FEC stream of a logical lane, in symbols: of 8 lanes in use, or of 7 with the fill symbols of lanes 4 to 6. -/
def laneSymbols (narrow : Bool) (cws : List (List Nat)) (lane : Nat) : List Nat :=
  let n := if narrow then 7 else 8
  let own := (List.range (480 / n + 1)).flatMap fun j =>
    if n * j + lane ≤ 479 then cws.map fun c => c.getD (n * j + lane) 0 else []
  own ++ (if narrow ∧ 4 ≤ lane then List.replicate 9 0 else [])

/-- The scrambling sequence's first 58 terms: bits [35:0] of the marker, and ones above them. -/
def scrambleSeed (marker : Nat) : List Bool := (List.range 58).map fun i => decide (36 ≤ i) || bitAt marker i

/-- A stream scrambled (R330): term n of the sequence is term n − 39 plus term n − 58. `last` holds the last 58 terms, the newest
first. -/
def scrambleBits : List Bool → List Bool → List Bool
  | _, [] => []
  | last, b :: l =>
    let t := last.getD 38 false ^^ last.getD 57 false
    (b ^^ t) :: scrambleBits ((t :: last).take 58) l

/-- PAM4 levels, Gray coded, two bits each (R330). -/
def pam4 : List Bool → List Nat
  | a :: b :: l => (match a, b with
      | false, false => 0
      | false, true => 1
      | true, true => 2
      | true, false => 3) :: pam4 l
  | _ => []

/-- One lane frame (R328): the marker in the clear, then the scrambled stream. -/
def laneFrame (marker : Nat) (symbols : List Nat) : List Nat :=
  pam4 (msbFirst 40 marker ++ scrambleBits (scrambleSeed marker) (symbols.flatMap (msbFirst 10)))

/-- What the lanes of a port carry for a frame, by physical lane: a lane in use its logical lane; the understudy of a swap a copy of the
lane it is to take over once it mirrors it (R361); before that, and idle, the marker alone, since the spec gives the training and
idle patterns no contents. A retired or failed lane's laser is idle. -/
def State.onTheLanes (s : State) (p frame ack : Nat) (nak : Bool) (flits : List Flit) : List (Nat × List Nat) :=
  let d := (s.port p).tx
  let cws := codewordsOf (portFrameBytes (frameHeader frame ack nak) flits)
  let lit := (List.range 9).filter fun i =>
    let l := d.lanes.getD i .failed
    decide (l = .active ∨ l = .ready ∨ l = .training)
  lit.map fun phys =>
    let logical := bitsOf (d.marker frame phys) 4 4
    let symbols := if logical < 8 then laneSymbols d.narrow cws logical
      else if logical = 0xE then laneSymbols d.narrow cws d.target
      else []
    (phys, laneFrame (d.marker frame phys) symbols)

end Sys2Proof.Machine
end

