-- ==== Sys2Proof/Laws/Line.lean ====
section
/-! SUPPORT. The line code (R328 to R333): scrambling undoes itself, and the lengths it gives. -/

namespace Sys2Proof.Machine

open Sys2Proof

@[simp] theorem scrambleBits_length (s l : List Bool) : (scrambleBits s l).length = l.length := by
  induction l generalizing s with
  | nil => rfl
  | cons b l ih => simp [scrambleBits, ih]

/-- The sequence does not depend on the data, so the same sequence takes it off again (R330). -/
theorem scrambleBits_twice (s l : List Bool) : scrambleBits s (scrambleBits s l) = l := by
  induction l generalizing s with
  | nil => rfl
  | cons b l ih => simp [scrambleBits, ih]

@[simp] theorem msbFirst_length (w v : Nat) : (msbFirst w v).length = w := by simp [msbFirst]

end Sys2Proof.Machine
end

