-- ==== Sys2Proof/Machine/Precond.lean ====
section
/-! DEFINITION. The layer rule PRECOND (R292 to R295): what the program of an owned layer computes between its UPDATE READs and its
UPDATE WRITEs. No command runs it as one: the module runs the program's own matrix, vector and update commands (log 88). -/

namespace Sys2Proof.Machine

open Sys2Proof

/-- A matrix of F32 words, row by row. -/
abbrev Mat := List (List Word)

def matMap (f : Word → Word) (a : Mat) : Mat := a.map fun r => r.map f
def matZip (f : Word → Word → Word) (a b : Mat) : Mat := List.zipWith (List.zipWith f) a b
def matTranspose (a : Mat) : Mat := (List.range (a.headD []).length).map fun j => a.map fun r => r.getD j 0
def diagonal (n : Nat) (w : Word) : Mat := (List.range n).map fun i => (List.range n).map fun j => if i = j then w else 0
def diagonalOf (a : Mat) : List Word := a.zipIdx.map fun p => p.1.getD p.2 0

/-- An F32 operand as the multipliers take it: F21 by nearest even, subnormals flushed (R95, R96). -/
def toMultiplier (w : Word) : Num := flushIn .F21 (Fmt.F21.round .nearest (f32 w)).1

/-- A row by a column in the reference order, padded with zeros to whole groups of 16 (R95). -/
def dotWords (a b : List Word) : Word :=
  let groups := ceilDiv a.length 16
  let l := (a.zip b).map fun p => (toMultiplier p.1, toMultiplier p.2)
  (dotGroups groups 0 .zero (l ++ List.replicate (16 * groups - l.length) (Num.zero, Num.zero))).1

/-- A matrix product (R293). -/
def matMul (a b : Mat) : Mat :=
  let c := matTranspose b
  a.map fun r => c.map fun k => dotWords r k

/-- The sum of the fixed tree over a list (R146). -/
def treeSum (l : List Word) : Word :=
  (toF32 (redTree .redSum l.length (l.map fun w => (f32 w, Counts.zero))).1).1

/-- The iteration of R294: `k` rounds left, the root `x` so far and `mm`. -/
def rootLoop (g : UGroup) (y : Scalars) (n : Nat) : Nat → Mat → Mat → Option Mat
  | 0, _, _ => none
  | k + 1, x, mm =>
    let p := ofNat32 g.rootP
    let t := matMap (fun w => (mul32 w (div32 one32 p).1).1)
      (matZip (fun a b => (sub32 a b).1) (diagonal n (ofNat32 (g.rootP + 1))) mm)
    let x := matMul x t
    let tp := matMul t t
    let tp := if g.rootP = 4 then matMul tp tp else tp
    let mm := matMul tp mm
    let e := ((matZip (fun a b => (sub32 a b).1) mm (diagonal n one32)).flatten.map fun w => (f32 w).abs).foldl maxNum .zero
    if !e.isFin then none
    else if !(f32 y.tol).lt e then some x
    else rootLoop g y n k x mm

/-- One attempt on the matrix `a` (R294). -/
def rootAttempt (g : UGroup) (y : Scalars) (a : Mat) : Option Mat :=
  let s := (sqrt32 (treeSum (a.flatten.map fun w => (mul32 w w).1))).1
  let tr := f32 (treeSum (diagonalOf a))
  if !(f32 s).isFin || (f32 s).isZero || !tr.isFin || !Num.zero.lt tr then none
  else
    let r := (sqrt32 (div32 (mul32 (ofNat32 2) s).1 (ofNat32 (g.rootP + 1))).1).1
    let r := if g.rootP = 4 then (sqrt32 r).1 else r
    let rp := (mul32 r r).1
    let rp := if g.rootP = 4 then (mul32 rp rp).1 else rp
    rootLoop g y a.length g.iterLimit (diagonal a.length (div32 one32 r).1) (matMap (fun w => (div32 w rp).1) a)

/-- `f` with the damping added to its diagonal, one rounding each (R294). -/
def damped (y : Scalars) (f : Mat) : Mat :=
  f.zipIdx.map fun r => r.1.zipIdx.map fun c => if r.2 = c.2 then (add32 c.1 y.damp).1 else c.1

/-- The inverse root of one factor and the attempt that found it (R294). -/
def rootOf (g : UGroup) (y : Scalars) (f : Mat) : Option (Mat × Nat) :=
  match rootAttempt g y f with
  | some x => some (x, 1)
  | none => (rootAttempt g y (damped y f)).map fun x => (x, 2)

/-- A layer's state block (R292). -/
structure LayerState where
  rootOk : Nat
  fl     : Mat
  fr     : Mat
  xl     : Mat
  xr     : Mat
  deriving DecidableEq, Repr, Inhabited

/-- Its bytes in memory. -/
def LayerState.bytes (b : LayerState) : List Byte :=
  natLe 64 b.rootOk ++ bytesOfWords (b.fl.flatten ++ b.fr.flatten ++ b.xl.flatten ++ b.xr.flatten)

/-- What an update of a layer writes. -/
structure LayerUpdate where
  w     : Mat
  m     : Mat
  v     : Mat
  state : LayerState
  deriving DecidableEq, Repr, Inhabited

/-- One owned layer (R293): gradient, committed weights, moments and state block. In a first step the moments, the factors and ROOT_OK
are taken as zeros (R298). Without roots the layer takes the element-wise form FALLBACK names and keeps the stored roots (R295). -/
def precondLayer (g : UGroup) (x : Scalars) (grad w0 m0 v0 : Mat) (b : LayerState) : LayerUpdate :=
  let old := fun (a : Mat) => if x.first then matMap (fun _ => 0) a else a
  let mulBy := fun (c : Word) (a : Mat) => matMap (fun w => (mul32 c w).1) a
  let mix := fun (c : Word) (a p : Mat) => matZip (fun a p => (fma32 c a p).1) a p
  let gm := mulBy x.gradMul grad
  let m := mix x.b1 (old m0) (mulBy x.c1 gm)
  let v := if g.fallback = 3 then mix x.b2 (old v0) (mulBy x.c2 (matZip (fun a b => (mul32 a b).1) gm gm)) else []
  let fl := mix x.b2 (old b.fl) (mulBy x.c2 (matMul gm (matTranspose gm)))
  let fr := mix x.b2 (old b.fr) (mulBy x.c2 (matMul (matTranspose gm) gm))
  let ok0 := if x.first then 0 else b.rootOk
  let (xl, xr, ok) :=
    if x.rootDue || ok0 == 0 then
      match rootOf g x fl, rootOf g x fr with
      | some l, some r => (l.1, r.1, max l.2 r.2)
      | _, _ => (b.xl, b.xr, 0)
    else (b.xl, b.xr, ok0)
  let mh := matMap (fun w => (mul32 w x.a1).1) m
  let u :=
    if ok ≠ 0 then matMul (matMul xl mh) xr
    else if g.fallback = 3 then
      matZip (fun a c => (div32 a (add32 (sqrt32 (mul32 c x.a2).1).1 x.eps).1).1) mh v
    else mh
  { w := matZip (fun u w => (commonPart x u w).1) u w0, m := m, v := v,
    state := { rootOk := ok, fl := fl, fr := fr, xl := xl, xr := xr } }

end Sys2Proof.Machine
end

