-- ==== Sys2Proof/WellFormed.lean ====
section
/-! DEFINITION. Which operands can reach the module: the widths of offsets, chip numbers and codes, the lengths of lists and frames
that the spec fixes. A command outside a range that the spec gives an effect (a refusal, an event) is well formed. -/

namespace Sys2Proof

/-- Engine commands carry a 32-bit OFFSET (R155). -/
def Issue.wf (i : Issue) : Bool := decide (i.offset < 2 ^ 32)

/-- A byte offset of the 8 TiB map (R206). -/
def offsetOk (off : Nat) : Bool := decide (off < 2 ^ 43)

/-- A chip number (R27). -/
def chipOk (chip : Nat) : Bool := decide (chip < 2 ^ 14)

/-- A BAR0 byte offset: 64 MiB (R404). -/
def bar0Ok (off : Nat) : Bool := decide (off < 2 ^ 26)

/-- A line of 64 bytes (R209, R399). -/
def lineLen (b : List Byte) : Bool := b.length == 64

/-- A line is stored as 72 symbols (R219). -/
def eccOk (e : EccErrs) : Bool := e.all fun x => decide (x.2 ≤ 72)

/-- A flit's payload of at most 480 bytes (R335). -/
def Flit.wf (f : Flit) : Bool := decide (f.payload.length ≤ 480)

/-- A port frame: nine codewords, whose errors lie on the nine lanes; at most ten flits (R328, R331). -/
def Frame.wf (f : Frame) : Bool :=
  f.errs.length == 9 && f.errs.all (fun c => decide (c.length ≤ 9)) && decide (f.flits.length ≤ 10) && f.flits.all Flit.wf

/-- A ledger counts the 20 pools (R342, R344). -/
def Ledger.wf (l : Ledger) : Bool :=
  decide (l.frame < 2 ^ 32) && l.sent.length == 20 && l.credIn.length == 20 && l.sent.all (fun n => decide (n < 2 ^ 32)) &&
    l.credIn.all fun n => decide (n < 2 ^ 32)

/-- Readings of the nine lanes (R326, R358). -/
def nine {α : Type} (l : List α) : Bool := l.length == 9

def TrainResult.wf (r : TrainResult) : Bool :=
  nine r.rx && nine r.tx && nine r.pathLoss && nine r.peerTx && nine r.peerBol && decide (r.lastGood < 2 ^ 32)

/-- A descriptor of eight words (R414). -/
def DmaDesc.wf (d : DmaDesc) : Bool := d.words.length == 8

/-- A Callboard frame: six-bit positions, at most 256 bytes of payload (R418). -/
def CbFrame.wf (f : CbFrame) : Bool := decide (f.dest < 64) && decide (f.src < 64) && decide (f.payload.length ≤ 256)

/-- A CXL.mem access of one 64-byte line (R401). -/
def CxlMemAccess.wf (a : CxlMemAccess) : Bool := a.addr % 64 == 0 && a.write.all lineLen && eccOk a.ecc

/-- A report has an entry for each of 32 cages and 4 voltage domains (R370, R378). -/
def StepReport.wf (r : StepReport) : Bool :=
  r.cages.length == 32 && r.cages.all (fun c => decide (c < 4)) && r.biasBol.length == 32 && r.offsets.length == 4

/-- A remote access; a write carries its data (R246). -/
def RemoteReq.wf (r : RemoteReq) : Bool :=
  chipOk r.srcChip && decide (r.reqId < 2 ^ 16) && offsetOk r.off && (!r.write || r.data.length == r.len) && eccOk r.ecc

/-- A WAIT's timeout of 0 to 4,095 cues (R163). -/
def timeoutOk (n : Nat) : Bool := decide (n ≤ 4095)

def ReleaseTo.wf : ReleaseTo → Bool
  | .group _ _ => true
  | .remote chip off _ => chipOk chip && offsetOk off

/-- A remote access names a chip and an offset of its map (R27, R206, R246). -/
def RemoteFields.wf (f : RemoteFields) : Bool := chipOk f.chip && offsetOk f.off && eccOk f.ecc

def LateAccess.wf : LateAccess → Bool
  | .request f => f.wf
  | .read | .write => true

def HostFlit.wf : HostFlit → Bool
  | .request ecc => eccOk ecc
  | .write | .answer => true

/-- Every operand has a value and a shape that can reach the module. The operands of the commands that the last arm takes are of types
all of whose values can. -/
def Instr.wf : Instr → Bool
  | .stagingWrite _ off _ => bar0Ok off
  | .mma i _ | .add i _ | .mul i _ | .fma i _ | .min i _ | .max i _ | .cmpLt i _ | .cmpLe i _ | .cmpEq i _ | .cmpGe i _
  | .cmpGt i _ | .cmpNe i _ | .sel i _ | .cvt i _ | .mant i _ | .expo i _ | .scale2 i _ | .redSum i _ | .redMax i _
  | .redMin i _ | .redAmax i _ | .localCopy i _ | .cellStoreTransfer i _ | .tileLoad i _ _ | .tileStore i _
  | .regionReset i _ _ | .flagWrite i _ _ | .mark i _ => i.wf
  | .release i d => i.wf && d.wf
  | .cellMoverTransfer i f => i.wf && eccOk f.ecc
  | .remoteWrite i f => i.wf && f.wf
  | .remoteRead i f => i.wf && f.wf
  | .remoteAccessReceived r => r.wf
  | .remoteReplyReceived id _ => decide (id < 2 ^ 16)
  | .pageWrite i f => i.wf && eccOk f.ecc
  | .pageRead i f => i.wf && eccOk f.ecc
  | .updateRead i f => i.wf && eccOk f.ecc
  | .updateWrite i f => i.wf && eccOk f.ecc
  | .wait i f => i.wf && timeoutOk f.timeout
  | .flagInc i _ k => i.wf && decide (k < 2 ^ 8)
  | .commWait _ _ f => timeoutOk f.timeout
  | .collectiveFlitReceived _ f => f.wf
  | .p2pFlitReceived _ f => f.wf
  | .mgmtMirrorReceived _ dest src frame => chipOk dest && chipOk src && frame.wf
  | .hostInitiatedFlitReceived _ f role => f.wf && role.wf
  | .reduceScatter _ _ f | .allReduce _ _ f => eccOk f.ecc
  | .allGather _ _ f => eccOk f.ecc
  | .allToAll _ _ f => eccOk f.ecc
  | .permute _ _ f => eccOk f.ecc
  | .p2pSkewWindow flits _ => flits.length == 32
  | .patrolScrub line _ _ _ => decide (line < 2 ^ 36)
  | .channelOccupancyWindow w => w.occ.length == 768 && w.replays.length == 16
  | .snapshotStart ecc => eccOk ecc
  | .frameReceived _ f => f.wf
  | .ledgerFlitReceived _ l => l.wf
  | .laneCmdMirrorVerified _ _ frame => decide (frame < 2 ^ 32)
  | .laneCmdNarrowRequest _ _ frame => decide (frame < 2 ^ 32)
  | .laneCmdCreditReinit _ free lastGood => free.length == 20 && decide (lastGood < 2 ^ 32)
  | .laneSwitch _ _ frame _ _ => decide (frame < 2 ^ 32)
  | .monitorSend _ r => nine r
  | .laneClassify _ r => nine r
  | .trainingPhaseDone _ r => r.wf
  | .pluggableInserted _ page => decide (page.code < 4) && nine page.biasBol
  | .thermalSample t _ _ => t.length == 320
  | .ageingReplan need _ _ => need.length == 4
  | .cxlLinkUp rate width _ => decide (1 ≤ rate ∧ rate ≤ 3) && (width == 8 || width == 16)
  | .tier3RequestDone _ data _ => data.isEmpty || lineLen data
  | .cxlMemAccess a => a.wf
  | .biResponse _ dirty => dirty.all lineLen
  | .hostSnoop addr => addr % 64 == 0
  | .registerWrite _ off size _ => bar0Ok off && (size == 1 || size == 2 || size == 4 || size == 8)
  | .registerTimeout _ off acc => bar0Ok off && acc.wf
  | .eventForce _ page _ => decide (page < 2 ^ 14)
  | .dmaTailWrite _ tail descs => decide (tail < 2 ^ 16) && descs.all DmaDesc.wf
  | .dmaChannelEnable _ _ descs => descs.all DmaDesc.wf
  | .enumerate f | .enumDone f | .regRead f | .regWrite f | .reset f | .mboxReq f | .recoveryBlock f _ | .callboardForward f => f.wf
  | .startupStepComplete r => r.wf
  | .startupStepTimeout cause => decide (1 ≤ cause ∧ cause ≤ 8)
  | .resetLevelWrite _ level => decide (level < 8)
  | .dmaDescriptorDone _ data _ _ => eccOk data.ecc
  | .mboxDiagnostic _ _ op _ => decide (128 ≤ op.toNat)
  | _ => true

end Sys2Proof
end

