-- ==== Sys2Proof/Tests/Slice0.lean ====
section
/-! SUPPORT. Tests of the model: operands that each check of WellFormed refuses; for each statement of Obligations.lean concrete
values that meet the premises of each of its clauses; and single commands whose results are worked out by hand from the rule
that each test names. -/

open Sys2Proof Sys2Proof.Machine

set_option Elab.async false

namespace Sys2Proof.Tests

/-! ## Small states -/

/-- The state after a command. -/
def after (o : Host.Outcome State Fault Refusal) : State :=
  match o with
  | .next t => t
  | _ => State.reset

def isNext (o : Host.Outcome State Fault Refusal) : Bool :=
  match o with
  | .next _ => true
  | _ => false

theorem next_after {o : Host.Outcome State Fault Refusal} (h : isNext o = true) : o = .next (after o) := by
  cases o <;> first | rfl | cases h

theorem over_option {α : Type} {o : Option α} {P : α → Prop} [DecidablePred P] (h : (o.all fun x => decide (P x)) = true) :
    ∀ x, o = some x → P x := by
  intro x hx; subst hx; exact of_decide_eq_true h

/-- Registers of a state, one after the other. -/
def State.with (s : State) (l : List (Fld × Nat)) : State := l.foldl (fun (t : State) x => t.set x.1 x.2) s

/-- Start-up has ended (R442). -/
def run : State := State.with State.reset [(R.mgmtStartState, 1)]

/-- And these registers. -/
def on (l : List (Fld × Nat)) : State := State.with run l

/-- The host link up at Gen5, in CXL (R397). -/
def hosted : State := on [(R.hostLinkRate, 1), (R.hostLinkCxl, 1)]

/-- Port 0 up; its allotment code is 0, the direction +X (R348, R352). -/
def linked : State := on [(R.portStateState 0, 2)]

/-- A Performance act on rows 0 and 1 and group 0, with its deadline at cue 5. -/
def act0 : ActiveAct :=
  { desc := { act := 7, type := 1, phase := 0, overlap := false, program := 1, start := 0, deadline := 5, rows := 3,
              portGroups := 1, groups := 1, every := 1, segment := 0 },
    start := 0, deadline := 5, overran := false, busy := false, once := [], minClock := 540, frozen := [], strict := [] }

/-- Command 9 is at the head of each of its queues. -/
def ready (k : CoreSt) : CoreSt :=
  let q := fun (e : EngQ) => { e with held := [(9, 0)] }
  { k with mat := q k.mat, vec := q k.vec, mov := q k.mov, syn := q k.syn }

/-- A Performance act is active; core 0 of cell 0 has commands. -/
def acting : State := { run with acts := [act0], cores := [(0, ready CoreSt.empty)] }

def iss : Issue := { cell := 0, core := 0, tag := 9, offset := 0, gate := false }
def cell0 : CellId := 0
def core0 : CoreId := 0
def group0 : GroupId := 0
def port0 : PortId := 0
def flag0 : FlagRef := ⟨0, 3⟩

/-! ## Ill-formed operands are told apart -/

theorem smoke_issue : (Instr.mark { iss with offset := 2 ^ 32 } 1).wf = false := by decide
theorem smoke_offset : (Instr.stagingWrite .host (2 ^ 26) 0).wf = false := by decide
theorem smoke_chip : (Instr.remoteWrite iss ⟨2 ^ 14, 0, 0, 64, flag0, []⟩).wf = false := by decide
theorem smoke_ecc : (Instr.cellMoverTransfer iss ⟨.tierRead 0 0 64, flag0, [(0, 73)]⟩).wf = false := by decide
theorem smoke_release : (Instr.release iss (.remote 1 (2 ^ 43) flag0)).wf = false := by decide
theorem smoke_wait : (Instr.wait iss ⟨0, 1, 4096, false, false, false⟩).wf = false := by decide
theorem smoke_flag : (Instr.flagInc iss flag0 256).wf = false := by decide
theorem smoke_flit : (Instr.p2pFlitReceived 0 ⟨default, List.replicate 481 0⟩).wf = false := by decide +kernel
theorem smoke_frame : (Instr.frameReceived 0 ⟨0, [[], [], []], [], none, []⟩).wf = false := by decide
theorem smoke_ledger : (Instr.ledgerFlitReceived 0 ⟨0, [], [], 0, true⟩).wf = false := by decide
theorem smoke_remote : (Instr.remoteAccessReceived ⟨true, 1, 1, 0, 64, [1], [], []⟩).wf = false := by decide
theorem smoke_train : (Instr.trainingPhaseDone 0 ⟨[], [], default, [], [], [], 0⟩).wf = false := by decide
theorem smoke_sample : (Instr.thermalSample [0] 0 0).wf = false := by decide
theorem smoke_link : (Instr.cxlLinkUp 4 16 true).wf = false := by decide
theorem smoke_line : (Instr.biResponse 0 (some [1])).wf = false := by decide
theorem smoke_mem : (Instr.cxlMemAccess ⟨1, none, false, false, []⟩).wf = false := by decide
theorem smoke_size : (Instr.registerWrite .host 0 3 0).wf = false := by decide
theorem smoke_descriptor : (Instr.dmaTailWrite 0 1 [⟨[1]⟩]).wf = false := by decide
theorem smoke_callboard : (Instr.regRead ⟨64, false, false, 0, 0, 0, [], 0, 0⟩).wf = false := by decide
theorem smoke_report : (Instr.startupStepComplete ⟨true, 0, [], [], [], 0⟩).wf = false := by decide
theorem smoke_page : (Instr.pluggableInserted 0 ⟨4, []⟩).wf = false := by decide
theorem smoke_dma : (Instr.dmaDescriptorDone 0 ⟨[], [], [(0, 73)]⟩ false false).wf = false := by decide
theorem smoke_diagnostic : (Instr.mboxDiagnostic .host 0 5 0).wf = false := by decide
theorem smoke_comm_wait : (Instr.commWait 0 1 ⟨flag0, 1, 5000⟩).wf = false := by decide
theorem smoke_well_formed : (Instr.mark iss 1).wf = true := by decide

/-! ## The premises can be met: the machine, cue, alignment -/

def unpowered : State := { State.reset with start := { StartSt.powerUp with powered := false } }
def queued : State := { run with pending := [.cueBoundary] }

/-- Key slot 1 and SVN 3 of type 1 have been burned. -/
def burnt : State := { State.reset with fw := { FwSt.factory with burnedKeys := 2, burnedSvn := [3, 0, 0, 0] } }

/-- CUR_CUE is 4, one before act0's deadline. -/
def late : State := { on [(R.cueCurCueLo, 4)] with acts := [act0] }

/-- A marker of cue 0 with BUSY (R338). -/
def marker0 : MarkerIn := ⟨cwSeal [1, 0, 0, 0, 0, 0x00030005, 1 + 1000 * 2 ^ 16], 50, 0⟩

/-- Port 0 up, the counter set. -/
def timed : State := { linked with cue := { CueSt.reset with counterSet := true } }

/-- An alignment measures. -/
def probing (x : PortSt) : State := { linked with cue := { CueSt.reset with phase := .probing }, ports := [(0, x)] }

/-- A delay probe (R338): sent at 140 by the peer, which received this port's at 120. -/
def probe0 : Probe := ⟨cwSeal [5, 140, 0, 120, 0, 0, 0], 200⟩

/-- The outcome of a step is still to come. -/
def job0 : JobSt :=
  { program := 1, base := 0, due := [], fresh := false, skipping := false, shiftMark := 0, outcomeAt := some 4, ending := false }

/-- A root in its seed window. -/
def seeding : State :=
  { on [(R.cueAlignCtrlRoot, 1), (R.cueAlignCtrlUseSeed, 1)] with
      time := 500, cue := { CueSt.reset with phase := .seedWindow, began := 100, windowEnd := some 900 } }

/-! ## Call sheets and acts -/

/-- Core 0 of cell 0 has two commands still to fetch. -/
def fetching : State := { acting with cores := [(0, { CoreSt.empty with vec := { EngQ.empty with stream := [1, 2] } })] }

def act1 : ActiveAct := { act0 with desc := { act0.desc with act := 8, rows := 2, groups := 2 } }

def prog0 : Program := ⟨1, 0, 128, 1, 540, [], [], []⟩

/-- An aligned module with an armed sheet. -/
def sheeted (l : List (Fld × Nat)) (x : SheetSt) (staged : AMap Word) : State :=
  { on ((R.cueAlignStatusState, 2) :: l) with sheet := { x with armed := true }, shadow := staged }

/-- What the markers said of a machine sheet. -/
def flooded (accept : Bool) (a b : Half) (s : State) : State :=
  { s with cue := { s.cue with flood := { busy := false, held := false, accept := accept, digOr := a, digAnd := b } } }

/-- A job whose only act is due at cue 1, and a step whose outcome is due at cue 4, with its hold limit at 0. -/
def starting : State :=
  { linked with job := some { job0 with outcomeAt := none, due := [⟨act0.desc, 1⟩] }, progs := [prog0] }
def holding9 : State :=
  { late with job := some job0, regs := (on [(R.cueCurCueLo, 4), (R.cueHoldLimit, 0)]).regs, groups := [(0, { GroupSt.empty with held := [6] })] }

theorem witness_StepTakesTheFrontCommand :
    (let s : State := State.reset;
     s.pending = [] ∧ s.start.powered = true ∧ s.traced = [] ∧ NothingUnrecorded s) ∧
    (let s : State := unpowered;
     s.pending = [] ∧ s.start.powered = false) ∧
    (let s : State := { run with traced := [List.replicate 32 1] };
     s.pending = [] ∧ s.start.powered = true) := by
  unfold NothingUnrecorded
  and_intros <;> decide +kernel

theorem witness_EveryStepKeepsTheCanonicalForm :
    (let s : State := queued; let t : State := after (step queued);
     Canonical s ∧ step s = .next t) := by
  and_intros <;> first | exact next_after (by decide +kernel) | decide +kernel | (unfold Canonical; decide +kernel)

theorem witness_EveryStepRecordsItsEvents :
    (let s : State := queued; let t : State := after (step queued);
     NothingUnrecorded s ∧ step s = .next t) := by
  and_intros <;> first | exact next_after (by decide +kernel) | decide +kernel | (unfold NothingUnrecorded; decide +kernel)

theorem witness_BoundariesCountCuesAndOverrunLateActs :
    (let s : State := late;
     s.dataOn = true) ∧
    (let s : State := run;
     s.dataOn = true ∧ s.sheet.armed = false ∧ s.acts = [] ∧ s.job = none) := by
  and_intros <;> decide +kernel

theorem witness_BoundariesCountCuesAndOverrunLateActs_1 :
    (let s : State := late;
     let late := s.acts.filter fun (a : ActiveAct) => decide (a.deadline ≤ (s.cueNow + 1) % 2 ^ 64) && !a.overran;
     let a := act0;
     s.dataOn = true ∧ s.sheet.armed = false ∧ (s.acts.map (·.desc.act)).Nodup ∧ late ≠ [] ∧
     (∀ j, s.job = some j → j.skipping = true ∨ (if s.heldNow then (s.shift + 1) % 2 ^ 32 else s.shift) ≤ j.shiftMark + s.get R.cueHoldLimit) ∧
     a ∈ s.acts ∧ a.deadline ≤ (s.cueNow + 1) % 2 ^ 64) := by
  and_intros <;> first | exact (by intro j h; cases h) | decide +kernel

theorem witness_BoundariesCountCuesAndOverrunLateActs_2 :
    (let s : State := { late with job := some job0, acts := [act0, { act0 with desc := { act0.desc with act := 8 }, overran := true, busy := true }] };
     let late := s.acts.filter fun (a : ActiveAct) => decide (a.deadline ≤ (s.cueNow + 1) % 2 ^ 64) && !a.overran;
     let a := act0;
     s.dataOn = true ∧ s.sheet.armed = false ∧ (s.acts.map (·.desc.act)).Nodup ∧ late ≠ [] ∧
     (∀ j, s.job = some j → j.skipping = true ∨ (if s.heldNow then (s.shift + 1) % 2 ^ 32 else s.shift) ≤ j.shiftMark + s.get R.cueHoldLimit) ∧
     a ∈ s.acts ∧ a.deadline ≤ (s.cueNow + 1) % 2 ^ 64) := by
  and_intros <;> first | exact over_option (by decide +kernel) | decide +kernel

theorem witness_MarkersJoinTheFloodOrAreMissed :
    (let p : PortId := port0; let m : MarkerIn := marker0; let s : State := timed;
     s.dataOn = true ∧ s.portIsUp p = true ∧ cwCrcOk m.word = true ∧ bitsOf m.word.w0.toNat 0 8 = 1 ∧
     s.cue.counterSet = true ∧ m.word.w3.toNat + 2 ^ 32 * m.word.w4.toNat = s.cueNow ∧
     bitsOf m.word.w6.toNat 16 16 = s.get R.cuePeriodUs) ∧
    (let p : PortId := port0; let s : State := linked;
     s.dataOn = true ∧ s.portIsUp p = true ∧ (s.port p).markerCue ≠ some s.cueNow) ∧
    (let s : State := linked;
     s.dataOn = true ∧ s.torusPorts ≠ [] ∧ (∀ p ∈ s.torusPorts, (s.port p).markerCue ≠ some s.cueNow)) := by
  and_intros <;> decide +kernel

theorem witness_AlignmentMeasuresTheLinks :
    (let path : Path := .callboard; let s : State := run;
     s.reaches path R.cueAlignCtrlStart.page ∧ s.dataOn = true ∧ s.torusPorts = [] ∧ s.root = false) ∧
    (let path : Path := .callboard; let s : State := on [(R.cueAlignCtrlRoot, 1), (R.cueAlignCtrlUseSeed, 1)];
     s.reaches path R.cueAlignCtrlStart.page ∧ s.dataOn = true ∧ s.torusPorts = [] ∧ s.root = true ∧
     s.cue.counterSet = false ∧ s.flagReg R.cueAlignCtrlUseSeed = true) ∧
    (let path : Path := .callboard; let s : State := on [(R.cueAlignCtrlRoot, 1)];
     s.reaches path R.cueAlignCtrlStart.page ∧ s.dataOn = true ∧ s.torusPorts = [] ∧ s.root = true ∧
     (s.cue.counterSet = true ∨ s.flagReg R.cueAlignCtrlUseSeed = false) ∧ s.cue.counterSet = false) ∧
    (let p : PortId := port0; let m : Probe := probe0; let s : State := linked;
     s.dataOn = true ∧ s.portIsUp p = true ∧ cwCrcOk m.word = true ∧ bitsOf m.word.w0.toNat 0 8 = 5) ∧
    (let path : Path := .callboard; let s : State := linked;
     s.reaches path R.cueAlignCtrlStart.page ∧ s.dataOn = true ∧ s.torusPorts ≠ []) ∧
    (let p : PortId := port0; let m : Probe := probe0;
     let s : State := probing { PortSt.reset with probes := 1023, probeSent := [100, 190], probeTold := 90 };
     let peerSent := BitVec.ofNat 64 (m.word.w1.toNat + 2 ^ 32 * m.word.w2.toNat);
     let mineCame := BitVec.ofNat 64 (m.word.w3.toNat + 2 ^ 32 * m.word.w4.toNat); let sent : DWord := 100;
     let l : List DWord := [190];
     s.dataOn = true ∧ s.portIsUp p = true ∧ cwCrcOk m.word = true ∧ bitsOf m.word.w0.toNat 0 8 = 5 ∧
     s.cue.phase = .probing ∧ (s.port p).measured = false ∧ s.allot p < 6 ∧ (s.port p).probes < 1024 ∧
     (s.port p).probeSent = sent :: l ∧ mineCame ≠ 0 ∧ mineCame ≠ (s.port p).probeTold ∧
     (peerSent - mineCame).toNat ≤ (m.arrived - sent).toNat) ∧
    (let p : PortId := port0; let m : Probe := probe0;
     let s : State := probing { PortSt.reset with probes := 5, probeSent := [100], probeTold := 120 };
     let mineCame := BitVec.ofNat 64 (m.word.w3.toNat + 2 ^ 32 * m.word.w4.toNat);
     s.dataOn = true ∧ s.portIsUp p = true ∧ cwCrcOk m.word = true ∧ bitsOf m.word.w0.toNat 0 8 = 5 ∧
     s.cue.phase = .probing ∧ (s.port p).measured = false ∧ s.allot p < 6 ∧ (s.port p).probes < 1024 ∧
     (mineCame = 0 ∨ mineCame = (s.port p).probeTold)) ∧
    (let p : PortId := port0; let s : State := probing { PortSt.reset with probes := 1024, probeSum := 204800 };
     s.dataOn = true ∧ s.cue.phase = .probing ∧ (s.port p).measured = false ∧ 1024 ≤ (s.port p).probes ∧ s.allot p < 6) := by
  unfold State.reaches
  and_intros <;> decide +kernel

theorem witness_CountersAreSetLockedAndLost :
    (let m : SeedPulse := ⟨900, 100, 1000000⟩; let s : State := seeding;
     s.dataOn = true ∧ s.root = true ∧ s.flagReg R.cueAlignCtrlUseSeed = true ∧ s.cue.counterSet = false ∧
     validPulse m = true ∧ ¬ m.edge < s.cue.began ∧ s.cue.phase = .seedWindow ∧ ¬ (s.cue.windowEnd.getD 0) < m.edge) ∧
    (let s : State := seeding;
     s.dataOn = true ∧ s.cue.phase = .seedWindow) ∧
    (let s : State := { linked with cue := { CueSt.reset with hasParent := true, counterSet := true, inBand := 64 } };
     s.dataOn = true ∧ s.root = false ∧ s.cue.hasParent = true ∧ s.cue.counterSet = true ∧ 64 ≤ s.cue.inBand) ∧
    (let s : State := { on [(R.cueAlignStatusState, 2)] with cue := { CueSt.reset with hasParent := true, outBand := 16 } };
     s.dataOn = true ∧ s.root = false ∧ s.alignState = 2 ∧ s.cue.hasParent = true ∧ 16 ≤ s.cue.outBand) := by
  and_intros <;> decide +kernel

theorem witness_SheetsArmAndDisarm :
    (let path : Path := .callboard; let machine : Bool := true;
     let s : State := on [(R.cueAlignStatusState, 2), (R.cueCsTargetLo, 3)];
     s.reaches path R.cueCsCtrlArm.page ∧ s.sheet.armed = false ∧ s.aligned = true ∧
     s.cueNow + (if machine then 3 else 2) ≤ s.csTarget) ∧
    (let path : Path := .callboard; let machine : Bool := true;
     let s : State := on [(R.cueAlignStatusState, 2), (R.cueCsTargetLo, 2)];
     s.reaches path R.cueCsCtrlArm.page ∧ s.sheet.armed = false ∧ s.aligned = true ∧
     s.csTarget < s.cueNow + (if machine then 3 else 2)) ∧
    (let path : Path := .callboard; let machine : Bool := false;
     let s : State := on [(R.cueAlignStatusState, 2), (R.cueCsTargetLo, 2)];
     s.reaches path R.cueCsCtrlArm.page ∧ s.sheet.armed = false ∧ s.aligned = true ∧
     s.cueNow + (if machine then 3 else 2) ≤ s.csTarget) ∧
    (let path : Path := .callboard;
     let s : State := { run with sheet := { SheetSt.idle with armed := true, checked := true } };
     s.reaches path R.cueCsCtrlDisarm.page ∧ s.sheet.armed = true ∧ s.sheet.checked = true) ∧
    (let path : Path := .callboard; let s : State := { run with sheet := { SheetSt.idle with armed := true } };
     s.reaches path R.cueCsCtrlDisarm.page ∧ s.sheet.armed = true ∧ s.sheet.checked = false) := by
  unfold State.reaches
  and_intros <;> decide +kernel

theorem witness_CallSheetsAreCheckedAndApplied :
    (let s : State := sheeted [(R.cueCsTargetLo, 2)] SheetSt.idle [(R.cueHoldLimit.addr, 7)];
     let machine := s.flagReg R.cueCsCtrlMachine; let b := (s.toSheets.set R.cueCsStatusState 2).touchTables;
     let verdict := (b.checkSheet machine false s.csTarget).map fun (f : Failure) => (f.addr, f.cause);
     let e := ((R.cueHoldLimit.addr, 7) : Nat × Word); let r := ⟨R.cueHoldLimit, .st, 0x40⟩;
     s.dataOn = true ∧ s.sheet.armed = true ∧ s.sheet.checked = false ∧
     s.csTarget = s.nextCue + (if machine then 2 else 1) ∧ verdict = none ∧ e ∈ s.shadow ∧ r ∈ stagedRows e.1 ∧
     b.changed r.fld = true) ∧
    (let s : State := sheeted [(R.cueCsTargetLo, 3), (R.cueCsCtrlMachine, 1)] SheetSt.idle [(R.cuePeriodUs.addr, 2000)];
     let machine := s.flagReg R.cueCsCtrlMachine; let b := (s.toSheets.set R.cueCsStatusState 2).touchTables;
     let verdict := (b.checkSheet machine false s.csTarget).map fun (f : Failure) => (f.addr, f.cause);
     let e := ((R.cuePeriodUs.addr, 2000) : Nat × Word); let r := ⟨R.cuePeriodUs, .st, 0x3e8⟩;
     s.dataOn = true ∧ s.sheet.armed = true ∧ s.sheet.checked = false ∧
     s.csTarget = s.nextCue + (if machine then 2 else 1) ∧ machine = true ∧ verdict = none ∧ e ∈ s.shadow ∧
     r ∈ stagedRows e.1 ∧ b.changed r.fld = true ∧ isAny machineWide r.fld = true) ∧
    (let s : State := sheeted [(R.cueCsTargetLo, 2)] SheetSt.idle [(R.cuePeriodUs.addr, 2000)];
     let machine := s.flagReg R.cueCsCtrlMachine; let b := (s.toSheets.set R.cueCsStatusState 2).touchTables;
     let verdict := (b.checkSheet machine false s.csTarget).map fun (f : Failure) => (f.addr, f.cause);
     let addr : Nat := R.cuePeriodUs.addr; let cause : Nat := 3;
     s.dataOn = true ∧ s.sheet.armed = true ∧ s.sheet.checked = false ∧
     s.csTarget = s.nextCue + (if machine then 2 else 1) ∧ verdict = some (addr, cause)) ∧
    (let s : State := sheeted [(R.cueCsTargetLo, 2)] { SheetSt.idle with dropped := some R.cueHoldLimit.addr } [];
     let machine := s.flagReg R.cueCsCtrlMachine; let b := (s.toSheets.set R.cueCsStatusState 2).touchTables;
     let verdict := (b.checkSheet machine false s.csTarget).map fun (f : Failure) => (f.addr, f.cause);
     let addr : Nat := R.cueHoldLimit.addr; let cause : Nat := 4; let a : Nat := R.cueHoldLimit.addr;
     s.dataOn = true ∧ s.sheet.armed = true ∧ s.sheet.checked = false ∧
     s.csTarget = s.nextCue + (if machine then 2 else 1) ∧ verdict = some (addr, cause) ∧ s.sheet.dropped = some a) ∧
    (let s : State := { sheeted [(R.cueCsTargetLo, 2)] SheetSt.idle [(R.cueHoldLimit.addr, 7)] with progs := [prog0] };
     let machine := s.flagReg R.cueCsCtrlMachine; let b := (s.toSheets.set R.cueCsStatusState 2).touchTables;
     let verdict := (b.checkSheet machine false s.csTarget).map fun (f : Failure) => (f.addr, f.cause);
     let e := ((R.cueHoldLimit.addr, 7) : Nat × Word); let r := ⟨R.cueHoldLimit, .st, 0x40⟩;
     s.dataOn = true ∧ s.sheet.armed = true ∧ s.sheet.checked = false ∧
     s.csTarget = s.nextCue + (if machine then 2 else 1) ∧ verdict = none ∧ e ∈ s.shadow ∧ r ∈ stagedRows e.1 ∧
     b.changed r.fld = true ∧ b.loaded = true) ∧
    (let s : State := flooded true 5 5 (sheeted [(R.cueCsTargetLo, 2), (R.cueCsCtrlMachine, 1)] { SheetSt.idle with checked := true } []);
     let fl := s.cue.flood;
     s.dataOn = true ∧ s.sheet.armed = true ∧ s.sheet.checked = true ∧ s.sheet.passed = false ∧ s.csTarget = s.nextCue + 1 ∧
     fl.digOr = fl.digAnd ∧ fl.accept = true) ∧
    (let s : State := flooded false 5 5 (sheeted [(R.cueCsTargetLo, 2), (R.cueCsCtrlMachine, 1)] { SheetSt.idle with checked := true } []);
     let fl := s.cue.flood;
     s.dataOn = true ∧ s.sheet.armed = true ∧ s.sheet.checked = true ∧ s.sheet.passed = false ∧ s.csTarget = s.nextCue + 1 ∧
     (fl.digOr ≠ fl.digAnd ∨ fl.accept = false)) ∧
    (let s : State := sheeted [(R.cueCsTargetLo, 1)] { SheetSt.idle with checked := true, passed := true } [(R.cueHoldLimit.addr, 7)];
     let f := R.scaleCtrlReload; let e := ((R.cueHoldLimit.addr, 7) : Nat × Word);
     s.dataOn = true ∧ s.sheet.armed = true ∧ s.sheet.checked = true ∧ s.sheet.passed = true ∧ s.csTarget = s.nextCue ∧
     s.job = none ∧ s.acts = [] ∧ s.groups = [] ∧ s.mem.waiting = [] ∧ s.pwr.gap = none ∧
     s.getStaged R.mgmtJobCtrlStart = 0 ∧ f ∈ oneShots ∧ s.sheet.taken = Taken.none ∧ AMap.sorted s.shadow = true ∧
     (∀ e ∈ s.shadow, stagedRows e.1 ≠ []) ∧ (∀ f ∈ oneShots, s.getStaged f = 0) ∧
     s.getStaged R.commitCtrlActive = s.get R.commitCtrlActive ∧ (∀ p < 32, s.stagedAllot p = s.allot p) ∧ e ∈ s.shadow) ∧
    (let path : Path := .callboard; let machine : Bool := true; let s : State := run;
     s.reaches path R.cueCsCtrlArm.page ∧ s.sheet.armed = false ∧ s.aligned = false ∧
     (machine = true ∨ s.csTarget ≠ 0 ∨ s.loaded = true)) ∧
    (let path : Path := .callboard; let machine : Bool := false;
     let s : State := { run with shadow := [(R.cueHoldLimit.addr, 7)] };
     let b := ({ s.set R.cueCsCtrlMachine 0 with sheet := { SheetSt.idle with armed := true } }).touchTables;
     let verdict := (b.checkSheet false true 0).map fun (f : Failure) => (f.addr, f.cause);
     s.reaches path R.cueCsCtrlArm.page ∧ s.sheet.armed = false ∧ s.aligned = false ∧ machine = false ∧ s.csTarget = 0 ∧
     s.loaded = false ∧ verdict = none) ∧
    (let path : Path := .callboard; let machine : Bool := false;
     let s : State := { run with shadow := [(R.mgmtJobBaseLo.addr, 2)] };
     let b := ({ s.set R.cueCsCtrlMachine 0 with sheet := { SheetSt.idle with armed := true } }).touchTables;
     let verdict := (b.checkSheet false true 0).map fun (f : Failure) => (f.addr, f.cause);
     let addr : Nat := R.mgmtJobBaseLo.addr; let cause : Nat := 3;
     s.reaches path R.cueCsCtrlArm.page ∧ s.sheet.armed = false ∧ s.aligned = false ∧ machine = false ∧ s.csTarget = 0 ∧
     s.loaded = false ∧ verdict = some (addr, cause)) := by
  unfold State.reaches
  and_intros <;> decide +kernel

theorem witness_StagingWritesReachOnlyTheShadow :
    (let path : Path := .callboard; let off : Nat := R.cuePeriodUs.addr + 0x800; let s : State := run; let a := 0;
     s.pathOpen path = true ∧ s.pageOpen (off / 0x1000) = true ∧ off % 4 = 0 ∧ 0x800 ≤ off % 0x1000 ∧
     pageHasStaged (off / 0x1000) = true ∧ stagedRows (off - 0x800) ≠ [] ∧ s.sheet.armed = false ∧ a ≠ off - 0x800) ∧
    (let path : Path := .callboard; let off : Nat := R.cuePeriodUs.addr + 0x800;
     let s : State := { run with sheet := { SheetSt.idle with armed := true } };
     s.pathOpen path = true ∧ s.pageOpen (off / 0x1000) = true ∧ off % 4 = 0 ∧ 0x800 ≤ off % 0x1000 ∧
     pageHasStaged (off / 0x1000) = true ∧ stagedRows (off - 0x800) ≠ [] ∧ s.sheet.armed = true ∧ s.sheet.checked = false ∧
     s.sheet.dropped = none) ∧
    (let path : Path := .callboard; let off : Nat := R.cuePeriodUs.addr + 0x800;
     let s : State := { run with sheet := { SheetSt.idle with armed := true, checked := true } };
     s.pathOpen path = true ∧ s.pageOpen (off / 0x1000) = true ∧ off % 4 = 0 ∧ 0x800 ≤ off % 0x1000 ∧
     pageHasStaged (off / 0x1000) = true ∧ stagedRows (off - 0x800) ≠ [] ∧ s.sheet.armed = true ∧ s.sheet.checked = true) ∧
    (let path : Path := .callboard; let off : Nat := R.cuePeriodUs.addr + 0x800;
     let s : State := { run with sheet := { SheetSt.idle with armed := true, dropped := some 0x2000 } };
     s.pathOpen path = true ∧ s.pageOpen (off / 0x1000) = true ∧ off % 4 = 0 ∧ 0x800 ≤ off % 0x1000 ∧
     pageHasStaged (off / 0x1000) = true ∧ stagedRows (off - 0x800) ≠ [] ∧ s.sheet.armed = true ∧ s.sheet.dropped ≠ none) ∧
    (let a : Nat := R.cueHoldLimit.addr;
     let s : State := sheeted [(R.cueCsTargetLo, 2)] { SheetSt.idle with dropped := some R.cueHoldLimit.addr } [];
     s.dataOn = true ∧ s.sheet.armed = true ∧ s.sheet.checked = false ∧ s.sheet.dropped = some a ∧
     s.csTarget = s.nextCue + (if s.flagReg R.cueCsCtrlMachine then 2 else 1)) := by
  and_intros <;> decide +kernel

theorem witness_ActsStartAbortAndComplete :
    (let s : State := starting; let j : JobSt := { job0 with outcomeAt := none, due := [⟨act0.desc, 1⟩] };
     let d : DueAct := ⟨act0.desc, 1⟩; let p : Program := prog0; let cell : CellId := 8; let g : GroupId := 0;
     s.dataOn = true ∧ s.heldNow = false ∧ s.sheet.armed = false ∧ s.job = some j ∧ j.outcomeAt = none ∧
     (j.skipping = true ∨ s.shift ≤ j.shiftMark + s.get R.cueHoldLimit) ∧
     ((j.due.filter fun (x : DueAct) => x.base + x.desc.start + s.shift == s.nextCue) = [d]) ∧
     s.prog d.desc.program = some p ∧ MemoryAtRest s ∧ MemoryClean s ∧ bitAt d.desc.rows (cell / 8) = true ∧
     bitAt d.desc.groups g = true) ∧
    (let s : State := holding9; let j : JobSt := job0; let a := act0; let cell : CellId := 0; let g : GroupId := 0;
     s.dataOn = true ∧ s.heldNow = true ∧ s.sheet.armed = false ∧ s.job = some j ∧ j.outcomeAt.isSome = true ∧
     j.skipping = false ∧ j.shiftMark + s.get R.cueHoldLimit < (s.shift + 1) % 2 ^ 32 ∧ a ∈ s.acts ∧
     a.deadline ≤ s.nextCue ∧ bitAt a.desc.rows (cell / 8) = true ∧ bitAt a.desc.groups g = true) ∧
    (let second : Bool := false; let m : ActMeasure := ⟨5, 0, 0, 0, 100⟩; let s : State := { run with acts := [act0] };
     let a : ActiveAct := act0;
     s.dataOn = true ∧ s.acts[if second then 1 else 0]? = some a ∧ s.actDone a m.actCycle = true) ∧
    (let second : Bool := true; let m : ActMeasure := ⟨5, 0, 0, 0, 100⟩; let s : State := { run with acts := [act0, act1] };
     let a : ActiveAct := act1;
     s.dataOn = true ∧ s.acts[if second then 1 else 0]? = some a ∧ s.actDone a m.actCycle = true) := by
  unfold MemoryAtRest NothingWaits MemoryClean
  and_intros <;> decide +kernel

theorem witness_RefillKeepsTheOrderOfCommands :
    (let cell : CellId := cell0; let s : State := fetching;
     Canonical s ∧ s.dataOn = true ∧ (s.actOfCell cell).isSome = true) ∧
    (let cell : CellId := cell0; let s : State := fetching; let core := 0; let q := 1;
     Canonical s ∧ s.dataOn = true ∧ (s.actOfCell cell).isSome = true ∧ s.neediest cell = some (core, q)) := by
  unfold Canonical
  and_intros <;> decide +kernel

/-! ## Engines -/

/-- A core of cell 9, which is no wing cell (R26): its vector unit reads and writes accumulators. -/
def iss9 : Issue := { iss with cell := 9 }
def acting9 : State := acting.setCore 9 0 (ready CoreSt.empty)

/-- 32 elements from the local store, an immediate, an accumulator element; F32. -/
def vec0 : VecFields :=
  { n := 32, fmt := 0, a := ⟨.ls 0 0 0, false, false⟩, b := ⟨.imm 0x3F800000, false, false⟩, c := ⟨.acc 0 0, false, false⟩,
    dst := .ls 4096 0 0, seg := 8, slot := 0xFFF, pass := 0, seed := 0, first := 0 }

/-- A pushed entry of the finished-tile queue: all ones. -/
def entry0 : FtqEntry := ⟨.pushed, 0, 3, false, List.replicate 512 0x3F800000, none, none⟩

/-- An entry released to slot 5 of group 0. -/
def entryG : FtqEntry := { entry0 with state := .released, dest := some (.group 0 5) }

/-- Core 0 of cell 0 holds a pushed entry. -/
def holding : State := { acting with cores := [(0, ready { CoreSt.empty with ftq := [entry0], pushes := 1 })] }

def mma0 : MmaFields :=
  { tile := 2, ftq := false, init := false, k := 16, aAddr := 0, aStride := 64, bAddr := 4096, bStride := 64, aFmt := 0,
    bFmt := 0, aScl := 0, bScl := 0, f21 := false }

/-- A private tile that is ready at cycle 40. -/
def tile0 : PrivTile := ⟨3, 40, 30, 7, List.replicate 512 0x40000000, 0, 0⟩

def full8 : List FtqEntry :=
  (List.range 8).map fun k => { entry0 with seq := k, state := .released, freeAt := some (100 + k) }

/-- A WAIT of core 0, on flag 3 of cell 0, with two gates. -/
def wait0 : WaitSt := ⟨5, flag0, 2, 4, 3, true, true, false⟩

def change0 : FlagChange := ⟨none, 2, 6, 0, 0, .sync, 1⟩

/-- Core 0 waits, and the flag stands at 2 since cycle 6. -/
def waiting0 : State :=
  { acting with cores := [(0, ready { CoreSt.empty with wait := some wait0 })],
                cells := [(0, { CellSt.empty with flags := [(3, ⟨[change0]⟩)], cycle := 20 })] }

/-! ## Cell movers -/

/-- A map entry for chip 1, one step in +X, and this module is chip 0; port 0 up. -/
def routed : State :=
  { on [(R.portStateState 0, 2), (R.mgmtChipValid, 1), (R.collPositionValid, 1), (R.collShapeX, 2), (R.collShapeY, 1),
      (R.collShapeZ, 1)] with
      acts := [act0], cores := acting.cores, ports := [(0, { PortSt.reset with hashSet := true })],
      map := { MapSt.reset with entries := [(0, 0, 0, 0), (1, 1, 0, 0)] } }

def region0 : MRegion :=
  { index := 0, tier2 := false, narrow := false, elem := 0, pages := 4, base := 0x100000, size := 0x100000, map := [], drawn := [],
    fullRaised := false, loose := false, undef := false }

/-- A narrowing region, one with no share left, and one whose page 3 is lost. -/
def narrow0 : MRegion := { region0 with narrow := true }
def full0 : MRegion := { narrow0 with size := 0 }
def lost0 : MRegion := { region0 with map := [(3, ⟨true, false, [], 0⟩)] }

def ugroup0 : UGroup := { (default : UGroup) with valid := true, shardLen := 128, master := 0x200000 }

/-- One region and one update group in force. -/
def tabled : State :=
  { on [(R.updGroups, 1)] with
      acts := [act0], cores := acting.cores, mem := { MemSt.reset with regions := [region0] }, upd := { UpdSt.reset with groups := [ugroup0] } }

def mover0 (k : MoverKind) (landed : Bool) : MoverOp := ⟨0, 0, 0, 9, flag0, 3, k, landed, []⟩

theorem witness_VectorInstructionWritesItsResults :
    (let o : VOp := .fma; let i : Issue := iss9; let f : VecFields := vec0; let s : State := acting9;
     let a : ActiveAct := act0;
     s.canIssue 1 i a ∧ s.calm i.cell ∧ (vecRefuse o s i.cell f).1 = none ∧ badOverlap o s i f = false ∧
     ((o.sources f).any (fun x => Src.isQueue x.src) = true → (s.core i.cell i.core).oldest.isSome = true)) ∧
    (let o : VOp := .redSum; let i : Issue := iss9; let f : VecFields := { vec0 with dst := .acc 1 4 };
     let s : State := acting9; let a : ActiveAct := act0;
     s.canIssue 1 i a ∧ s.calm i.cell ∧ (vecRefuse o s i.cell f).1 = none ∧ badOverlap o s i f = false ∧
     ((o.sources f).any (fun x => Src.isQueue x.src) = true → (s.core i.cell i.core).oldest.isSome = true)) ∧
    (let o : VOp := .add; let i : Issue := iss;
     let f : VecFields := { vec0 with a := ⟨.queue true, false, false⟩, n := 512, dst := .ls 8192 0x13 40000 };
     let s : State := holding; let a : ActiveAct := act0;
     s.canIssue 1 i a ∧ s.calm i.cell ∧ (vecRefuse o s i.cell f).1 = none ∧ badOverlap o s i f = false ∧
     ((o.sources f).any (fun x => Src.isQueue x.src) = true → (s.core i.cell i.core).oldest.isSome = true)) ∧
    (let d : Nat := 2; let e : Nat := 4;
     d ≠ 0 ∧ e ≠ 0) := by
  unfold State.canIssue State.calm
  and_intros <;> decide +kernel

theorem witness_VectorInstructionsTakeTimeAndRefusedOnesWriteNothing :
    (let i : Issue := iss; let s : State := acting; let a : ActiveAct := act0;
     s.canIssue 1 i a) ∧
    (let o : VOp := .sel; let i : Issue := iss; let f : VecFields := { vec0 with n := 0 }; let s : State := acting;
     let a : ActiveAct := act0;
     s.canIssue 1 i a ∧ (vecRefuse o s i.cell f).1 = some 0x0202 ∧ a.intermission = false) := by
  unfold State.canIssue
  and_intros <;> decide +kernel

theorem witness_MmaTilesAreWrittenAndPushed :
    (let i : Issue := iss; let s : State := acting; let a : ActiveAct := act0;
     s.canIssue 0 i a) ∧
    (let i : Issue := iss; let f : MmaFields := mma0; let s : State := acting; let a : ActiveAct := act0;
     s.canIssue 0 i a ∧ s.calm i.cell ∧ (mmaRefuse i.cell f).1 = none ∧ f.ftq = false) ∧
    (let i : Issue := iss; let f : MmaFields := { mma0 with ftq := true, tile := 0 }; let s : State := acting;
     let a : ActiveAct := act0;
     s.canIssue 0 i a ∧ s.calm i.cell ∧ (mmaRefuse i.cell f).1 = none ∧ f.ftq = true ∧
     (s.core i.cell i.core).priv.length ≤ 1) ∧
    (let cell : CellId := cell0; let core : CoreId := core0; let c : Nat := 40;
     let s : State := { acting with cores := [(0, ready { CoreSt.empty with priv := [tile0] })] };
     let x : PrivTile := tile0; let rest : List PrivTile := [];
     (s.core cell core).priv = x :: rest ∧ rest.length ≤ 1 ∧ (s.core cell core).pushCycle x = some c ∧
     s.flagReg (R.cellFtqConv cell) = false) := by
  unfold State.canIssue State.calm
  and_intros <;> decide +kernel

theorem witness_CoreMoversCopyBitsAndTiles :
    (let i : Issue := iss; let f : CopyFields := ⟨0, 1024, 1024, false, 8, none⟩; let s : State := acting;
     let a : ActiveAct := act0;
     s.canIssue 2 i a ∧ s.calm i.cell ∧ f.conv = none ∧ f.src % 64 = 0 ∧ f.dst % 64 = 0 ∧ f.src + f.bytes ≤ 131072 ∧
     f.dst + f.bytes ≤ 131072 ∧ (f.src + f.bytes ≤ f.dst ∨ f.dst + f.bytes ≤ f.src) ∧ f.transpose = false) ∧
    (let i : Issue := iss; let f : CopyFields := ⟨0, 1024, 1024, true, 8, none⟩; let s : State := acting;
     let a : ActiveAct := act0; let j : Nat := 1023;
     s.canIssue 2 i a ∧ s.calm i.cell ∧ f.conv = none ∧ f.src % 64 = 0 ∧ f.dst % 64 = 0 ∧ f.src + f.bytes ≤ 131072 ∧
     f.dst + f.bytes ≤ 131072 ∧ (f.src + f.bytes ≤ f.dst ∨ f.dst + f.bytes ≤ f.src) ∧ f.transpose = true ∧ f.elem = 8 ∧
     f.bytes % 1024 = 0 ∧ j < f.bytes) ∧
    (let i : Issue := iss; let f : CsFields := ⟨true, 0, 1048512, 64, none⟩; let s : State := acting;
     let a : ActiveAct := act0;
     s.canIssue 2 i a ∧ s.calm i.cell ∧ f.conv = none ∧ f.ls % 64 = 0 ∧ f.cs % 64 = 0 ∧ f.ls + f.bytes ≤ 131072 ∧
     f.cs + f.bytes ≤ 1048576 ∧ f.toCell = true) ∧
    (let i : Issue := iss; let f : CsFields := ⟨false, 131008, 64, 64, none⟩; let s : State := acting;
     let a : ActiveAct := act0;
     s.canIssue 2 i a ∧ s.calm i.cell ∧ f.conv = none ∧ f.ls % 64 = 0 ∧ f.cs % 64 = 0 ∧ f.ls + f.bytes ≤ 131072 ∧
     f.cs + f.bytes ≤ 1048576 ∧ f.toCell = false) ∧
    (let i : Issue := iss; let tile : Nat := 15; let src : Nat := 129024; let s : State := acting;
     let a : ActiveAct := act0;
     s.canIssue 2 i a ∧ s.calm i.cell ∧ src % 64 = 0 ∧ src + 2048 ≤ 131072 ∧ tile ≤ 15) ∧
    (let i : Issue := iss; let f : TileStoreFields := ⟨15, 64, 0x13, 4096, 0xFFF, 0, 0, 0⟩;
     let s : State := { acting with cores := [(0, ready { CoreSt.empty with acc := (List.range 512).map fun k => (7680 + k, 0x3F800000) })] };
     let a : ActiveAct := act0;
     let e := encodeElems f.dstFmt (tensorScale s i.cell i.core f.dstFmt f.dstScl) (s.rounding a f.dstFmt f.seed f.pass f.first) true (accElems s i.cell i.core (f.tile * 512) 512);
     let b := packCodes f.dstFmt (lsFrom s i.cell i.core f.dst) e.codes;
     s.canIssue 2 i a ∧ s.calm i.cell ∧ fmtRefuse f.dstFmt = none ∧ placeOk 131072 f.dst f.dstFmt f.dstScl 512 = true ∧
     f.tile ≤ 15 ∧ s.slotRefused f.dstFmt f.slot = false ∧
     (fmtBlock f.dstFmt = 0 ∨ f.dst + b.length ≤ f.dstScl ∨ f.dstScl + e.e8.length ≤ f.dst)) := by
  unfold State.canIssue State.calm
  and_intros <;> decide +kernel

theorem witness_FlagCommandsChangeFlagsAndMarksAreTraced :
    (let i : Issue := iss; let flag : FlagRef := flag0; let k : Nat := 255; let s : State := acting;
     let a : ActiveAct := act0;
     s.canIssue 3 i a ∧ flagRefused s i.cell flag = false ∧ 1 ≤ k ∧ k ≤ 255 ∧
     (∀ x ∈ (s.flag flag).changes, x.cycle ≤ s.issueCycle 3 i)) ∧
    (let i : Issue := { iss with offset := 30 }; let flag : FlagId := 3;
     let s : State := waiting0.setCore 0 0 (ready CoreSt.empty); let a : ActiveAct := act0;
     s.canIssue 3 i a ∧ flagRefused s i.cell ⟨i.cell, flag⟩ = false ∧
     (∀ x ∈ (s.flag ⟨i.cell, flag⟩).changes, x.cycle < s.issueCycle 3 i)) ∧
    (let i : Issue := iss;
     let s : State := { on [(R.cmdTraceCtrlEn, 1), (R.cmdTraceCtrlTypes, 256), (R.cmdTraceSize, 12)] with acts := [act0], cores := acting.cores };
     let a : ActiveAct := act0;
     s.canIssue 3 i a ∧ s.flagReg R.cmdTraceCtrlEn = true ∧ s.get R.cmdTraceCtrlTypes = 2 ^ 8) ∧
    (let s : State := { on [(R.cmdTraceSize, 12)] with traced := [List.replicate 32 1] };
     let b : List Byte := List.replicate 32 1;
     let at_ := s.get2 R.cmdTraceBaseLo R.cmdTraceBaseHi + s.get2 R.cmdTraceWrptrLo R.cmdTraceWrptrHi; let x := 32;
     Canonical s ∧ s.pending = [] ∧ s.start.powered = true ∧ s.traced = [b] ∧ b.length = 32 ∧ MemoryAtRest s ∧
     MemoryClean s ∧ inTiers12 (s.get2 R.cmdTraceBaseLo R.cmdTraceBaseHi) (2 ^ s.get R.cmdTraceSize) = true ∧
     s.get2 R.cmdTraceWrptrLo R.cmdTraceWrptrHi + 64 ≤ 2 ^ s.get R.cmdTraceSize ∧ s.get R.cmdTraceSize ≤ 40 ∧
     (x < at_ ∨ at_ + 32 ≤ x)) ∧
    (let s : State := { on [(R.cmdTraceCtrlEn, 1)] with traced := [List.replicate 32 1, List.replicate 32 2] };
     let b : List Byte := List.replicate 32 1; let l : List (List Byte) := [List.replicate 32 2];
     s.dataOn = true ∧ s.traced = b :: l) := by
  unfold State.canIssue MemoryAtRest NothingWaits MemoryClean Canonical
  and_intros <;> decide +kernel

theorem witness_WaitsHoldOpenGatesAndExpire :
    (let i : Issue := iss; let s : State := acting; let a : ActiveAct := act0;
     s.canIssue 3 i a) ∧
    (let cell : CellId := cell0; let core : CoreId := core0; let cycle : Nat := 20; let c : Nat := 8;
     let s : State := waiting0; let x : WaitSt := wait0;
     (s.core cell core).wait = some x ∧ (s.flag x.flag).clampHold cell core x.issued cycle x.target = some c ∧
     x.gMat = true ∧ (s.core cell core).mat.gates.length < 15 ∧ x.gVec = true ∧ (s.core cell core).vec.gates.length < 15) ∧
    (let cell : CellId := cell0; let core : CoreId := core0; let cycle : Nat := 20; let c : Nat := 8;
     let s : State := { waiting0 with cores := [(0, ready { CoreSt.empty with wait := some { wait0 with gMat := false, gMov := true } })] };
     let x : WaitSt := { wait0 with gMat := false, gMov := true };
     (s.core cell core).wait = some x ∧ (s.flag x.flag).clampHold cell core x.issued cycle x.target = some c ∧
     x.gVec = true ∧ (s.core cell core).vec.gates.length < 15 ∧ x.gMov = true ∧ (s.core cell core).mov.gates.length < 15 ∧
     x.gMat = false) ∧
    (let cell : CellId := cell0; let core : CoreId := core0;
     let s : State := { waiting0 with regs := (on [(R.cueCurCueLo, 3)]).regs }; let x : WaitSt := wait0;
     let a : ActiveAct := act0;
     (s.core cell core).wait = some x ∧ s.actOfCell cell = some a ∧ (∀ b ∈ s.acts, b.desc.act = a.desc.act → b = a) ∧
     x.expires ≤ s.cueNow + 1 ∧ a.intermission = false) := by
  unfold State.canIssue
  and_intros <;> decide +kernel

theorem witness_EntriesAreReleasedAndFreed :
    (let cell : CellId := cell0; let core : CoreId := core0;
     let s : State := { acting with cores := [(0, ready { CoreSt.empty with ftq := [entryG] })] };
     let e : FtqEntry := entryG; let g : GroupId := 0; let slot : Nat := 5;
     ((s.core cell core).ftq.find? (fun e => decide (e.state = .released) && e.freeAt.isNone) = some e) ∧
     e.dest = some (.group g slot) ∧ (s.group g).abandoned = false ∧ s.beyondSlots g slot = false ∧
     s.reserveRoom g e.payload.length = false) := by
  and_intros <;> decide +kernel

theorem witness_EntriesAreReleasedAndFreed_1 :
    (let i : Issue := iss; let d : ReleaseTo := .group 0 5; let s : State := holding; let a : ActiveAct := act0;
     let e : FtqEntry := entry0;
     s.canIssue 1 i a ∧ s.calm i.cell ∧ releaseRefused s i.cell d = false ∧ (s.core i.cell i.core).oldest = some e ∧
     (∀ chip off f, d = .remote chip off f → (s.remoteRefuse chip off (if e.h16 then 1024 else 2048) true i.cell).1 = none)) := by
  and_intros <;> first | exact (by intro _ _ _ h; cases h) | decide +kernel | (unfold State.calm; decide +kernel) | (unfold State.canIssue; decide +kernel)

theorem witness_EntriesAreReleasedAndFreed_2 :
    (let cell : CellId := cell0; let core : CoreId := core0;
     let s : State := { acting with cores := [(0, ready { CoreSt.empty with ftq := [{ entry0 with state := .released }] })] };
     let e : FtqEntry := { entry0 with state := .released };
     ((s.core cell core).ftq.find? (fun e => decide (e.state = .released) && e.freeAt.isNone) = some e) ∧
     (∀ g slot, e.dest = some (.group g slot) → (s.group g).abandoned = true ∨ s.beyondSlots g slot = true ∨ s.reserveRoom g e.payload.length = true)) := by
  and_intros <;> first | exact (by intro _ _ h; cases h) | decide +kernel

theorem witness_EntriesAreReleasedAndFreed_3 :
    (let cell : CellId := cell0; let core : CoreId := core0;
     let s : State := { on [(R.collGBufKib.at_ 0, 64)] with acts := [act0], cores := [(0, ready { CoreSt.empty with ftq := [entryG] })] };
     let e : FtqEntry := entryG; let g := 0; let slot := 5;
     ((s.core cell core).ftq.find? (fun e => decide (e.state = .released) && e.freeAt.isNone) = some e) ∧
     (∀ g slot, e.dest = some (.group g slot) → (s.group g).abandoned = true ∨ s.beyondSlots g slot = true ∨ s.reserveRoom g e.payload.length = true) ∧
     e.dest = some (.group g slot) ∧ (s.group g).run = none ∧ (s.group g).abandoned = false ∧
     AMap.find (s.group g).slots slot = none ∧ e.h16 = s.flagReg (R.collGDefAcc.at_ g)) := by
  and_intros <;> first | exact (by intro _ _ h; cases h; decide +kernel) | decide +kernel

theorem witness_CellMoverCommandsStart :
    (let i : Issue := iss; let f : CmFields := ⟨.tierRead 0x1000 64 128, flag0, []⟩; let s : State := acting;
     let a : ActiveAct := act0; let off := 0x1000; let dst := 64; let len := 128;
     s.canIssue 2 i a ∧ (cmRefuse s i f).1 = none ∧ f.kind = .tierRead off dst len) ∧
    (let i : Issue := iss; let f : CmFields := ⟨.tierWrite (TIER2 - 64) 1048512 64, flag0, []⟩; let s : State := acting;
     let a : ActiveAct := act0; let off := TIER2 - 64; let src := 1048512; let len := 64;
     s.canIssue 2 i a ∧ (cmRefuse s i f).1 = none ∧ f.kind = .tierWrite off src len) ∧
    (let i : Issue := iss; let f : CmFields := ⟨.cellCopy 0 3 64 128, flag0, []⟩; let s : State := acting;
     let a : ActiveAct := act0; let src := 0; let cell := 3; let dst := 64; let len := 128;
     s.canIssue 2 i a ∧ (cmRefuse s i f).1 = none ∧ f.kind = .cellCopy src cell dst len) ∧
    (let i : Issue := iss; let f : RemoteFields := ⟨1, 0, 0, 64, flag0, []⟩; let s : State := routed;
     let a : ActiveAct := act0;
     s.canIssue 2 i a ∧ s.chip ≠ some f.chip ∧ (remoteRefusal s i f true).1 = none ∧ (remoteRefusal s i f false).1 = none) ∧
    (let i : Issue := iss; let f : PageFields := ⟨0, 3, 1, 4096, flag0, []⟩; let s : State := tabled;
     let a : ActiveAct := act0;
     s.canIssue 2 i a ∧ pageRefuse s i f = none) ∧
    (let i : Issue := iss; let region : Nat := 0; let flag : FlagRef := flag0; let s : State := tabled;
     let a : ActiveAct := act0;
     s.canIssue 2 i a ∧ flagRefused s i.cell flag = false ∧ regionOk s region 0 0 = true) ∧
    (let i : Issue := iss; let f : UpdFields := ⟨0, 0, 64, 64, 0, flag0, []⟩; let s : State := tabled;
     let a : ActiveAct := act0; let g : UGroup := ugroup0;
     s.canIssue 2 i a ∧ s.ugroup f.group = some g ∧ (updRefuse s i f false).1 = none ∧ (updRefuse s i f true).1 = none ∧
     frozenFor (some a) f.group g = false) := by
  unfold State.canIssue
  and_intros <;> decide +kernel

theorem witness_CellMoverCompletes :
    (let cell : CellId := cell0; let core : CoreId := core0; let tag : Word := 9;
     let s : State := { acting with movers := [mover0 (.cellCopy 0 3 64 128) true] };
     let m : MoverOp := mover0 (.cellCopy 0 3 64 128) true; let src := 0; let c := 3; let dst := 64; let len := 128;
     Canonical s ∧ s.movers = [m] ∧ m.cell = cell ∧ m.core = core ∧ m.tag = tag ∧ m.landed = true ∧
     s.spoiledOp (.mover m.id) = false ∧ s.mem.permuted = [] ∧ s.mem.ranges = [] ∧ NothingWaits s ∧ MemoryClean s ∧
     (∀ x ∈ (s.flag m.flag).changes, x.cycle ≤ (s.cell m.flag.cell).cycle) ∧ m.kind = .cellCopy src c dst len) ∧
    (let cell : CellId := cell0; let core : CoreId := core0; let tag : Word := 9;
     let s : State := { acting with movers := [mover0 (.tierRead [(4096, 64, 128), (8192, 256, 64)] []) true], cells := [(0, { CellSt.empty with store := [(64, 5), (127, 6)] })], mem := { MemSt.reset with bytes := [(4096, 3), (4100, 4)] } };
     let m : MoverOp := mover0 (.tierRead [(4096, 64, 128), (8192, 256, 64)] []) true;
     let l := [(4096, 64, 128), (8192, 256, 64)]; let x := ((4096, 64, 128) : Nat × Nat × Nat);
     Canonical s ∧ s.movers = [m] ∧ m.cell = cell ∧ m.core = core ∧ m.tag = tag ∧ m.landed = true ∧
     s.spoiledOp (.mover m.id) = false ∧ s.mem.permuted = [] ∧ s.mem.ranges = [] ∧ NothingWaits s ∧ MemoryClean s ∧
     (∀ x ∈ (s.flag m.flag).changes, x.cycle ≤ (s.cell m.flag.cell).cycle) ∧ m.kind = .tierRead l [] ∧ s.mem.regions = [] ∧
     s.mem.stale = [] ∧ l.Pairwise apartInCell ∧ x ∈ l) ∧
    (let cell : CellId := cell0; let core : CoreId := core0; let tag : Word := 9;
     let s : State := { acting with movers := [mover0 (.tierWrite [(4096, 64, 64), (TIER2, 0, 128)]) true], cells := [(0, { CellSt.empty with store := [(64, 5), (127, 6)] })], mem := { MemSt.reset with bytes := [(4096, 3), (4100, 4)] } };
     let m : MoverOp := mover0 (.tierWrite [(4096, 64, 64), (TIER2, 0, 128)]) true;
     let l := [(4096, 64, 64), (TIER2, 0, 128)]; let x := ((4096, 64, 64) : Nat × Nat × Nat); let a := 4160;
     Canonical s ∧ s.movers = [m] ∧ m.cell = cell ∧ m.core = core ∧ m.tag = tag ∧ m.landed = true ∧
     s.spoiledOp (.mover m.id) = false ∧ s.mem.permuted = [] ∧ s.mem.ranges = [] ∧ NothingWaits s ∧ MemoryClean s ∧
     (∀ x ∈ (s.flag m.flag).changes, x.cycle ≤ (s.cell m.flag.cell).cycle) ∧ m.kind = .tierWrite l ∧ s.mem.regions = [] ∧
     s.mem.stale = [] ∧ l.Pairwise apartInTier ∧ x ∈ l ∧ (∀ x ∈ l, a < x.1 ∨ x.1 + x.2.2 ≤ a)) ∧
    (let cell : CellId := cell0; let core : CoreId := core0; let tag : Word := 9;
     let s : State := { acting with movers := [mover0 (.pageWrite 0 3 1 4096) true], cells := [(0, { CellSt.empty with store := [(4096, 5), (4097, 6)] })], mem := { MemSt.reset with regions := [full0] } };
     let m : MoverOp := mover0 (.pageWrite 0 3 1 4096) true; let r : MRegion := full0; let p : Nat := 3; let c : Nat := 1;
     let cs : Nat := 4096; let page := fun k => s.csRead m.cell (cs + 4096 * k) 4096;
     Canonical s ∧ s.movers = [m] ∧ m.cell = cell ∧ m.core = core ∧ m.tag = tag ∧ m.landed = true ∧
     s.spoiledOp (.mover m.id) = false ∧ s.mem.permuted = [] ∧ s.mem.ranges = [] ∧ NothingWaits s ∧ MemoryClean s ∧
     (∀ x ∈ (s.flag m.flag).changes, x.cycle ≤ (s.cell m.flag.cell).cycle) ∧ m.kind = .pageWrite r.index p c cs ∧
     s.mem.regions = [r] ∧ m.clash = [] ∧ c = 1 ∧ r.share < AMap.get r.drawn (s.pageStack r p) 0 + r.lines (page 0) ∧
     r.fullRaised = false) ∧
    (let cell : CellId := cell0; let core : CoreId := core0; let tag : Word := 9;
     let s : State := { acting with movers := [mover0 (.pageRead 0 3 1 4096 []) true], cells := [(0, { CellSt.empty with store := [(4096, 5), (4097, 6)] })], mem := { MemSt.reset with regions := [region0] } };
     let m : MoverOp := mover0 (.pageRead 0 3 1 4096 []) true; let r : MRegion := region0; let p : Nat := 3;
     let c : Nat := 1; let cs : Nat := 4096;
     let page := fun k => AMap.get r.map (p + k) ⟨false, false, List.replicate 4096 0, 0⟩; let k : Nat := 0;
     Canonical s ∧ s.movers = [m] ∧ m.cell = cell ∧ m.core = core ∧ m.tag = tag ∧ m.landed = true ∧
     s.spoiledOp (.mover m.id) = false ∧ s.mem.permuted = [] ∧ s.mem.ranges = [] ∧ NothingWaits s ∧ MemoryClean s ∧
     (∀ x ∈ (s.flag m.flag).changes, x.cycle ≤ (s.cell m.flag.cell).cycle) ∧ m.kind = .pageRead r.index p c cs [] ∧
     s.mem.regions = [r] ∧ r.undef = false ∧
     (∀ k < c, (page k).lost = false ∧ (page k).poison = false ∧ (page k).bytes.length = 4096) ∧ k < c) ∧
    (let cell : CellId := cell0; let core : CoreId := core0; let tag : Word := 9;
     let s : State := { acting with movers := [mover0 (.pageRead 0 3 1 4096 []) true], cells := [(0, { CellSt.empty with store := [(4096, 5), (4097, 6)] })], mem := { MemSt.reset with regions := [lost0] } };
     let m : MoverOp := mover0 (.pageRead 0 3 1 4096 []) true; let r : MRegion := lost0; let p : Nat := 3; let c : Nat := 1;
     let cs : Nat := 4096; let page := fun k => AMap.get r.map (p + k) ⟨false, false, List.replicate 4096 0, 0⟩;
     let a := act0;
     Canonical s ∧ s.movers = [m] ∧ m.cell = cell ∧ m.core = core ∧ m.tag = tag ∧ m.landed = true ∧
     s.spoiledOp (.mover m.id) = false ∧ s.mem.permuted = [] ∧ s.mem.ranges = [] ∧ NothingWaits s ∧ MemoryClean s ∧
     (∀ x ∈ (s.flag m.flag).changes, x.cycle ≤ (s.cell m.flag.cell).cycle) ∧ m.kind = .pageRead r.index p c cs [] ∧
     s.mem.regions = [r] ∧ r.undef = false ∧ s.actOfCell m.cell = some a ∧ a.intermission = false ∧
     (∃ k < c, (page k).lost = true)) ∧
    (let cell : CellId := cell0; let core : CoreId := core0; let tag : Word := 9;
     let s : State := { acting with movers := [mover0 (.regionReset 0) true], cells := [(0, { CellSt.empty with store := [(4096, 5), (4097, 6)] })], mem := { MemSt.reset with regions := [region0] } };
     let m : MoverOp := mover0 (.regionReset 0) true; let r : MRegion := region0;
     Canonical s ∧ s.movers = [m] ∧ m.cell = cell ∧ m.core = core ∧ m.tag = tag ∧ m.landed = true ∧
     s.spoiledOp (.mover m.id) = false ∧ s.mem.permuted = [] ∧ s.mem.ranges = [] ∧ NothingWaits s ∧ MemoryClean s ∧
     (∀ x ∈ (s.flag m.flag).changes, x.cycle ≤ (s.cell m.flag.cell).cycle) ∧ m.kind = .regionReset r.index ∧
     s.mem.regions = [r] ∧ m.clash = []) := by
  unfold NothingWaits MemoryClean apartInTier apartInCell Canonical
  and_intros <;> decide +kernel

theorem witness_CellMoverCompletes_1 :
    (let cell : CellId := cell0; let core : CoreId := core0; let tag : Word := 9;
     let s : State := { acting with movers := [mover0 (.pageWrite 0 2 2 4096) true], cells := [(0, { CellSt.empty with store := [(4096, 5), (4097, 6)] })], mem := { MemSt.reset with regions := [narrow0] } };
     let m : MoverOp := mover0 (.pageWrite 0 2 2 4096) true; let r : MRegion := narrow0; let p : Nat := 2; let c : Nat := 2;
     let cs : Nat := 4096; let page := fun k => s.csRead m.cell (cs + 4096 * k) 4096; let k : Nat := 1;
     Canonical s ∧ s.movers = [m] ∧ m.cell = cell ∧ m.core = core ∧ m.tag = tag ∧ m.landed = true ∧
     s.spoiledOp (.mover m.id) = false ∧ s.mem.permuted = [] ∧ s.mem.ranges = [] ∧ NothingWaits s ∧ MemoryClean s ∧
     (∀ x ∈ (s.flag m.flag).changes, x.cycle ≤ (s.cell m.flag.cell).cycle) ∧ m.kind = .pageWrite r.index p c cs ∧
     s.mem.regions = [r] ∧ m.clash = [] ∧
     (∀ st, AMap.get r.drawn st 0 + ((List.range c).map fun k => r.lines (page k)).sum ≤ r.share) ∧ k < c) := by
  and_intros <;> first | exact fun st => (by decide +kernel : 0 + (17 + (17 + 0)) ≤ narrow0.share) | decide +kernel | (unfold Canonical; decide +kernel) | (unfold MemoryClean; decide +kernel) | (unfold NothingWaits; decide +kernel)

theorem witness_RemoteAccessesLandOrAreRefused :
    (let r : RemoteReq := ⟨true, 1, 4, 32, 64, List.replicate 64 1, [], []⟩; let s : State := run;
     s.dataOn = true ∧ s.checkAccess r.off r.len ≠ none) ∧
    (let r : RemoteReq := ⟨true, 1, 4, 4096, 64, List.replicate 64 1, [], []⟩; let s : State := run; let i : Nat := 0;
     let a := 4160;
     Canonical s ∧ s.dataOn = true ∧ r.write = true ∧ r.data.length = r.len ∧ s.checkAccess r.off r.len = none ∧
     tierOf r.off ≠ 3 ∧ MemoryAtRest s ∧ s.anyDown = false ∧ i < r.len / 64 ∧ (a < r.off ∨ r.off + r.len ≤ a)) ∧
    (let r : RemoteReq := ⟨true, 1, 4, TIER2, 128, List.replicate 128 1, [1], []⟩; let s : State := run; let i : Nat := 1;
     let a := 0;
     Canonical s ∧ s.dataOn = true ∧ r.write = true ∧ r.data.length = r.len ∧ s.checkAccess r.off r.len = none ∧
     tierOf r.off ≠ 3 ∧ MemoryAtRest s ∧ s.anyDown = false ∧ i < r.len / 64 ∧ (a < r.off ∨ r.off + r.len ≤ a)) ∧
    (let m : MoverOp := mover0 (.remoteRead 4096 128 64) false; let off : Nat := 4096; let cs : Nat := 128;
     let b : List Byte := List.replicate 64 8;
     let s : State := { acting with movers := [mover0 (.remoteRead 4096 128 64) false] };
     s.movers = [m] ∧ m.landed = false ∧ m.kind = .remoteRead off cs b.length ∧ s.spoiledOp (.mover m.id) = false) ∧
    (let m : MoverOp := mover0 (.remoteWrite 4096) false; let off : Nat := 4096;
     let s : State := { acting with movers := [mover0 (.remoteWrite 4096) false] }; let a : ActiveAct := act0;
     s.movers = [m] ∧ m.landed = false ∧ m.kind = .remoteWrite off ∧ s.actOfCell m.cell = some a ∧ a.intermission = false) := by
  unfold MemoryAtRest NothingWaits Canonical
  and_intros <;> decide +kernel

/-! ## Collectives and point-to-point flits -/

/-- This module is member 0 of 2 of group 0 along x; port 0 is its neighbour both ways round. -/
def grouped : State :=
  { on [(R.portStateState 0, 2), (R.mgmtChipValid, 1), (R.collPositionValid, 1), (R.collShapeX, 2), (R.collShapeY, 1),
      (R.collShapeZ, 1), (R.collGDefValid.at_ 0, 1), (R.collGDefAxis0.at_ 0, 1), (R.collGDefVc.at_ 0, 2),
      (R.collGA2aCap.at_ 0, 1)] with
      acts := [act0], map := { MapSt.reset with entries := [(0, 0, 0, 0), (1, 1, 0, 0)] } }

def reduce0 : ReduceFields := ⟨128, .ranges [(0, 0, 512)], some (.cell 0 4096), 0, flag0, none, none, []⟩
def gather0 : GatherFields := ⟨128, 0x00, 0x00, .ranges [(0, 0, 256)], .cell 0 4096, 0, flag0, some ⟨0, 4⟩, []⟩
def a2a0 : A2aFields := ⟨64, .ranges [(0, 0, 128)], .cell 0 1024, .cell 0 2048, .cell 0 3072, .cell 0 3136, 0, flag0, some ⟨0, 4⟩, []⟩
def permute0 : PermuteFields := ⟨0, 0, 0, 1, 1, 0, flag0, []⟩

/-- Command 6 is at the head of group 0's queue. -/
def headed : State := { grouped with groups := [(0, { GroupSt.empty with held := [6] })] }

/-- Group 0 has a command under way. -/
def busyGroup (k : CommKind) (r : CommRun → CommRun := id) : State :=
  { grouped with groups := [(0, { GroupSt.empty with run := some (r (CommRun.start k 6)) })] }

def commWait0 : WaitSt := ⟨6, flag0, 0, 1, 0, false, false, false⟩

/-- A collective flit of group 0 with 64 bytes of rank 1's block, from `off` on, for the rank that `w5` names (R263, R335). -/
def collFlitTo (w5 off n : Nat) : Flit := ⟨mkHdr 2 2 false 0 true n 1 off w5, List.replicate n 9⟩

/-- Rank 1 has finished round 0 (R267). -/
def finished1 : Flit := ⟨mkHdr 2 9 false 0 true 0 0 0 (rankWord true 1), []⟩

/-- A remote write for this chip, number 0 (R336). -/
def p2p0 : Flit := p2pFlit 3 false true 0 1 4096 7 (List.replicate 64 1)

/-- Three members along x, and a piece of 32 ones of chunk `k` of the first stage (R258). -/
def grouped3 : State := State.with grouped [(R.collShapeX, 3)]
def ones32 : List CElem := List.replicate 32 ⟨0x3F800000, false⟩
def ringPiece (k n : Nat) : Flit := grouped.collFlit 0 2 false true k 0 (k / n) 0 0 (packElems 0x00 ones32)

/-- A reduction at work on its first stage, and a gather whose own share stands in its output. -/
def reducing (n : Nat) (r : CommRun) : CommRun :=
  { r with phase := .reducing, input := List.replicate n (some ⟨0x40000000, false⟩) }
def gathering (r : CommRun) : CommRun :=
  { r with phase := .gathering, input := List.replicate 64 (some ⟨0x40000000, false⟩),
           out := ownOut [] 2 0 (List.replicate 64 ⟨0x40000000, false⟩) }

/-- A group of this module alone whose command 6 updates 64 weights of `ugroupN` from the cell store; element 1 is infinite. -/
def ugroupN (fmt : Byte) : UGroup :=
  { (default : UGroup) with valid := true, net := true, rule := 1, shardLen := 128, master := 0x200000, workEn := true, workFmt := fmt,
                            work := 0x300000, gradMul := 0x3F800000, curveLr := (0, 1), curveWd := (0, 1) }
def reduceN : ReduceFields := ⟨64, .ranges [(0, 0, 256)], none, 0, flag0, none, some (0, 64), []⟩
def updating (g : UGroup) : State :=
  { State.with headed [(R.collShapeX, 1), (R.updGroups, 1)] with
      upd := { UpdSt.reset with groups := [g], curves := [(0, 0x3F000000)] },
      cells := [(0, { CellSt.empty with store := [(3, 0x40), (4, 0), (5, 0), (6, 0x80), (7, 0x7F)] })],
      mem := { MemSt.reset with bytes := [(0x200103, 0x3F), (0x2001FF, 1)] } }

/-! ## The Curtain -/

/-- A Curtain exchange on port 0 (direction +X). -/
def exchanging (c : CommitSt → CommitSt := id) : State :=
  { linked with
      job := some job0, acts := [{ act0 with desc := { act0.desc with type := 3 } }],
      commit := c { CommitSt.begin CommitSt.reset with contributed := true, peerDirs := [0] } }

def slot0 : Slot := ⟨0, true, 15, 3, 5, 0, 1, 0, false, false, false, false, 0, List.replicate 16 0x3F800000⟩

/-- The outcome is due at cue 4, which the next boundary begins; slot 0 has recipe `r` and this step record. -/
def deciding (commit : Bool) (r : Recipe) (x : SlotRec) : State :=
  { on [(R.commitCtrlActive, 1), (R.cueCurCueLo, 3), (R.cueAlignCtrlRoot, 1)] with
      mem := { MemSt.reset with ranges := [⟨0, 8192, 4096, false⟩], marks := [0], bytes := [(0, 5)] },
      job := some job0, commit := { CommitSt.reset with outcome := some commit },
      scale := { ScaleSt.reset with slots := [slot0], recipes := [r], step := [(0, x)] } }
def traffic0 : Recipe := ⟨0, 0x34, 2, 1, 2⟩
def seen0 (ovf : Bool) : SlotRec := ⟨.ofNat 8, true, false, false, ovf⟩

/-! ## Memory -/

def range0 : VRange := ⟨0, 8192, 4096, false⟩

/-- A version range of one page whose pending copy is still to be made. -/
def resyncing : State :=
  { run with mem := { MemSt.reset with bytes := [(0, 1), (4095, 2), (9000, 7)], ranges := [range0], resync := [0] } }

/-- A snapshot list of one entry at 4096: 4096 bytes from 0. -/
def snapping (more : List (Fld × Nat)) : State :=
  { on ([(R.memSnapListLo, 4096), (R.memSnapCount, 1), (R.memT3Size, 1)] ++ more) with
      mem := { MemSt.reset with bytes := [(4096 + 9, 16), (4096 + 21, 4)] } }

theorem witness_CollectivesStart_1 :
    (let g : GroupId := group0; let tag : Word := 6; let k : CommKind := .reduceScatter reduce0; let s : State := headed;
     let a : ActiveAct := act0; let f := reduce0;
     s.actOfGroup g = some a ∧ s.dataOn = true ∧ (s.group g).abandoned = false ∧ (s.group g).run = none ∧
     (s.group g).held.head? = some tag ∧ s.commInter g k = false ∧
     (∀ l, k.layout = some l → l = s.get (R.collGLayoutCommitted.at_ g)) ∧ s.flagReg (R.collGDefValid.at_ g) = true ∧
     s.commFields g k = none ∧ s.flagReg R.cmdTraceCtrlEn = false ∧
     (∀ f, k = .permute f → ∀ n < f.rounds, s.inBytes f n ≤ s.get (R.collGRoundKib.at_ g) * 1024) ∧ k = .reduceScatter f) := by
  and_intros <;> first | exact over_option (by decide +kernel) | exact (by intro f h; cases h) | decide +kernel

theorem witness_CollectivesStart_2 :
    (let g : GroupId := group0; let tag : Word := 6; let k : CommKind := .allReduce reduce0; let s : State := headed;
     let a : ActiveAct := act0; let f := reduce0;
     s.actOfGroup g = some a ∧ s.dataOn = true ∧ (s.group g).abandoned = false ∧ (s.group g).run = none ∧
     (s.group g).held.head? = some tag ∧ s.commInter g k = false ∧
     (∀ l, k.layout = some l → l = s.get (R.collGLayoutCommitted.at_ g)) ∧ s.flagReg (R.collGDefValid.at_ g) = true ∧
     s.commFields g k = none ∧ s.flagReg R.cmdTraceCtrlEn = false ∧
     (∀ f, k = .permute f → ∀ n < f.rounds, s.inBytes f n ≤ s.get (R.collGRoundKib.at_ g) * 1024) ∧ k = .allReduce f) := by
  and_intros <;> first | exact over_option (by decide +kernel) | exact (by intro f h; cases h) | decide +kernel

theorem witness_CollectivesStart_3 :
    (let g : GroupId := group0; let tag : Word := 6; let k : CommKind := .allGather gather0; let s : State := headed;
     let a : ActiveAct := act0; let f := gather0;
     s.actOfGroup g = some a ∧ s.dataOn = true ∧ (s.group g).abandoned = false ∧ (s.group g).run = none ∧
     (s.group g).held.head? = some tag ∧ s.commInter g k = false ∧
     (∀ l, k.layout = some l → l = s.get (R.collGLayoutCommitted.at_ g)) ∧ s.flagReg (R.collGDefValid.at_ g) = true ∧
     s.commFields g k = none ∧ s.flagReg R.cmdTraceCtrlEn = false ∧
     (∀ f, k = .permute f → ∀ n < f.rounds, s.inBytes f n ≤ s.get (R.collGRoundKib.at_ g) * 1024) ∧ k = .allGather f) := by
  and_intros <;> first | exact over_option (by decide +kernel) | exact (by intro f h; cases h) | decide +kernel

theorem witness_CollectivesStart_4 :
    (let g : GroupId := group0; let tag : Word := 6; let k : CommKind := .allToAll a2a0; let s : State := headed;
     let a : ActiveAct := act0; let f := a2a0;
     s.actOfGroup g = some a ∧ s.dataOn = true ∧ (s.group g).abandoned = false ∧ (s.group g).run = none ∧
     (s.group g).held.head? = some tag ∧ s.commInter g k = false ∧
     (∀ l, k.layout = some l → l = s.get (R.collGLayoutCommitted.at_ g)) ∧ s.flagReg (R.collGDefValid.at_ g) = true ∧
     s.commFields g k = none ∧ s.flagReg R.cmdTraceCtrlEn = false ∧
     (∀ f, k = .permute f → ∀ n < f.rounds, s.inBytes f n ≤ s.get (R.collGRoundKib.at_ g) * 1024) ∧ k = .allToAll f) := by
  and_intros <;> first | exact over_option (by decide +kernel) | exact (by intro f h; cases h) | decide +kernel

theorem witness_CollectivesStart_5 :
    (let g : GroupId := group0; let tag : Word := 6; let k : CommKind := .permute permute0; let s : State := headed;
     let a : ActiveAct := act0; let f := permute0;
     s.actOfGroup g = some a ∧ s.dataOn = true ∧ (s.group g).abandoned = false ∧ (s.group g).run = none ∧
     (s.group g).held.head? = some tag ∧ s.commInter g k = false ∧
     (∀ l, k.layout = some l → l = s.get (R.collGLayoutCommitted.at_ g)) ∧ s.flagReg (R.collGDefValid.at_ g) = true ∧
     s.commFields g k = none ∧ s.flagReg R.cmdTraceCtrlEn = false ∧
     (∀ f, k = .permute f → ∀ n < f.rounds, s.inBytes f n ≤ s.get (R.collGRoundKib.at_ g) * 1024) ∧ k = .permute f) := by
  and_intros <;> first | exact over_option (by decide +kernel) | exact (by intro f h; cases h; decide +kernel) | decide +kernel

theorem witness_CommunicationQueuesRunInOrder :
    (let g : GroupId := group0; let tag : Word := 8; let s : State := busyGroup (.allReduce reduce0);
     ((s.group g).run.isSome = true ∨ (s.group g).held.head? ≠ some tag)) ∧
    (let g : GroupId := group0; let tag : Word := 6; let f : CommWaitFields := ⟨flag0, 1, 0⟩; let s : State := headed;
     let a : ActiveAct := act0;
     s.actOfGroup g = some a ∧ s.dataOn = true ∧ (s.group g).abandoned = false ∧ (s.group g).run = none ∧
     (s.group g).held.head? = some tag ∧ s.flagReg (R.collGDefValid.at_ g) = true ∧
     bitAt a.desc.rows (f.flag.cell / 8) = true) ∧
    (let g : GroupId := group0; let s : State := busyGroup (.wait commWait0);
     let r : CommRun := CommRun.start (.wait commWait0) 6; let w : WaitSt := commWait0;
     (s.group g).run = some r ∧ r.kind = .wait w ∧ reached (s.flag w.flag).value w.target = true) ∧
    (let g : GroupId := group0; let s : State := busyGroup (.wait commWait0);
     let r : CommRun := CommRun.start (.wait commWait0) 6; let w : WaitSt := commWait0; let a : ActiveAct := act0;
     (s.group g).run = some r ∧ r.kind = .wait w ∧ s.actOfGroup g = some a ∧ w.expires ≤ s.cueNow + 1 ∧
     a.intermission = false) ∧
    (let g : GroupId := group0; let tag : Word := 6; let f : ReduceFields := { reduce0 with layout := 1 };
     let s : State := headed; let a : ActiveAct := act0;
     s.actOfGroup g = some a ∧ s.dataOn = true ∧ a.intermission = false ∧ (s.group g).abandoned = false ∧
     (s.group g).run = none ∧ (s.group g).held.head? = some tag ∧ f.layout ≠ s.get (R.collGLayoutCommitted.at_ g) ∧
     (∀ x ∈ (s.flag f.flagDone).changes, x.cycle ≤ (s.cell f.flagDone.cell).cycle)) := by
  and_intros <;> decide +kernel

theorem witness_NetUpdatesApplyTheBlockRule :
    (let g : GroupId := group0; let tag : Word := 6; let f : ReduceFields := reduceN;
     let s : State := updating (ugroupN 0x01); let a : ActiveAct := act0; let x : UGroup := ugroupN 0x01;
     let idx : Nat := 0; let e0 : Nat := 64; let c : CellId := 0; let at_ : Nat := 0;
     let grad := fun (i : Nat) => (toF32 (f32 (BitVec.ofNat 32 (leNat (s.csRead c (at_ + 4 * i) 4))))).1; let i : Nat := 1;
     let o := 0x200000;
     s.dataOn = true ∧ s.actOfGroup g = some a ∧ a.intermission = false ∧ (s.group g).abandoned = false ∧
     (s.group g).run = none ∧ (s.group g).held.head? = some tag ∧ (s.group g).early = [] ∧ (s.group g).blocked = [] ∧
     s.members g = 1 ∧ s.flagReg (R.collGDefValid.at_ g) = true ∧ s.flagReg (R.collGDefAcc.at_ g) = false ∧
     f.layout = s.get (R.collGLayoutCommitted.at_ g) ∧ f.src = .ranges [(c, at_, 4 * f.count)] ∧ f.dst = none ∧ f.ecc = [] ∧
     f.update = some (idx, e0) ∧ s.commFields g (.reduceScatter f) = none ∧ s.netCause g f.count (idx, e0) = 0 ∧
     s.ugroup idx = some x ∧ frozenFor (some a) idx x = false ∧ MemoryAtRest s ∧ MemoryClean s ∧ s.mem.permuted = [] ∧
     s.mem.wins = [] ∧ (∀ y ∈ s.cells, y.2.wins = []) ∧ (∀ w ∈ netWrites x e0 f.count, inTiers12 w.1 w.2 = true) ∧
     ((netWrites x e0 f.count).Pairwise (fun (u v : Nat × Nat) => u.1 + u.2 ≤ v.1 ∨ v.1 + v.2 ≤ u.1)) ∧
     ((s.scalarsFor idx x).first = true ∨ (x.hasM = false ∧ x.hasV = false)) ∧ i < f.count ∧
     (∀ w ∈ netWrites x e0 f.count, o < w.1 ∨ w.1 + w.2 ≤ o) ∧ (∃ i < f.count, (f32 (grad i)).isFin = false)) := by
  and_intros <;> first | exact ⟨1, by decide, by decide +kernel⟩ | decide +kernel | (unfold MemoryClean; decide +kernel) | (unfold MemoryAtRest NothingWaits; decide +kernel)

theorem witness_CollectiveFlitsAreKeptOrTaken :
    (let p : PortId := port0; let f : Flit := collFlitTo 0 0 64; let s : State := grouped;
     s.dataOn = true ∧ cwCrcOk f.hdr = true ∧ s.portLive p = true ∧ (s.port p).marked = [] ∧
     (s.group (flitGroup f)).abandoned = false ∧ flitKind f = 2 ∧ (s.group (flitGroup f)).run = none ∧
     (flitRouted f = false ∨ flitRank f = s.ownRank (flitGroup f))) ∧
    (let p : PortId := port0; let f : Flit := collFlitTo (rankWord false 0) 0 64;
     let s : State := busyGroup (.allToAll a2a0) (fun r => { r with phase := .exchanging });
     let r := { CommRun.start (.allToAll a2a0) 6 with phase := .exchanging }; let a := a2a0;
     let m := AMap.put (AMap.get r.blocks (flitChunk f) []) (flitOffset f) (f.payload, flitPoison f);
     s.dataOn = true ∧ cwCrcOk f.hdr = true ∧ s.portLive p = true ∧ (s.port p).marked = [] ∧
     (s.group (flitGroup f)).abandoned = false ∧ flitKind f = 2 ∧ (s.group (flitGroup f)).run = some r ∧
     r.kind = .allToAll a ∧ r.phase = .exchanging ∧ (s.group (flitGroup f)).early = [] ∧ flitRouted f = true ∧
     flitPermute f = false ∧ flitRank f = s.ownRank (flitGroup f) ∧ flitChunk f ∉ r.made ∧
     wholeBlock (s.blockBytes (flitGroup f) a) m = false) ∧
    (let p : PortId := port0; let f : Flit := collFlitTo (rankWord false 0) 0 68;
     let s : State := busyGroup (.allToAll a2a0) (fun r => { r with phase := .exchanging });
     let r := { CommRun.start (.allToAll a2a0) 6 with phase := .exchanging }; let a := a2a0;
     let m := AMap.put (AMap.get r.blocks (flitChunk f) []) (flitOffset f) (f.payload, flitPoison f);
     s.dataOn = true ∧ cwCrcOk f.hdr = true ∧ s.portLive p = true ∧ (s.port p).marked = [] ∧
     (s.group (flitGroup f)).abandoned = false ∧ flitKind f = 2 ∧ (s.group (flitGroup f)).run = some r ∧
     r.kind = .allToAll a ∧ r.phase = .exchanging ∧ (s.group (flitGroup f)).early = [] ∧ flitRouted f = true ∧
     flitPermute f = false ∧ flitRank f = s.ownRank (flitGroup f) ∧ flitChunk f ∉ r.made ∧
     wholeBlock (s.blockBytes (flitGroup f) a) m = true) ∧
    (let p : PortId := port0; let f : Flit := collFlitTo (rankWord false 1) 0 64; let s : State := grouped;
     s.dataOn = true ∧ cwCrcOk f.hdr = true ∧ s.portLive p = true ∧ (s.port p).marked = [] ∧
     (s.group (flitGroup f)).abandoned = false ∧ flitKind f = 2 ∧ flitRouted f = true ∧ flitRank f ≠ s.ownRank (flitGroup f)) ∧
    (let p : PortId := port0; let f : Flit := finished1;
     let s : State := busyGroup (.permute permute0) (fun r => { r with phase := .exchanging });
     s.dataOn = true ∧ cwCrcOk f.hdr = true ∧ s.portLive p = true ∧ (s.port p).marked = [] ∧
     (s.group (flitGroup f)).abandoned = false ∧ flitKind f = 9) ∧
    (let p : PortId := port0; let f : Flit := ringPiece 0 2; let s : State := busyGroup (.allReduce reduce0) (reducing 128);
     let r : CommRun := reducing 128 (CommRun.start (.allReduce reduce0) 6); let g := flitGroup f;
     let axis := (s.stages g).getD r.stage 0; let n := s.axisSize axis; let q := s.coord axis; let k := flitChunk f;
     let off := flitOffset f; let l := unpackElems (s.wireFmt g r.kind) (flitPoison f) f.payload;
     let own := List.replicate 32 (⟨0x40000000, false⟩ : CElem);
     let sums := (l.zip own).map fun (x : CElem × CElem) => (⟨BitVec.ofNat 32 (portAdd ((fmtType (s.accFmt g)).getD .F32) x.1.w.toNat x.2.w.toNat).1, x.1.po || x.2.po⟩ : CElem);
     let out := putElems r.out (k / n * (r.input.length / (2 * n)) + off) sums;
     s.dataOn = true ∧ cwCrcOk f.hdr = true ∧ s.portLive p = true ∧ (s.port p).marked = [] ∧
     (s.group (flitGroup f)).abandoned = false ∧ flitKind f = 2 ∧ flitRouted f = false ∧
     (s.group (flitGroup f)).run = some r ∧ (s.group (flitGroup f)).early = [] ∧ (s.group (flitGroup f)).blocked = [] ∧
     flitStage f = r.stage ∧ r.stage < (s.stages (flitGroup f)).length ∧ 2 ≤ s.get (R.collGDefVc.at_ (flitGroup f)) ∧
     s.get (R.collGDefVc.at_ (flitGroup f)) ≤ 5 ∧ r.phase = .reducing ∧ s.wireFmt g r.kind = s.accFmt g ∧ r.upd = none ∧
     wantsFold r n q k off = true ∧ presentAt r.input (k * (r.input.length / (2 * n)) + off) l.length = some own ∧
     r.out.length ≠ r.input.length / n ∧ ringPos (k / n) n q = k % n ∧ out.length ≠ r.input.length / n) ∧
    (let p : PortId := port0; let f : Flit := ringPiece 1 3;
     let s : State := { grouped3 with groups := [(0, { GroupSt.empty with run := some (reducing 192 (CommRun.start (.allReduce { reduce0 with count := 192 }) 6)) })] };
     let r : CommRun := reducing 192 (CommRun.start (.allReduce { reduce0 with count := 192 }) 6); let g := flitGroup f;
     let axis := (s.stages g).getD r.stage 0; let n := s.axisSize axis; let q := s.coord axis; let k := flitChunk f;
     let off := flitOffset f; let l := unpackElems (s.wireFmt g r.kind) (flitPoison f) f.payload;
     let own := List.replicate 32 (⟨0x40000000, false⟩ : CElem);
     s.dataOn = true ∧ cwCrcOk f.hdr = true ∧ s.portLive p = true ∧ (s.port p).marked = [] ∧
     (s.group (flitGroup f)).abandoned = false ∧ flitKind f = 2 ∧ flitRouted f = false ∧
     (s.group (flitGroup f)).run = some r ∧ (s.group (flitGroup f)).early = [] ∧ (s.group (flitGroup f)).blocked = [] ∧
     flitStage f = r.stage ∧ r.stage < (s.stages (flitGroup f)).length ∧ 2 ≤ s.get (R.collGDefVc.at_ (flitGroup f)) ∧
     s.get (R.collGDefVc.at_ (flitGroup f)) ≤ 5 ∧ r.phase = .reducing ∧ s.wireFmt g r.kind = s.accFmt g ∧ r.upd = none ∧
     wantsFold r n q k off = true ∧ presentAt r.input (k * (r.input.length / (2 * n)) + off) l.length = some own ∧
     r.out.length ≠ r.input.length / n ∧ ringPos (k / n) n q ≠ k % n) ∧
    (let p : PortId := port0; let f : Flit := ringPiece 1 2; let s : State := busyGroup (.allGather gather0) gathering;
     let r : CommRun := gathering (CommRun.start (.allGather gather0) 6); let g := flitGroup f;
     let axis := (s.stages g).getD r.stage 0; let n := s.axisSize axis; let q := s.coord axis; let k := flitChunk f;
     let off := flitOffset f; let l := unpackElems (s.wireFmt g r.kind) (flitPoison f) f.payload;
     let own := List.replicate 64 (⟨0x40000000, false⟩ : CElem);
     let out := putElems r.out (k * (r.input.length / 2) + off) l; let c := 0; let a := 4096;
     s.dataOn = true ∧ cwCrcOk f.hdr = true ∧ s.portLive p = true ∧ (s.port p).marked = [] ∧
     (s.group (flitGroup f)).abandoned = false ∧ flitKind f = 2 ∧ flitRouted f = false ∧
     (s.group (flitGroup f)).run = some r ∧ (s.group (flitGroup f)).early = [] ∧ (s.group (flitGroup f)).blocked = [] ∧
     flitStage f = r.stage ∧ r.stage < (s.stages (flitGroup f)).length ∧ 2 ≤ s.get (R.collGDefVc.at_ (flitGroup f)) ∧
     s.get (R.collGDefVc.at_ (flitGroup f)) ≤ 5 ∧ r.phase = .gathering ∧ presentAt r.input 0 r.input.length = some own ∧
     (AMap.find r.out (q * (r.input.length / 2))).isSome = true ∧
     (AMap.find r.out (k * (r.input.length / 2) + off)).isNone = true ∧ r.out.length ≠ n * r.input.length ∧
     out.length ≠ n * r.input.length ∧ r.stage = 0 ∧ r.kind.dst = some (.cell c a) ∧
     s.landFmt g r.kind = s.wireFmt g r.kind ∧ fmtBlock (s.wireFmt g r.kind) = 0 ∧ flitPoison f = false) := by
  and_intros <;> decide +kernel

theorem witness_CollectivesCountFlagsAndEndWhenAbandoned :
    (let g : GroupId := group0; let s : State := busyGroup (.allReduce reduce0) (fun r => { r with phase := .landed });
     let r : CommRun := { CommRun.start (.allReduce reduce0) 6 with phase := .landed }; let f := reduce0;
     (s.group g).run = some r ∧ r.kind = .allReduce f ∧ r.phase = .landed ∧ s.accepted g = true ∧
     s.writesLanded g r = true ∧ (∀ x ∈ (s.flag f.flagDone).changes, x.cycle ≤ (s.cell f.flagDone.cell).cycle)) ∧
    (let g : GroupId := group0;
     let s : State := busyGroup (.allReduce { reduce0 with flagProgress := some flag0 }) (fun r => { r with sentBytes := 65536 });
     let r : CommRun := { CommRun.start (.allReduce { reduce0 with flagProgress := some flag0 }) 6 with sentBytes := 65536 };
     let f := flag0;
     (s.group g).run = some r ∧ r.kind.flagProgress = some f ∧
     65536 * (r.progress + 1) + ((s.flitsIn g).map (·.share)).sum ≤ r.sentBytes ∧
     (∀ x ∈ (s.flag f).changes, x.cycle ≤ (s.cell f.cell).cycle)) ∧
    (let g : GroupId := group0; let s : State := busyGroup (.allGather gather0) (fun r => { r with phase := .landed });
     let r : CommRun := { CommRun.start (.allGather gather0) 6 with phase := .landed }; let f := ⟨0, 4⟩; let rank := 1;
     (s.group g).run = some r ∧ r.kind.flagArrive = some f ∧ rank < s.members g ∧ r.arrived.contains rank = false ∧
     s.shareLanded g r rank = true ∧ (∀ x ∈ (s.flag f).changes, x.cycle ≤ (s.cell f.cell).cycle)) ∧
    (let g : GroupId := group0;
     let s : State := { busyGroup (.permute { permute0 with rounds := 2 }) with groups := [(0, { GroupSt.empty with doneBits := [(0, 0), (0, 1)], run := some { CommRun.start (.permute { permute0 with rounds := 2 }) 6 with finished := true, phase := .exchanging } })] };
     let r : CommRun := { CommRun.start (.permute { permute0 with rounds := 2 }) 6 with finished := true, phase := .exchanging };
     let f := { permute0 with rounds := 2 };
     (s.group g).run = some r ∧ r.kind = .permute f ∧ r.finished = true ∧ s.allFinished g r.round = true) ∧
    (let p : PortId := port0; let w : CtlWord := cwSeal [4, 0, 0, 1, 2 ^ 31, 0, 0];
     let s : State := busyGroup (.allReduce reduce0); let g : Nat := 0; let a : ActiveAct := act0;
     let cue := w.w5.toNat + 2 ^ 32 * w.w6.toNat;
     s.dataOn = true ∧ s.portLive p = true ∧ cwCrcOk w = true ∧ bitsOf w.w0.toNat 0 8 = 4 ∧ s.positionOk w.w4.toNat = true ∧
     g < 16 ∧ bitAt w.w3.toNat g = true ∧ (s.group g).abandoned = false ∧ s.actOfGroup g = some a ∧
     s.map.relayed.contains (abandonOf (cwWords w)) = false ∧ s.sameInstance g (placeOf w.w4.toNat) = true ∧ a.start ≤ cue ∧
     a.intermission = false) ∧
    (let p : PortId := port0; let w : CtlWord := cwSeal [4, 0, 0, 1, 2 ^ 31, 0, 0];
     let s : State := { busyGroup (.allReduce reduce0) with acts := [{ act0 with start := 3 }] }; let g : Nat := 0;
     let a : ActiveAct := { act0 with start := 3 }; let cue := w.w5.toNat + 2 ^ 32 * w.w6.toNat;
     s.dataOn = true ∧ s.portLive p = true ∧ cwCrcOk w = true ∧ bitsOf w.w0.toNat 0 8 = 4 ∧ s.positionOk w.w4.toNat = true ∧
     g < 16 ∧ bitAt w.w3.toNat g = true ∧ (s.group g).abandoned = false ∧ s.actOfGroup g = some a ∧
     s.map.relayed.contains (abandonOf (cwWords w)) = false ∧ s.sameInstance g (placeOf w.w4.toNat) = true ∧ cue < a.start) := by
  and_intros <;> decide +kernel

theorem witness_PointToPointFlitsPassAndSkewIsCounted :
    (let p : PortId := port0; let f : Flit := p2p0; let s : State := grouped;
     s.dataOn = true ∧ cwCrcOk f.hdr = true ∧ s.portLive p = true ∧ 3 ≤ flitKind f ∧ flitKind f ≤ 5 ∧ flitVc f = 6 ∧
     (s.port p).pools.length = 20 ∧ s.chip = some (flitDest f)) ∧
    (let p : PortId := port0; let f : Flit := p2pFlit 3 false true 1 0 4096 7 (List.replicate 64 1);
     let s : State := routed; let q := 0;
     s.dataOn = true ∧ cwCrcOk f.hdr = true ∧ s.portLive p = true ∧ 3 ≤ flitKind f ∧ flitKind f ≤ 5 ∧ flitVc f = 6 ∧
     (s.port p).pools.length = 20 ∧ s.chip ≠ some (flitDest f) ∧ (s.port p).marked = [] ∧
     s.route (flitDest f) (flitOffset f) = some q) ∧
    (let p : PortId := port0; let f : Flit := p2pFlit 3 false true 9 0 4096 7 (List.replicate 64 1);
     let s : State := routed;
     s.dataOn = true ∧ cwCrcOk f.hdr = true ∧ s.portLive p = true ∧ 3 ≤ flitKind f ∧ flitKind f ≤ 5 ∧ flitVc f = 6 ∧
     (s.port p).pools.length = 20 ∧ s.chip ≠ some (flitDest f) ∧ s.route (flitDest f) (flitOffset f) = none) ∧
    (let flits : List Nat := [100, 0, 0, 0, 0]; let capacity : Nat := 100;
     let s : State := { on [(R.portStateState 0, 2), (R.portStateState 1, 2), (R.portStateState 2, 2), (R.portStateState 3, 2)] with map := { MapSt.reset with skewUp := [9, 0, 0, 0, 0, 0] } };
     let d : Fin 6 := 0; let l := (s.portsOf d).map fun p => flits.getD p 0;
     let hot := decide (3 * l.sum < l.foldl max 0 * l.length) && (decide (capacity * l.length ≤ 64 * l.sum) && l.sum != 0);
     s.dataOn = true ∧ s.map.skewUp.length = 6 ∧ s.map.skewDown.length = 6 ∧ hot = true ∧ 9 ≤ s.map.skewUp.getD d 0 ∧
     10 ≤ s.map.skewDown.getD d 0) := by
  and_intros <;> decide +kernel

theorem witness_CurtainWordsAreCombinedAndDecided :
    (let s : State := exchanging fun c => { c with contributed := false, peerDirs := [] };
     s.dataOn = true ∧ s.outcomePending = true ∧ s.commit.contributed = false ∧ s.trainedDirs ≠ []) ∧
    (let s : State := { exchanging (fun c => { c with contributed := false, peerDirs := [] }) with regs := run.regs };
     s.dataOn = true ∧ s.outcomePending = true ∧ s.commit.contributed = false ∧ s.trainedDirs = [] ∧
     s.commit.andF = BitVec.allOnes 32 ∧ s.commit.orF = 0 ∧ s.commit.confAll = true) ∧
    (let p : PortId := port0; let w : CtlWord := cwSeal [2, 0, 0, 1, 1, 0, 0]; let s : State := exchanging;
     s.dataOn = true ∧ s.portLive p = true ∧ cwCrcOk w = true ∧ s.allot p < 6 ∧ s.outcomePending = true ∧
     bitsOf w.w0.toNat 0 8 = 2 ∧ s.commit.decided = none) ∧
    (let p : PortId := port0; let w : CtlWord := cwSeal [3, 0, 0, 1, 1, 0, 0];
     let s : State := exchanging fun c => { c with decided := some true };
     s.dataOn = true ∧ s.portLive p = true ∧ cwCrcOk w = true ∧ s.allot p < 6 ∧ s.outcomePending = true ∧
     bitsOf w.w0.toNat 0 8 = 3 ∧ s.commit.outcome = none) ∧
    (let dir : Fin 6 := 0; let s : State := exchanging; let p : Nat := 0; let l : List Nat := [];
     s.dataOn = true ∧ s.inExchange = true ∧ s.outcomePending = true ∧ dir.val ∉ s.commit.seenDirs ∧ s.portsOf dir = p :: l) ∧
    (let s : State := exchanging fun c => { c with andF := 0x00050001, orF := 0x00050001, seenDirs := [0] };
     s.dataOn = true ∧ s.outcomePending = true ∧ s.inExchange = true ∧ s.commit.andF >>> 16 = s.commit.orF >>> 16) ∧
    (let s : State := exchanging fun c => { c with andF := 0x00050001, orF := 0x00070001, seenDirs := [0] };
     s.dataOn = true ∧ s.outcomePending = true ∧ s.inExchange = true ∧ s.commit.andF >>> 16 ≠ s.commit.orF >>> 16) ∧
    (let s : State := exchanging fun c => { c with decided := some true, confDirs := [0] }; let ok : Bool := true;
     s.dataOn = true ∧ s.outcomePending = true ∧ s.commit.decided = some ok ∧ s.commit.outcome = none) ∧
    (let s : State := exchanging fun c => { c with decided := some true }; let ok : Bool := true;
     let c := ok && s.commit.confAll && s.commit.peerDirs.all s.commit.confDirs.contains;
     s.dataOn = true ∧ s.outcomePending = true ∧ s.commit.decided = some ok ∧ s.commit.outcome = none ∧ ok = true ∧
     c = false) := by
  and_intros <;> decide +kernel

theorem witness_OutcomeSwitchesOrKeepsTheCommittedCopies :
    (let s : State := deciding true traffic0 (seen0 false); let j : JobSt := job0; let end_ : Nat := 4;
     let commit : Bool := true; let i : Nat := 0; let x : Slot := slot0; let r : Recipe := traffic0;
     s.dataOn = true ∧ s.sheet.armed = false ∧ s.job = some j ∧ j.outcomeAt = some end_ ∧ s.commit.outcome = some commit ∧
     end_ ≤ s.nextCue ∧ s.heldNow = false ∧ (s.mem.resync = [] ∨ (s.mem.waiting = [] ∧ s.groups = [])) ∧
     s.scale.slots[i]? = some x ∧ x.valid = true ∧ s.scale.recipes[x.recipe]? = some r ∧ commit = true) ∧
    (let s : State := deciding false traffic0 (seen0 true); let j : JobSt := job0; let end_ : Nat := 4;
     let commit : Bool := false; let i : Nat := 0; let x : Slot := slot0; let r : Recipe := traffic0;
     let sr := AMap.get s.scale.step i SlotRec.empty;
     s.dataOn = true ∧ s.sheet.armed = false ∧ s.job = some j ∧ j.outcomeAt = some end_ ∧ s.commit.outcome = some commit ∧
     end_ ≤ s.nextCue ∧ s.heldNow = false ∧ (s.mem.resync = [] ∨ (s.mem.waiting = [] ∧ s.groups = [])) ∧ commit = false ∧
     s.mem.resync = [] ∧ s.scale.slots[i]? = some x ∧ x.valid = true ∧ s.scale.recipes[x.recipe]? = some r ∧ sr.ovf = true ∧
     r.traffic = true ∧ fmtTensorScaled r.fmt = true) ∧
    (let s : State := deciding false { traffic0 with kind := 3 } (seen0 true); let j : JobSt := job0; let end_ : Nat := 4;
     let commit : Bool := false; let i : Nat := 0; let x : Slot := slot0; let r : Recipe := { traffic0 with kind := 3 };
     let sr := AMap.get s.scale.step i SlotRec.empty;
     s.dataOn = true ∧ s.sheet.armed = false ∧ s.job = some j ∧ j.outcomeAt = some end_ ∧ s.commit.outcome = some commit ∧
     end_ ≤ s.nextCue ∧ s.heldNow = false ∧ (s.mem.resync = [] ∨ (s.mem.waiting = [] ∧ s.groups = [])) ∧ commit = false ∧
     s.mem.resync = [] ∧ s.scale.slots[i]? = some x ∧ x.valid = true ∧ s.scale.recipes[x.recipe]? = some r ∧ sr.ovf = true ∧
     r.traffic = false) ∧
    (let s : State := deciding false traffic0 (seen0 false); let j : JobSt := job0; let end_ : Nat := 4;
     let commit : Bool := false; let i : Nat := 0; let x : Slot := slot0; let r : Recipe := traffic0;
     let sr := AMap.get s.scale.step i SlotRec.empty;
     s.dataOn = true ∧ s.sheet.armed = false ∧ s.job = some j ∧ j.outcomeAt = some end_ ∧ s.commit.outcome = some commit ∧
     end_ ≤ s.nextCue ∧ s.heldNow = false ∧ (s.mem.resync = [] ∨ (s.mem.waiting = [] ∧ s.groups = [])) ∧ commit = false ∧
     s.mem.resync = [] ∧ s.scale.slots[i]? = some x ∧ x.valid = true ∧ s.scale.recipes[x.recipe]? = some r ∧ sr.ovf = false) ∧
    (let s : State := { deciding true traffic0 (seen0 false) with cue := { CueSt.reset with flood := { busy := true, held := false, accept := false, digOr := 0, digAnd := 0 } } };
     let j : JobSt := job0; let end_ : Nat := 4;
     s.dataOn = true ∧ s.sheet.armed = false ∧ s.job = some j ∧ j.outcomeAt = some end_ ∧
     (s.heldNow = true ∨ s.nextCue < end_ ∨ s.commit.outcome = none)) := by
  and_intros <;> decide +kernel

theorem witness_BackgroundWorkEnds :
    (let page : Nat := 0; let s : State := resyncing; let r : VRange := range0; let a := 4096;
     Canonical s ∧ page ∈ s.mem.resync ∧ s.rangeOf (page * 4096) = some r ∧ s.mem.waiting = [] ∧ s.groups = [] ∧
     (a < r.pending + (page * 4096 - r.base) ∨ r.pending + (page * 4096 - r.base) + 4096 ≤ a)) ∧
    (let page : Nat := 3; let s : State := { run with mem := { MemSt.reset with settle := [3] } };
     page ∈ s.mem.settle ∧ s.mem.waiting = [] ∧ s.groups = []) ∧
    (let s : State := { run with mem := { MemSt.reset with rekey1 := true, rekey2 := true } };
     s.mem.waiting = [] ∧ s.groups = [] ∧ s.mem.rekey1 = true ∧ s.mem.rekey2 = true) ∧
    (let s : State := { run with scale := { ScaleSt.reset with preparing := true } };
     s.scale.preparing = true) ∧
    (let s : State := { run with scale := { ScaleSt.reset with wb := true } };
     s.scale.wb = true) := by
  unfold Canonical
  and_intros <;> decide +kernel

theorem witness_ScrubCorrectsOrMarks :
    (let line : Nat := 7; let found : Nat := 0; let s : State := run;
     let errs := if found = 0 then AMap.get s.mem.errs line 0 else found;
     s.dataOn = true ∧ tierOf (64 * line) = 1 ∧ line ∉ s.mem.poison ∧ errs ≤ 5 ∧ errs = 0) ∧
    (let line : Nat := 7; let found : Nat := 3; let s : State := run;
     let errs := if found = 0 then AMap.get s.mem.errs line 0 else found;
     s.dataOn = true ∧ tierOf (64 * line) = 1 ∧ line ∉ s.mem.poison ∧ errs ≤ 5 ∧ 1 ≤ errs ∧ errs ≤ 3) ∧
    (let line : Nat := 7; let found : Nat := 4; let s : State := run;
     let errs := if found = 0 then AMap.get s.mem.errs line 0 else found;
     s.dataOn = true ∧ tierOf (64 * line) = 1 ∧ line ∉ s.mem.poison ∧ errs ≤ 5 ∧ 4 ≤ errs) ∧
    (let line : Nat := 7; let found : Nat := 0; let s : State := { run with mem := { MemSt.reset with errs := [(7, 2)] } };
     let errs := if found = 0 then AMap.get s.mem.errs line 0 else found;
     s.dataOn = true ∧ tierOf (64 * line) = 1 ∧ line ∉ s.mem.poison ∧ errs ≤ 5 ∧ 1 ≤ errs ∧ errs ≤ 3) := by
  and_intros <;> decide +kernel

theorem witness_MemoryRegistersReportAndCommand :
    (let s : State := run; let i : Nat := 0; let k : Nat := 0;
     s.dataOn = true ∧ i < 768 ∧ k < 16) ∧
    (let stack : FarId := 15; let s : State := run;
     s.dataOn = true ∧ s.get (R.stackLinkLanes (8 + stack)) = 8) ∧
    (let path : Path := .callboard; let s : State := run;
     s.reaches path 5) := by
  unfold State.reaches
  and_intros <;> decide +kernel

theorem witness_SnapshotsArmStreamAndEnd :
    (let path : Path := .host; let s : State := snapping [(R.hostLinkRate, 1), (R.hostLinkCxl, 1), (R.memSnapCueLo, 2)];
     let c := s.snapCause (s.flagReg R.commitCkptCtrlOnCommit);
     s.reaches path 5 ∧ s.streaming = false ∧ c = 0) ∧
    (let path : Path := .callboard; let s : State := snapping [(R.memT3Size, 0)];
     let c := s.snapCause (s.flagReg R.commitCkptCtrlOnCommit);
     s.reaches path 5 ∧ s.streaming = false ∧ c ≠ 0) ∧
    (let path : Path := .callboard; let s : State := on [(R.memSnapStatusState, 2)];
     s.reaches path 5 ∧ (s.get R.memSnapStatusState = 1 ∨ s.get R.memSnapStatusState = 2)) ∧
    (let s : State := { on [(R.memSnapStatusState, 1), (R.hostLinkRate, 1)] with mem := { MemSt.reset with snap := [⟨0, 4096, TIER3⟩] } };
     s.dataOn = true ∧ s.snapDue = true ∧ s.get R.hostLinkRate ≠ 0 ∧ (s.mem.snap.map (·.len)).sum < 2 ^ 40) ∧
    (let s : State := on [(R.memSnapStatusState, 1)];
     s.dataOn = true ∧ s.snapDue = true ∧ s.get R.hostLinkRate = 0) ∧
    (let s : State := { on [(R.memSnapStatusState, 2)] with mem := { MemSt.reset with snap := [⟨0, 4096, TIER3⟩] } };
     s.streaming = true) := by
  unfold State.reaches
  and_intros <;> decide +kernel

/-! ## Links -/

/-- A port frame with this number and a good header (R331). -/
def frameOf (n : Nat) : Frame :=
  let body := n
  let b := (List.range 9).map fun i => BitVec.ofNat 8 (bitsOf body (64 - 8 * i) 8)
  { hdr := BitVec.ofNat 80 (body + crc8 b * 2 ^ 72), errs := List.replicate 9 [], badMarkers := [], laneLost := none, flits := [] }

/-- Port 0 up, as `f` makes it. -/
def up0 (f : PortSt → PortSt) : State := { linked with ports := [(0, f PortSt.reset)] }

/-- A ledger of all zeros, up to frame 0 (R344). -/
def ledger0 : Ledger := ⟨0, List.replicate 20 0, List.replicate 20 0, 0, true⟩

/-- Eight active lanes and a ready spare. -/
def lanes0 : List LaneState := List.replicate 8 .active ++ [.ready]

/-- The spare trains for logical lane 3. -/
def swapping (p : SwapPhase) : DirSt := { DirSt.reset with lanes := List.replicate 8 .active ++ [.training], swap := p, target := 3 }

def train0 : TrainResult :=
  ⟨List.replicate 9 ⟨42500, 150, 13, 0⟩, List.replicate 9 ⟨42500, 150, 0, 0⟩, cwSeal [6, 0, 0, 5, 0, 0x200, 0],
    List.replicate 9 0, List.replicate 9 ⟨0, 0, 0⟩, List.replicate 9 10, 0⟩

/-- Every lane meets a trigger (R360). -/
def hot9 : List LaneMon := List.replicate 9 { LaneMon.empty with berRun := 10, biasRun := 10 }

/-- Port 0 dark, its cage holding a pluggable of code 1 (R352). -/
def dark0 : State := on [(R.linkInventoryLo, 1), (R.portStateState 0, 5)]

/-- Port 0 in phase 5 of its training. -/
def training5 : State := { on [(R.portStateState 0, 1)] with ports := [(0, { PortSt.reset with phase := 5 })] }

/-! ## Power, clock and heat -/

/-- The clock runs at 1,850 MHz under a cap of 1,500 W. -/
def powered0 : State :=
  { State.with (run.setWord R.pwrCapW.addr 1500) [(R.pwrCalGain, 4096), (R.pwrClockMhz, 1850), (R.pwrSlewWPerUs, 10),
      (R.pwrLeadMarginUs, 100)] with
      acts := [act0] }

theorem witness_FramesAreTakenInOrder :
    (let p : PortId := port0; let f : Frame := frameOf 0; let s : State := linked;
     let good := frameHdrOk f && f.flits.all fun y => cwCrcOk y.hdr;
     s.dataOn = true ∧ s.portIsUp p = true ∧ ((s.port p).watch f).1 = none ∧ good = true ∧ frameNumber f = (s.port p).nextRx) ∧
    (let p : PortId := port0; let f : Frame := frameOf 1; let s : State := linked;
     let good := frameHdrOk f && f.flits.all fun y => cwCrcOk y.hdr;
     s.dataOn = true ∧ s.portIsUp p = true ∧ ((s.port p).watch f).1 = none ∧ good = true ∧ frameNumber f ≠ (s.port p).nextRx) ∧
    (let p : PortId := port0; let f : Frame := { frameOf 0 with hdr := 1 }; let s : State := linked;
     let good := frameHdrOk f && f.flits.all fun y => cwCrcOk y.hdr;
     s.dataOn = true ∧ s.portIsUp p = true ∧ ((s.port p).watch f).1 = none ∧ good = false) := by
  and_intros <;> decide +kernel

theorem witness_CreditFaultsAreFoundAndRepaired :
    (let p : PortId := port0; let l : Ledger := ledger0;
     let s : State := up0 fun x => { x with history := [(0, List.replicate 20 0)] };
     s.dataOn = true ∧ s.portIsUp p = true ∧ (s.port p).reinit = false ∧ (s.port p).checkLedger l = none) ∧
    (let p : PortId := port0; let l : Ledger := { ledger0 with sent := 1 :: List.replicate 19 0 };
     let s : State := up0 fun x => { x with history := [(0, List.replicate 20 0)] }; let q := 0; let c := 0;
     s.dataOn = true ∧ s.portIsUp p = true ∧ (s.port p).reinit = false ∧ (s.port p).checkLedger l = some (q, c) ∧
     s.inExchange = false) ∧
    (let p : PortId := port0; let s : State := up0 fun x => { x with reinit := true };
     s.portIsUp p = true ∧ (s.port p).reinit = true) ∧
    (let p : PortId := port0; let s : State := up0 fun x => { x with reinit := true }; let q : Nat := 19;
     s.dataOn = true ∧ s.portIsUp p = true ∧ (s.port p).reinit = true ∧ (s.port p).retry = [] ∧ (s.port p).txq = [] ∧
     (s.port p).ledgerDue = false ∧ (s.port p).pools.length = 20 ∧ q < 20) := by
  and_intros <;> decide +kernel

theorem witness_SwapsRunToTheirSwitch :
    (let p : PortId := port0;
     let s : State := up0 fun x => { x with rx := { DirSt.reset with lanes := lanes0 }, tx := { DirSt.reset with lanes := lanes0 }, mons := hot9 };
     let lane : LaneId := 3; let u : Nat := 8; let d : Dir := .rx;
     s.dataOn = true ∧ s.portIsUp p = true ∧ ((s.port p).dir d).swap = .none ∧ ((s.port p).dir d).narrow = false ∧
     ((s.port p).dir d).spare = some u ∧ ((s.port p).dir d).lanes.getD lane .failed = .active ∧
     ((s.port p).mons.getD lane LaneMon.empty).triggered d = true ∧ (s.port p).tx.swap = .none ∧
     (s.port p).tx.narrow = false ∧ (s.port p).tx.spare = some u) ∧
    (let p : PortId := port0; let s : State := up0 fun x => { x with rx := swapping .training, tx := swapping .training };
     let u : Nat := 8; let q : LaneQual := ⟨0, 150, 0, 0⟩;
     s.dataOn = true ∧ s.portIsUp p = true ∧ (s.port p).tx.swap = .training ∧
     ((s.port p).tx.lanes.findIdx? (fun l => decide (l = .training)) = some u) ∧
     laneOk 1 q ((s.port p).mons.getD u LaneMon.empty).peerBol = true ∧
     (((s.port p).rx.swap = .training ∧ (s.port p).rx.lanes.findIdx? (fun l => decide (l = .training)) = some u) ∨ ((s.port p).rx.swap = .none ∧ (s.port p).rx.spare = some u))) ∧
    (let p : PortId := port0; let s : State := up0 fun x => { x with rx := swapping .mirroring, tx := swapping .mirroring };
     s.dataOn = true ∧ s.portIsUp p = true ∧ (s.port p).tx.swap = .mirroring ∧ (s.port p).reinit = false ∧
     (s.port p).rx.swap = .mirroring) ∧
    (let p : PortId := port0;
     let s : State := up0 fun x => { x with rx := swapping .mirroring, tx := { swapping .switching with switchAt := some 16 } };
     let k : LogicalId := 3; let frame : Nat := 16; let u : Nat := 8;
     s.dataOn = true ∧ s.portIsUp p = true ∧ (s.port p).rx.swap = .mirroring ∧ (s.port p).tx.switchAt = some frame ∧
     (s.port p).tx.target = k ∧ (s.port p).tx.swap = .switching ∧ (s.port p).tx.narrow = false ∧ (s.port p).tx.later = [] ∧
     ((s.port p).tx.lanes.findIdx? (fun l => decide (l = .training)) = some u)) := by
  and_intros <;> decide +kernel

theorem witness_LanesFailNarrowAndAreLost :
    (let p : PortId := port0; let s : State := up0 fun x => { x with rx := swapping .mirroring, tx := swapping .training };
     let u : Nat := 8;
     s.dataOn = true ∧ s.portIsUp p = true ∧ ((s.port p).tx.lanes.findIdx? (fun l => decide (l = .training)) = some u) ∧
     ((s.port p).tx.swap = .training ∨ (s.port p).tx.swap = .mirroring) ∧
     ((s.port p).rx.lanes.findIdx? (fun l => decide (l = .training)) = some u)) ∧
    (let p : PortId := port0; let s : State := up0 fun x => { x with tx := swapping .training }; let u : Nat := 8;
     s.dataOn = true ∧ s.portIsUp p = true ∧ ((s.port p).tx.lanes.findIdx? (fun l => decide (l = .training)) = some u) ∧
     ((s.port p).tx.swap = .training ∨ (s.port p).tx.swap = .mirroring)) ∧
    (let p : PortId := port0;
     let s : State := up0 fun x => { x with tx := { swapping .none with lanes := lanes0 }, rx := swapping .mirroring };
     let u : Nat := 8;
     s.dataOn = true ∧ s.portIsUp p = true ∧ ((s.port p).rx.lanes.findIdx? (fun l => decide (l = .training)) = some u) ∧
     (s.port p).tx.narrow = false ∧ (s.port p).tx.swap = .none ∧ (s.port p).reinit = false) ∧
    (let p : PortId := port0; let d : Dir := .rx; let lane : LaneId := 2;
     let s : State := up0 fun x => { x with rx := { DirSt.reset with lanes := lanes0 } }; let u := 8;
     s.dataOn = true ∧ s.portLive p = true ∧ ((s.port p).dir d).lanes.getD lane .failed = .active ∧
     ((s.port p).dir d).narrow = false ∧ ((s.port p).dir d).understudy = some u) ∧
    (let p : PortId := port0; let d : Dir := .tx; let lane : LaneId := 2;
     let s : State := up0 fun x => { x with tx := { DirSt.reset with lanes := List.replicate 7 .active ++ [.failed, .failed], narrow := true } };
     s.dataOn = true ∧ s.portLive p = true ∧ ((s.port p).dir d).lanes.getD lane .failed = .active ∧
     ((s.port p).dir d).narrow = true) := by
  and_intros <;> decide +kernel

theorem witness_PortsTrainAndGoDark :
    (let path : Path := .callboard; let p : PortId := port0; let s : State := dark0;
     s.reaches path (0x300 + p) ∧
     (s.get (R.portStateState p) = 0 ∨ s.get (R.portStateState p) = 4 ∨ s.get (R.portStateState p) = 5) ∧ s.cage p = 1 ∧
     s.portLive p = false) ∧
    (let path : Path := .callboard; let p : PortId := port0; let s : State := linked;
     s.reaches path (0x300 + p) ∧ s.loaded = false ∧ s.portIsUp p = true ∧ s.portLive p = true) ∧
    (let path : Path := .callboard; let s : State := dark0; let p : Nat := 0;
     s.reaches path 9 ∧ p < 32 ∧
     (s.get (R.portStateState p) = 0 ∨ s.get (R.portStateState p) = 4 ∨ s.get (R.portStateState p) = 5) ∧ s.cage p = 1 ∧
     s.portLive p = false) ∧
    (let path : Path := .callboard; let s : State := linked; let p : Nat := 0;
     s.reaches path 9 ∧ p < 32 ∧ s.portLive p = true) ∧
    (let p : PortId := port0; let s : State := up0 fun x => { x with quiesce := true };
     (s.port p).quiesce = true ∧ s.portLive p = true) := by
  unfold State.reaches
  and_intros <;> decide +kernel

theorem witness_TrainingAndPluggables :
    (let p : PortId := port0;
     let s : State := { on [(R.portStateState 0, 1)] with ports := [(0, { PortSt.reset with phase := 1 })] };
     s.start.powered = true ∧ (s.get (R.portStateState p) = 1 ∨ s.get (R.portStateState p) = 3) ∧
     ((s.port p).phase = 1 ∨ (s.port p).phase = 2 ∨ (s.port p).phase = 3)) ∧
    (let p : PortId := port0;
     let s : State := { on [(R.portStateState 0, 1)] with ports := [(0, { PortSt.reset with phase := 7 })] };
     s.start.powered = true ∧ (s.get (R.portStateState p) = 1 ∨ s.get (R.portStateState p) = 3) ∧ (s.port p).phase = 7) ∧
    (let p : PortId := port0; let r : TrainResult := train0;
     let s : State := { on [(R.portStateState 0, 1)] with ports := [(0, { PortSt.reset with phase := 4 })] };
     let rx : DirSt := { DirSt.reset with lanes := List.replicate 8 .active ++ [.ready] };
     let tx : DirSt := { DirSt.reset with lanes := List.replicate 8 .active ++ [.ready] };
     s.start.powered = true ∧ (s.get (R.portStateState p) = 1 ∨ s.get (R.portStateState p) = 3) ∧ (s.port p).phase = 4 ∧
     ((s.port p).rx.choose (qualifying r.rx fun i => r.peerBol.getD i 0) = some rx) ∧
     ((s.port p).tx.choose (qualifying r.tx fun i => s.get ((R.portLaneTxBiasBol p).at_ i)) = some tx)) ∧
    (let p : PortId := port0;
     let s : State := { on [(R.portStateState 0, 1)] with ports := [(0, { PortSt.reset with phase := 6 })] };
     s.start.powered = true ∧ (s.get (R.portStateState p) = 1 ∨ s.get (R.portStateState p) = 3) ∧ (s.port p).phase = 6) ∧
    (let p : PortId := port0; let r : TrainResult := { train0 with rx := [] };
     let s : State := { on [(R.portStateState 0, 3)] with ports := [(0, { PortSt.reset with phase := 4 })] };
     s.start.powered = true ∧ (s.get (R.portStateState p) = 1 ∨ s.get (R.portStateState p) = 3) ∧ (s.port p).phase = 4 ∧
     ((s.port p).rx.choose (qualifying r.rx fun i => r.peerBol.getD i 0) = none ∨ (s.port p).tx.choose (qualifying r.tx fun i => s.get ((R.portLaneTxBiasBol p).at_ i)) = none)) ∧
    (let p : PortId := port0; let r : TrainResult := { train0 with peer := cwSeal [6, 0, 0, 5, 0, 0x300, 0] };
     let s : State := { on [(R.portStateState 0, 1)] with ports := [(0, { PortSt.reset with phase := 5 })] };
     s.start.powered = true ∧ (s.get (R.portStateState p) = 1 ∨ s.get (R.portStateState p) = 3) ∧ (s.port p).phase = 5 ∧
     cwCrcOk r.peer = true ∧ (bitsOf r.peer.w0.toNat 0 8 ≠ 6 ∨ 8 ≤ bitsOf r.peer.w5.toNat 5 4)) ∧
    (let p : PortId := port0;
     let s : State := { on [(R.portStateState 0, 3)] with ports := [(0, { PortSt.reset with phase := 7 })] };
     s.start.powered = true ∧ (s.get (R.portStateState p) = 1 ∨ s.get (R.portStateState p) = 3) ∧ (s.port p).phase = 7 ∧
     s.get (R.portStateState p) = 3) ∧
    (let p : PortId := port0;
     let s : State := { on [(R.portStateState 0, 3)] with ports := [(0, { PortSt.reset with phase := 4 })] };
     s.start.powered = true ∧ (s.port p).phase < 8 ∧ s.get (R.portStateState p) = 3) ∧
    (let p : PortId := port0;
     let s : State := { on [(R.portStateState 0, 1)] with ports := [(0, { PortSt.reset with phase := 4 })] };
     s.start.powered = true ∧ (s.port p).phase < 8 ∧ s.get (R.portStateState p) = 1) ∧
    (let p : PortId := port0; let w : CtlWord := cwSeal [6, 0, 0, 5, 0, 0x200, 0]; let s : State := linked;
     s.dataOn = true ∧ s.portLive p = true ∧ cwCrcOk w = true ∧ bitsOf w.w0.toNat 0 8 = 6 ∧ bitsOf w.w5.toNat 5 4 < 8) ∧
    (let p : PortId := port0; let s : State := run; let l : Nat := 1;
     s.start.powered = true ∧ s.portLive p = false ∧ l < 9) ∧
    (let p : PortId := port0; let s : State := linked;
     s.start.powered = true ∧ s.portIsUp p = true) := by
  and_intros <;> decide +kernel

theorem witness_TrainingAndPluggables_1 :
    (let p : PortId := port0; let r : TrainResult := { train0 with peer := cwSeal [6, 0, 0, 5, 0, 0x220, 0] };
     let s : State := training5; let id := r.peer.w3.toNat + 2 ^ 32 * r.peer.w4.toNat;
     let mates := fun (q : Nat) => q < 32 ∧ q ≠ p ∧ s.portIsUp q = true ∧ s.allot q = s.allot p;
     s.start.powered = true ∧ (s.get (R.portStateState p) = 1 ∨ s.get (R.portStateState p) = 3) ∧ (s.port p).phase = 5 ∧
     cwCrcOk r.peer = true ∧ bitsOf r.peer.w0.toNat 0 8 = 6 ∧ bitsOf r.peer.w5.toNat 5 4 < 8 ∧
     bitsOf r.peer.w5.toNat 5 4 = opposite (s.allot p) ∧
     (s.allot p < 6 → ∀ q, mates q → s.get2 (R.portPeerIdLo q) (R.portPeerIdHi q) = id)) := by
  and_intros <;> first | exact fun _ q h => absurd h.2.2.1 (by rw [(by decide +kernel : ∀ q < 32, training5.portIsUp q = false) q h.1]; exact Bool.false_ne_true) | decide +kernel

theorem witness_TrainingAndPluggables_2 :
    (let p : PortId := port0; let r : TrainResult := train0; let s : State := training5;
     let id := r.peer.w3.toNat + 2 ^ 32 * r.peer.w4.toNat;
     let mates := fun (q : Nat) => q < 32 ∧ q ≠ p ∧ s.portIsUp q = true ∧ s.allot q = s.allot p;
     s.start.powered = true ∧ (s.get (R.portStateState p) = 1 ∨ s.get (R.portStateState p) = 3) ∧ (s.port p).phase = 5 ∧
     cwCrcOk r.peer = true ∧ bitsOf r.peer.w0.toNat 0 8 = 6 ∧ bitsOf r.peer.w5.toNat 5 4 < 8 ∧
     (bitsOf r.peer.w5.toNat 5 4 ≠ opposite (s.allot p) ∨ (s.allot p < 6 ∧ (∃ q, mates q) ∧ ∀ q, mates q → s.get2 (R.portPeerIdLo q) (R.portPeerIdHi q) ≠ id))) := by
  and_intros <;> first | exact Or.inl (by decide +kernel) | decide +kernel

theorem witness_MonitorsAreAveragedAndClassified :
    (let p : PortId := port0; let s : State := linked; let r : List TxReading := [⟨700, -30, 120⟩]; let l : Nat := 0;
     let w : CtlWord := cwSeal [7, 0, 0, 0x01230000, 0x00050006, 0, 0];
     s.dataOn = true ∧ s.portLive p = true ∧ (s.port p).mons.length = 9 ∧ l < 9 ∧ l < r.length ∧ cwCrcOk w = true ∧
     bitsOf w.w0.toNat 0 8 = 7 ∧ bitsOf w.w3.toNat 0 4 ≤ 8) ∧
    (let p : PortId := port0; let s : State := linked; let r : List RxReading := [⟨-50, 0⟩]; let l : Nat := 0;
     s.dataOn = true ∧ s.portLive p = true ∧ (s.port p).mons.length = 9 ∧ l < 9 ∧ l < r.length) := by
  and_intros <;> decide +kernel

theorem witness_PowerIsEstimatedAndCapped :
    (let raw : Nat := 800; let s : State := powered0; let want := min (raw * s.get R.pwrCalGain / 4096) 8191;
     let slew := s.get R.pwrSlewWPerUs;
     let line := if s.slewExempt ∧ want < s.pwr.line then want else approach s.pwr.line (s.lineGoal want) slew;
     s.start.powered = true ∧ s.slewExempt = false ∧ line ≤ s.effectiveCap) ∧
    (let raw : Nat := 1501; let s : State := powered0; let want := min (raw * s.get R.pwrCalGain / 4096) 8191;
     let slew := s.get R.pwrSlewWPerUs;
     let line := if s.slewExempt ∧ want < s.pwr.line then want else approach s.pwr.line (s.lineGoal want) slew;
     s.start.powered = true ∧ s.slewExempt = false ∧ line ≤ s.effectiveCap) ∧
    (let vin : Nat := 5000; let iin : Nat := 7000; let rawMean : Nat := 850; let s : State := powered0;
     s.start.powered = true ∧ 5000 ≤ vin ∧ vin ≤ 8500 ∧ iin ≤ 7000 ∧ 0 < rawMean) ∧
    (let vin : Nat := 4999; let iin : Nat := 7000; let s : State := powered0;
     s.start.powered = true ∧ (vin < 5000 ∨ 8500 < vin ∨ 7000 < iin)) ∧
    (let s : State := { run with pwr := { PwrSt.reset with badCals := 16 } };
     s.start.powered = true ∧ 16 ≤ s.pwr.badCals ∧ s.pwr.capCut = false) ∧
    (let path : Path := .callboard; let s : State := run;
     s.reaches path R.pwrCapW.page) ∧
    (let s : State := { powered0 with time := 900000, acts := [], job := some { job0 with outcomeAt := none, due := [⟨act0.desc, 1⟩] } };
     let d : DueAct := ⟨act0.desc, 1⟩;
     s.dataOn = true ∧ s.nextDue = some d ∧ s.leading = false ∧
     (s.cue.boundaryTime.toNat : Int) + s.untilCue (s.startOf d) - s.rampLead d.desc.phase ≤ s.time.toNat) := by
  unfold State.reaches
  and_intros <;> decide +kernel

theorem witness_ClockFollowsItsLimitsAndAgeingIsReplanned :
    (let s : State := State.with powered0 [(R.pwrAgeCeilMhz, 2000)];
     s.dieOn = true ∧ s.get R.pwrClockMhz ≠ 0 ∧ s.pwr.recovering = false ∧ (lowest s.clockLimits).1 < 2 ^ R.pwrClockMhz.w) ∧
    (let s : State := { powered0 with pwr := { PwrSt.reset with recovering := true, holdLimit := some 1100, holdClock := some 1100 } };
     let m := 1100;
     s.dieOn = true ∧ s.get R.pwrClockMhz ≠ 0 ∧ s.pwr.recovering = true ∧ s.pwr.holdLimit = some m) ∧
    (let s : State := run;
     s.dieOn = true ∧ s.pwr.droop = false) ∧
    (let s : State := { run with pwr := { PwrSt.reset with droop := true } };
     s.dieOn = true ∧ s.pwr.droop = true) ∧
    (let path : Path := .callboard; let s : State := run;
     s.reaches path R.pwrAgeCtrlNow.page) ∧
    (let need : List Nat := [30, 200, 1, 1];
     let s : State := { (run.setWord (R.pwrAgeOffset.at_ 0).addr 0x1407).setWord (R.pwrAgeOffset.at_ 1).addr 0x1407 with pwr := { PwrSt.reset with replanAsk := true, gap := some 1 } };
     let d : Nat := 0;
     s.dieOn = true ∧ s.ageGap = true ∧ (s.pwr.replanAsk = true ∨ 24 ≤ s.ageHours) ∧ d < 4 ∧ d < 2 ∧
     s.get (R.pwrAgeBound.at_ d) < need.getD d 0) ∧
    (let s : State := { run with time := 200000000000000 };
     s.dieOn = true ∧ s.pwr.deferred = false ∧ 48 ≤ s.ageHours) := by
  unfold State.reaches
  and_intros <;> decide +kernel

theorem witness_HeatIsMeasuredAndActedOn :
    (let temps : List Nat := List.replicate 320 400; let s : State := powered0; let x : Nat := 0;
     s.start.powered = true ∧ x < 320 ∧ x ∉ s.pwr.excluded ∧ (∃ x < 320, x ∉ s.pwr.excluded) ∧
     (∀ x < 320, x ∉ s.pwr.excluded → temps.getD x 0 < 840)) ∧
    (let temps : List Nat := List.replicate 320 840;
     let s : State := { powered0 with pwr := { PwrSt.reset with history := [List.replicate 320 700], excluded := [0] } };
     s.start.powered = true ∧ (∃ x < 320, x ∉ s.pwr.excluded) ∧ (∃ x < 320, x ∉ s.pwr.excluded ∧ 840 ≤ temps.getD x 0) ∧
     s.start.trip = false ∧ s.get R.pwrClockMhz ≠ 0 ∧ s.pwr.holdLimit = none ∧
     (∃ x < 320, x ∉ s.pwr.excluded ∧ 48 < temps.getD x 0 - lowestOf s.pwr.history 25 x (temps.getD x 0))) ∧
    (let s : State := { run with pwr := { PwrSt.reset with trips := 3 } };
     s.dieOn = true ∧ 3 ≤ s.pwr.trips) ∧
    (let x : SensorId := 319; let s : State := run;
     s.start.powered = true ∧ x.val ∉ s.pwr.excluded) ∧
    (let s : State := on [(R.pwrTjTemp, 784)];
     s.dieOn = true ∧ 784 ≤ s.get R.pwrTjTemp ∧ s.pwr.throttleOnce = false) ∧
    (let s : State := { on [(R.pwrTjTemp, 768)] with pwr := { PwrSt.reset with throttle := 1000 } };
     s.dieOn = true ∧ s.get R.pwrTjTemp ≤ 768 ∧ s.pwr.throttle < s.opNow) ∧
    (let path : Path := .callboard; let s : State := { run with pwr := { PwrSt.reset with cooling := some 1000 } };
     s.reaches path R.pwrCoolingClear.page) := by
  unfold State.reaches
  and_intros <;> decide +kernel

theorem witness_InletHighIsRaisedOnce :
    (let s : State := { run with pwr := { PwrSt.reset with inletHigh := true } };
     s.pwr.inletHigh = true) := by
  decide +kernel

theorem witness_InletHighIsRaisedOnce_1 :
    (let inlet : Nat := 1000; let s : State := run;
     s.start.powered = true ∧ s.pwr.inletHigh = false ∧ inletLimit < inlet) := by
  and_intros <;> first | exact (by show inletLimit < 1000; unfold inletLimit; split <;> decide) | decide +kernel

theorem witness_InletHighIsRaisedOnce_2 :
    (let s : State := run;
     s.start.powered = true ∧ s.get R.pwrInlet + 10 ≤ inletLimit) := by
  and_intros <;> first | exact (by show run.get R.pwrInlet + 10 ≤ inletLimit; unfold inletLimit; split <;> decide +kernel) | decide +kernel

/-! ## The host -/

def t3r (write : Bool) : T3Req := ⟨5, 2, 3, write, 128, TIER3⟩

/-- Host lines of Tier 2: a range of 1 GiB at its start. -/
def hosted2 : State := on [(R.hostLinkRate, 1), (R.hostLinkCxl, 1), (R.memHdmSize, 1)]

/-- The host holds line 3 and has been asked for it back. -/
def snooping : State := { hosted2 with host := { HostSt.reset with biWait := [3] } }

def line64 : List Byte := List.replicate 64 5

/-- A host-initiated write from another module to this chip, number 0 (R426). -/
def hostFlit : Flit := ⟨mkHdr 6 7 false 0 true 64 (1 * 2 ^ 14) 4096 0, line64⟩

/-- A descriptor: 64 bytes from host address 0x10000 to module offset 4096 (R414). -/
def desc0 : DmaDesc :=
  let w := [0x10000, 0, 4096, 0, 64, 0, 0]
  ⟨(w ++ [crc32c (wordsLe w)]).map (BitVec.ofNat 32)⟩

/-- Channel 0 runs. -/
def dmaOn : State :=
  on [(R.hostLinkRate, 1), (R.hostLinkCxl, 1), (R.hostDmaCtrlSize.at_ 0, 4), (R.hostDmaCtrlEn.at_ 0, 1),
    (R.hostDmaStatusState.at_ 0, 1)]

def dmaRun0 : DmaRun := { dmaRunOf 0 desc0 with started := true }

/-! ## Registers -/

/-- A module that is fourth on its Callboard. -/
def placed : State := on [(R.mgmtCbValid, 1), (R.mgmtCbPosition, 3)]

def toMe (type : Byte) (payload : List Byte) : CbFrame := cbMake 3 false false 0 type 9 payload

theorem witness_CxlLinkAndTier3RequestsEnd :
    (let rate : Nat := 3; let width : Nat := 8; let s : State := on [(R.hostEvqCtrlEn, 1), (R.hostEvqCtrlSize, 6)];
     s.start.powered = true ∧ ¬ (s.get R.mgmtStartState = 0 ∧ s.get R.mgmtStartStep ≤ 1) ∧ s.get R.hostLinkRate = 0 ∧
     1 ≤ rate ∧ rate ≤ 3 ∧ (width = 8 ∨ width = 16) ∧ s.flagReg R.hostEvqCtrlEn = true) ∧
    (let s : State := { hosted with t3 := [t3r true] };
     s.start.powered = true ∧ s.get R.hostLinkRate ≠ 0 ∧ s.mem.waiting = [] ∧ s.groups = [] ∧
     (∀ a ∈ s.acts, a.intermission = false) ∧ s.t3.any (·.write) = true) ∧
    (let id : Nat := 5; let data : List Byte := line64; let poisoned : List Nat := [];
     let s : State := { hosted with t3 := [t3r false] }; let r : T3Req := t3r false;
     (s.t3.find? (fun x => decide (x.id = id)) = some r) ∧ (∀ v ∈ s.serves, v.id ≠ r.op) ∧ data.length = 64 ∧
     r.write = false ∧ poisoned = []) ∧
    (let id : Nat := 5; let data : List Byte := line64; let poisoned : List Nat := [0];
     let s : State := { hosted with t3 := [t3r false] }; let r : T3Req := t3r false;
     (s.t3.find? (fun x => decide (x.id = id)) = some r) ∧ (∀ v ∈ s.serves, v.id ≠ r.op) ∧ data.length = 64 ∧
     r.write = false ∧ poisoned ≠ [] ∧ (∀ a ∈ s.acts, a.intermission = false)) ∧
    (let id : Nat := 5; let data : List Byte := line64; let s : State := { hosted with t3 := [t3r true] };
     let r : T3Req := t3r true;
     (s.t3.find? (fun x => decide (x.id = id)) = some r) ∧ (∀ v ∈ s.serves, v.id ≠ r.op) ∧ data.length = 64 ∧ r.write = true) ∧
    (let id : Nat := 5; let s : State := { hosted with t3 := [t3r true] }; let r : T3Req := t3r true;
     (s.t3.find? (fun x => decide (x.id = id)) = some r) ∧ (∀ v ∈ s.serves, v.id ≠ r.op) ∧
     (∀ a ∈ s.acts, a.intermission = false)) := by
  and_intros <;> decide +kernel

theorem witness_HostAccessesAreServed :
    (let a : CxlMemAccess := ⟨2 ^ 30, none, false, false, []⟩; let s : State := hosted2;
     Canonical s ∧ s.dataOn = true ∧ s.get R.hostLinkRate ≠ 0 ∧ s.flagReg R.hostLinkCxl = true ∧ MemoryAtRest s ∧
     s.hdmSize * 2 ^ 30 ≤ a.addr) ∧
    (let a : CxlMemAccess := ⟨2 ^ 30 - 64, some line64, true, true, []⟩; let s : State := hosted2;
     let off := TIER2 + s.get R.memHdmBase * 2 ^ 30 + 64 * (a.addr / 64); let d := line64; let x := TIER2 + 2 ^ 30;
     Canonical s ∧ s.dataOn = true ∧ s.get R.hostLinkRate ≠ 0 ∧ s.flagReg R.hostLinkCxl = true ∧ MemoryAtRest s ∧
     a.addr < s.hdmSize * 2 ^ 30 ∧ s.checkAccess off 64 = none ∧ s.stackDown (s.interleave off).1 = false ∧
     a.write = some d ∧ d.length = 64 ∧ (x < off ∨ off + 64 ≤ x) ∧ a.cache = true) ∧
    (let a : CxlMemAccess := ⟨64, none, false, true, []⟩;
     let s : State := { hosted2 with mem := { MemSt.reset with bytes := [(TIER2 + 64, 9)] } };
     let off := TIER2 + s.get R.memHdmBase * 2 ^ 30 + 64 * (a.addr / 64);
     Canonical s ∧ s.dataOn = true ∧ s.get R.hostLinkRate ≠ 0 ∧ s.flagReg R.hostLinkCxl = true ∧ MemoryAtRest s ∧
     a.addr < s.hdmSize * 2 ^ 30 ∧ s.checkAccess off 64 = none ∧ s.stackDown (s.interleave off).1 = false ∧ a.write = none ∧
     a.ecc = [] ∧ off / 64 ∉ s.mem.poison ∧ AMap.get s.mem.errs (off / 64) 0 = 0 ∧ a.cache = true) ∧
    (let line : Nat := 3; let dirty : Option (List Byte) := none; let s : State := snooping;
     Canonical s ∧ line ∈ s.host.biWait ∧ s.mem.ranges = [] ∧ s.mem.regions = [] ∧ s.mem.waiting = [] ∧ s.groups = [] ∧
     s.streaming = false ∧ dirty = none) ∧
    (let line : Nat := 3; let dirty : Option (List Byte) := some line64; let s : State := snooping; let d := line64;
     Canonical s ∧ line ∈ s.host.biWait ∧ s.mem.ranges = [] ∧ s.mem.regions = [] ∧ s.mem.waiting = [] ∧ s.groups = [] ∧
     s.streaming = false ∧ dirty = some d ∧ d.length = 64 ∧ s.stackDown (s.interleave (s.lineOff line)).1 = false) ∧
    (let line : Nat := 3; let s : State := snooping;
     line ∈ s.host.biWait ∧ s.mem.waiting = [] ∧ s.groups = [] ∧ s.streaming = false) ∧
    (let s : State := hosted;
     s.dataOn = true ∧ s.get R.hostLinkRate ≠ 0) ∧
    (let p : PortId := port0; let f : Flit := hostFlit; let s : State := on [(R.portStateState 0, 2), (R.mgmtChipValid, 1)];
     Canonical s ∧ s.dataOn = true ∧ cwCrcOk f.hdr = true ∧ s.portLive p = true ∧ flitKind f = 7 ∧
     s.chip = some (flitDest f) ∧ (s.port p).marked = [] ∧ flitLen f = 64 ∧ f.payload.length = 64 ∧ flitPoison f = false ∧
     s.checkAccess (flitOffset f) 64 = none ∧ tierOf (flitOffset f) = 1 ∧ MemoryAtRest s) := by
  unfold MemoryAtRest NothingWaits Canonical
  and_intros <;> decide +kernel

theorem witness_DmaChannelsRunTheirDescriptors :
    (let ch : DmaId := 0; let s : State := dmaOn; let tail : Nat := 1; let d : DmaDesc := desc0;
     let head := s.get (R.hostDmaHead.at_ ch) % 2 ^ s.get (R.hostDmaCtrlSize.at_ ch); let v : Word := 4;
     s.host.dma.length = 4 ∧ s.reaches .host 0 ∧ s.get (R.hostDmaStatusState.at_ ch) = 1 ∧ s.host.dma.getD ch [] = [] ∧
     head ≠ tail % 2 ^ 16 % 2 ^ s.get (R.hostDmaCtrlSize.at_ ch) ∧ (dmaRunOf head d).remote = none ∧
     s.dmaCause d (dmaRunOf head d) = none ∧ (dmaRunOf head d).toHost = false ∧ fieldsOk (R.hostDmaCtrlEn.at_ ch).addr v ∧
     bitAt v.toNat 9 = false ∧ s.get (R.hostDmaStatusState.at_ ch) ≠ 2 ∧ bitAt v.toNat 8 = false) ∧
    (let ch : DmaId := 0; let s : State := dmaOn; let tail : Nat := 1;
     let d : DmaDesc := { desc0 with words := desc0.words.set 4 63 };
     let head := s.get (R.hostDmaHead.at_ ch) % 2 ^ s.get (R.hostDmaCtrlSize.at_ ch); let c := 1; let v : Word := 0x104;
     s.host.dma.length = 4 ∧ s.reaches .host 0 ∧ s.get (R.hostDmaStatusState.at_ ch) = 1 ∧ s.host.dma.getD ch [] = [] ∧
     head ≠ tail % 2 ^ 16 % 2 ^ s.get (R.hostDmaCtrlSize.at_ ch) ∧ (dmaRunOf head d).remote = none ∧
     s.dmaCause d (dmaRunOf head d) = some c ∧ fieldsOk (R.hostDmaCtrlEn.at_ ch).addr v ∧ bitAt v.toNat 9 = false ∧
     s.get (R.hostDmaStatusState.at_ ch) ≠ 2) ∧
    (let ch : DmaId := 0; let s : State := { dmaOn with host := { HostSt.reset with dma := [[dmaRun0], [], [], []] } };
     let v : Word := 4; let r : DmaRun := dmaRun0; let data : DmaData := ⟨line64, [], []⟩;
     s.host.dma.length = 4 ∧ s.reaches .host 0 ∧ fieldsOk (R.hostDmaCtrlEn.at_ ch).addr v ∧ bitAt v.toNat 9 = false ∧
     s.get (R.hostDmaStatusState.at_ ch) ≠ 2 ∧ bitAt v.toNat 8 = false ∧ s.host.dma.getD ch [] = [r] ∧ s.dataOn = true ∧
     r.started = true ∧ Canonical s ∧ MemoryAtRest s ∧ r.toHost = false ∧ r.remote = none ∧ r.len = 64 ∧
     data.bytes.length = 64 ∧ data.poison = [] ∧ r.modOff % 64 = 0 ∧ tierOf r.modOff = 1) := by
  unfold State.reaches MemoryAtRest NothingWaits Canonical fieldsOk
  and_intros <;> decide +kernel

theorem witness_ProgramsLoadAndUnload :
    (let path : Path := .host; let s : State := hosted;
     s.reaches path 0 ∧ s.host.loading = none ∧ (s.get R.hostLinkRate = 0 ∨ s.flagReg R.hostLinkCxl = true)) ∧
    (let path : Path := .host; let s : State := on [(R.hostLinkRate, 1)];
     s.reaches path 0 ∧ s.host.loading = none ∧ s.get R.hostLinkRate ≠ 0 ∧ s.flagReg R.hostLinkCxl = false) ∧
    (let s : State := { run with host := { HostSt.reset with loading := some 4096 } }; let off : Nat := 4096;
     s.dataOn = true ∧ s.host.loading = some off ∧ (s.fetchImage off).2 = true) ∧
    (let path : Path := .host; let prog : Byte := 1; let s : State := { hosted with progs := [prog0] };
     s.reaches path 0 ∧ s.unloadStatus prog.toNat = 0) ∧
    (let path : Path := .host; let prog : Byte := 1; let s : State := { hosted with progs := [prog0], acts := [act0] };
     s.reaches path 0 ∧ s.unloadStatus prog.toNat ≠ 0) := by
  unfold State.reaches
  and_intros <;> decide +kernel

theorem witness_RegistersAreReadAndWritten :
    (let path : Path := .callboard; let s : State := { run with time := 0x123456789ABCDEF0 };
     s.reaches path R.cueTimeLo.page ∧ NothingUnrecorded s) ∧
    (let path : Path := .callboard; let off : Nat := 0x14; let v : DWord := 0xFFFFFFFF00000001; let s : State := run;
     let w : Word := v.setWidth 32;
     s.reaches path (off / 0x1000) ∧ off % 4 = 0 ∧ s.plainWord off = true ∧ (∃ r ∈ rowsAt off, r.acc = .rw) ∧
     (∀ r ∈ rowsAt off, r.acc = .rw ∨ r.acc = .ro) ∧ fieldsOk off w) ∧
    (let path : Path := .callboard; let off : Nat := 0x601C; let v : DWord := 0xFFFFFFFF00000000; let s : State := run;
     let w : Word := v.setWidth 32;
     s.reaches path (off / 0x1000) ∧ off % 4 = 0 ∧ s.plainWord off = true ∧ (∃ r ∈ rowsAt off, r.acc = .rw) ∧
     (∀ r ∈ rowsAt off, r.acc = .rw ∨ r.acc = .ro) ∧
     (∃ r ∈ rowsAt off, r.acc = .rw ∧ fieldOk r.fld (bitsOf w.toNat r.fld.lo r.fld.w) = false)) ∧
    (let path : Path := .callboard; let off : Nat := 0x6010; let s : State := run.setWord 0x6010 0xC;
     s.reaches path (off / 0x1000) ∧ off % 4 = 0 ∧ s.plainWord off = true ∧ off % 0x1000 = 0x10) ∧
    (let path : Path := .callboard; let off : Nat := 0x601C; let v : DWord := 0xFFFFFFFF00002710; let s : State := run;
     let w : Word := v.setWidth 32;
     s.reaches path (off / 0x1000) ∧ off % 4 = 0 ∧ s.plainWord off = true ∧ (∃ r ∈ rowsAt off, r.acc = .rw) ∧
     (∀ r ∈ rowsAt off, r.acc = .rw ∨ r.acc = .ro) ∧ fieldsOk off w) ∧
    (let path : Path := .callboard; let off : Nat := R.memIlKey1Lo.addr; let s : State := on [(R.memIlStatusLocked1, 1)];
     s.reaches path (off / 0x1000) ∧ s.heldWord off = true) ∧
    (let path : Path := .callboard; let off : Nat := 0x49; let size : Nat := 4; let s : State := run;
     s.pathOpen path = true ∧ (off % 4 ≠ 0 ∨ (size ≠ 4 ∧ size ≠ 8))) ∧
    (let path : Path := .callboard; let off : Nat := 0x48; let size : Nat := 2; let s : State := run;
     s.pathOpen path = true ∧ (off % 4 ≠ 0 ∨ (size ≠ 4 ∧ size ≠ 8))) ∧
    (let path : Path := .callboard; let off : Nat := 0x2048; let s : State := placed;
     let f : CbFrame := toMe 0x10 (natLe 4 0x2048 ++ [1]);
     s.reaches path (off / 0x1000) ∧ path = .callboard ∧ s.takes f 0x10 ∧ f.payload.length = 5 ∧ byteOf f.payload 4 = 1 ∧
     u32Of f.payload 0 = off ∧ off % 4 = 0) ∧
    (let path : Path := .callboard; let s : State := run;
     s.reaches path 1 ∧ s.loaded = false) ∧
    (let path : Path := .callboard; let s : State := { run with progs := [prog0] };
     s.reaches path 1 ∧ s.loaded = true) := by
  unfold State.reaches State.takes NothingUnrecorded fieldsOk
  and_intros <;> decide +kernel

theorem witness_ControlsActAtOnce :
    (let path : Path := .callboard; let s : State := run; let v : Word := 1;
     s.reaches path 3 ∧ fieldsOk R.cmdTraceCtrlEn.addr v ∧ s.traced = [] ∧ s.flagReg R.cmdTraceCtrlEn = false ∧
     bitAt v.toNat 0 = true) ∧
    (let path : Path := .callboard; let s : State := on [(R.cmdTraceCtrlEn, 1)]; let v : Word := 0;
     s.reaches path 3 ∧ fieldsOk R.cmdTraceCtrlEn.addr v ∧ s.traced = [] ∧
     (s.flagReg R.cmdTraceCtrlEn = true ∨ bitAt v.toNat 0 = false)) ∧
    (let path : Path := .callboard; let s : State := run; let v : Word := 0x104; let a := 0x6218;
     s.reaches path 6 ∧ fieldsOk R.collSlackCtrlEn.addr v ∧ s.flagReg R.collSlackCtrlEn = false ∧ bitAt v.toNat 8 = true ∧
     a ∉ recordWords) ∧
    (let path : Path := .callboard; let s : State := on [(R.collSlackCtrlEn, 1), (R.collSlackSize, 9)];
     let v : Word := 0x104; let a := 0x6218;
     s.reaches path 6 ∧ fieldsOk R.collSlackCtrlEn.addr v ∧ s.flagReg R.collSlackCtrlEn = true ∧ a ∉ recordWords) ∧
    (let path : Path := .callboard; let cell : CellId := 127; let s : State := on [(R.cellStoreRange 127, 9)];
     let a := 0x17F050;
     s.reaches path (pgCELL cell) ∧ a ∉ recordWords) ∧
    (let path : Path := .callboard; let s : State := { run with faults := [(0, default)] };
     s.reaches path 1 ∧ NothingUnrecorded s) := by
  unfold State.reaches NothingUnrecorded fieldsOk
  and_intros <;> decide +kernel

/-! ## Events, the Callboard, mailboxes, firmware -/

def enumFrame (n : Byte) : CbFrame := cbMake 0 true false 0 0x01 9 [n]

/-- The bytes of a request in mailbox 0 (R428). -/
def asking (s : State) (b : List Byte) : State :=
  ((List.range (ceilDiv b.length 4)).foldl (fun (t : State) i => t.set ((R.mboxReq 0).at_ i) (u32Of b (4 * i))) s).set
    (R.mboxReqLen 0) b.length

def busyBox (s : State) (m : Nat) (x : MboxSt) : State :=
  { s.set (R.mboxMstateState m) 1 with mbox := [(m, x)] }

def box0 : MboxSt := ⟨1, [], 0, [1, 2, 3, 4, 5], 0, 0, none, none, none⟩

/-- An image of type 2 is being staged. -/
def staging0 : MboxSt := { box0 with stage := some (2, 4096, 0x200) }

/-- Running images with SVN 7 and keys 0 to 3. -/
def firmware : FwSt :=
  { FwSt.factory with
    slotA := [none, none, none, none], slotB := [none, none, none, none], burnedSvn := [0, 0, 0, 0], burnedKeys := 0,
    running := (List.range 4).map fun k => [0, 0, 0, 0, BitVec.ofNat 8 (k + 1), BitVec.ofNat 8 k, 0, 0, 0, 0, 0, 0, 7] }

def keeper : State := { run with fw := firmware }

def inStep (n : Nat) : State := State.with State.reset [(R.mgmtStartStep, n)]

def report0 : StepReport := ⟨true, BitVec.allOnes 16, List.replicate 32 1, List.replicate 32 [700], [0, 0, 0, 0], 2100⟩

theorem witness_HostRingIsFilledAndSignalled :
    (let path : Path := .callboard; let page : Nat := 6; let bits : Word := 0x40; let s : State := run;
     let k : PageKind := .coll; let code : Nat := 0x0506;
     s.reaches path page ∧ pageKind page = some k ∧ code ∈ pageCodes k ∧ bitAt bits.toNat (code % 32) = true) ∧
    (let path : Path := .callboard; let s : State := run;
     s.reaches path 0) ∧
    (let path : Path := .host; let s : State := State.with hosted [(R.hostEvqCtrlEn, 1), (R.hostEvqCtrlSize, 6)];
     s.reaches path 0 ∧ s.ringOpen = true) ∧
    (let path : Path := .callboard; let s : State := on [(R.hostEvqCtrlEn, 1), (R.hostEvqCtrlSize, 6)];
     s.reaches path 0 ∧ s.flagReg R.hostEvqCtrlEn = true) ∧
    (let path : Path := .host; let v : Word := 0x106; let s : State := hosted;
     s.reaches path 0 ∧ s.flagReg R.hostEvqCtrlEn = false ∧ fieldsOk R.hostEvqCtrlEn.addr v ∧ bitAt v.toNat 8 = true ∧
     s.get R.hostLinkRate ≠ 0) ∧
    (let vec : Fin 16 := 5; let s : State := { hosted with host := { HostSt.reset with holdoff := [5] } };
     s.start.powered = true ∧ NothingUnrecorded s ∧ vec.val ∈ s.host.holdoff ∧ vec.val ∉ s.host.owed) ∧
    (let vec : Fin 16 := 5;
     let s : State := { State.with hosted [(R.hostIrqHoldoffUs, 9)] with host := { HostSt.reset with holdoff := [5], owed := [5] } };
     s.start.powered = true ∧ NothingUnrecorded s ∧ vec.val ∈ s.host.holdoff ∧ vec.val ∈ s.host.owed ∧
     s.get R.hostLinkRate ≠ 0 ∧ s.get R.hostIrqHoldoffUs ≠ 0) := by
  unfold State.reaches NothingUnrecorded fieldsOk
  and_intros <;> decide +kernel

theorem witness_CallboardFramesAreActedOn :
    (let f : CbFrame := enumFrame 3; let n : Byte := 3; let s : State := run;
     s.start.powered = true ∧ NothingUnrecorded s ∧ f.type = 0x01 ∧ f.up = false ∧ cbHcrcOk f = true ∧ cbCrcOk f = true ∧
     f.payload = [n] ∧ n.toNat ≤ 63 ∧ s.flagReg R.mgmtCbTail = false) ∧
    (let f : CbFrame := enumFrame 63; let n : Byte := 63; let s : State := on [(R.mgmtCbTail, 1)];
     s.start.powered = true ∧ NothingUnrecorded s ∧ f.type = 0x01 ∧ f.up = false ∧ cbHcrcOk f = true ∧ cbCrcOk f = true ∧
     f.payload = [n] ∧ n.toNat ≤ 63 ∧ s.flagReg R.mgmtCbTail = true) ∧
    (let f : CbFrame := enumFrame 64; let n : Byte := 64; let s : State := placed;
     s.start.powered = true ∧ NothingUnrecorded s ∧ f.type = 0x01 ∧ f.up = false ∧ cbHcrcOk f = true ∧ cbCrcOk f = true ∧
     f.payload = [n] ∧ 63 < n.toNat) ∧
    (let f : CbFrame := cbMake 0 false true 5 0x02 9 [5, 0]; let s : State := placed;
     s.start.powered = true ∧ f.type = 0x02 ∧ f.up = true ∧ cbHcrcOk f = true ∧ cbCrcOk f = true ∧ f.payload.length = 2) ∧
    (let s : State := run;
     s.start.powered = true) ∧
    (let f : CbFrame := cbMake 4 false false 0 0x30 9 [2]; let s : State := placed;
     s.start.powered = true ∧ cbHcrcOk f = true ∧ s.cbMine f = false ∧ f.type ≠ 0x01) ∧
    (let f : CbFrame := cbMake 0 false true 4 0x21 9 [2]; let s : State := placed;
     s.start.powered = true ∧ cbHcrcOk f = true ∧ s.cbMine f = false ∧ f.type ≠ 0x01) ∧
    (let f : CbFrame := { toMe 0x77 [1] with crc := 0 }; let s : State := placed;
     s.start.powered = true ∧ cbHcrcOk f = true ∧ s.cbMine f = true ∧ f.type ≠ 0x01 ∧ requestType f.type = false ∧
     cbCrcOk f = false) ∧
    (let s : State := State.with placed [(R.mgmtCbTelemMs, 100)];
     s.start.powered = true ∧ NothingUnrecorded s ∧ s.cbValid = true ∧ s.get R.mgmtCbTelemMs ≠ 0) ∧
    (let f : CbFrame := toMe 0x10 (natLe 4 0x2044 ++ [1]); let s : State := placed; let off := u32Of f.payload 0;
     s.takes f 0x10 ∧ NothingUnrecorded s ∧ f.payload.length = 5 ∧ byteOf f.payload 4 = 1 ∧ off % 4 = 0 ∧
     off ≠ R.cueTimeLo.addr ∧ s.pageOpen (off / 0x1000) = true) ∧
    (let f : CbFrame := toMe 0x12 (natLe 4 0x6014 ++ natLe 4 5); let s : State := placed; let off := u32Of f.payload 0;
     let w := BitVec.ofNat 32 (u32Of f.payload 4);
     s.takes f 0x12 ∧ NothingUnrecorded s ∧ f.payload.length = 8 ∧ off % 4 = 0 ∧ s.plainWord off = true ∧
     s.pageOpen (off / 0x1000) = true ∧ (∃ r ∈ rowsAt off, r.acc = .rw) ∧ (∀ r ∈ rowsAt off, r.acc = .rw ∨ r.acc = .ro) ∧
     fieldsOk off w) ∧
    (let p : PortId := port0; let dest : Nat := 5;
     let s : State := State.with linked [(R.mgmtChipValid, 1), (R.mgmtChipNumber, 1)];
     s.dataOn = true ∧ s.portLive p = true ∧ (s.port p).marked = [] ∧ s.chip ≠ some dest) ∧
    (let p : PortId := port0; let dest : Nat := 1; let src : Nat := 6; let f : CbFrame := toMe 0x11 [0];
     let s : State := busyBox (State.with linked [(R.mgmtChipValid, 1), (R.mgmtChipNumber, 1)]) 0 { box0 with awaits := some 6 };
     let x := { box0 with awaits := some 6 };
     s.dataOn = true ∧ s.portLive p = true ∧ (s.port p).marked = [] ∧ s.chip = some dest ∧ cbHcrcOk f = true ∧
     cbCrcOk f = true ∧ f.type = 0x11 ∧ AMap.find s.mbox 0 = some x ∧ x.awaits = some src) := by
  unfold State.takes NothingUnrecorded fieldsOk
  and_intros <;> decide +kernel

theorem witness_MailboxesServeRequests :
    (let path : Path := .callboard; let m : MboxId := 0; let s : State := run;
     s.reaches path (pgMBOX m) ∧ s.get (R.mboxMstateState m) = 0 ∧ s.get (R.mboxReqLen m) = 0 ∧ m.val = 0) ∧
    (let path : Path := .host; let m : MboxId := 2; let s : State := hosted;
     s.reaches path (pgMBOX m) ∧ s.get (R.mboxMstateState m) = 0 ∧ s.get (R.mboxReqLen m) = 0 ∧ m.val ≠ 0) ∧
    (let path : Path := .callboard; let m : MboxId := 0; let s : State := asking run (List.replicate 32 6);
     s.reaches path (pgMBOX m) ∧ s.get (R.mboxMstateState m) = 0 ∧ m.val = 0 ∧ s.get (R.mboxReqLen m) = 32) ∧
    (let path : Path := .callboard; let m : MboxId := 0; let s : State := asking run (List.replicate 31 6);
     s.reaches path (pgMBOX m) ∧ s.get (R.mboxMstateState m) = 0 ∧ m.val = 0 ∧ s.get (R.mboxReqLen m) = 31) ∧
    (let path : Path := .callboard; let m : MboxId := 0;
     let s : State := asking routed (natLe 2 1 ++ cbBytes (toMe 0x11 [0])); let f := toMe 0x11 [0];
     let c := u16Of (s.mboxRequest 0) 0; let p := port0;
     s.reaches path (pgMBOX m) ∧ s.get (R.mboxMstateState m) = 0 ∧ m.val = 0 ∧
     cbOfBytes ((s.mboxRequest 0).drop 2) = some f ∧ s.chip ≠ some c ∧ s.route c 0 = some p) ∧
    (let path : Path := .callboard; let m : MboxId := 0;
     let s : State := asking (State.with linked [(R.mgmtChipValid, 1), (R.mgmtChipNumber, 1)]) (natLe 2 1 ++ cbBytes (toMe 0x11 [0]));
     let f := toMe 0x11 [0]; let c := u16Of (s.mboxRequest 0) 0;
     s.reaches path (pgMBOX m) ∧ s.get (R.mboxMstateState m) = 0 ∧ m.val = 0 ∧
     cbOfBytes ((s.mboxRequest 0).drop 2) = some f ∧ s.chip = some c) ∧
    (let path : Path := .callboard; let m : MboxId := 0; let s : State := busyBox run 0 box0;
     s.reaches path (pgMBOX m) ∧ s.get (R.mboxMstateState m) ≠ 0) ∧
    (let f : CbFrame := toMe 0x40 [0, 0, 1, 9]; let m : MboxId := 0; let s : State := placed;
     s.takes f 0x40 ∧ f.payload.length = 4 ∧ u16Of f.payload 0 = m ∧ byteOf f.payload 2 = 1 ∧ s.pageOpen (pgMBOX m) = true ∧
     s.get (R.mboxMstateState m) = 0) ∧
    (let m : MboxId := 0; let s : State := busyBox hosted 0 box0; let x : MboxSt := box0;
     s.start.powered = true ∧ AMap.sorted s.mbox = true ∧ AMap.find s.mbox m = some x ∧ x.awaits = none ∧ x.stage = none ∧
     x.resp.length ≤ 768 ∧ s.get (R.mboxMstateOwner m) = 0 ∧ s.get R.hostLinkRate ≠ 0 ∧ 0 ∉ s.host.holdoff) ∧
    (let m : MboxId := 1;
     let s : State := busyBox (State.with run [(R.mboxMstateOwner 1, 1)]) 1 { box0 with awaits := some 6, resp := List.replicate 768 3 };
     let x : MboxSt := { box0 with awaits := some 6, resp := List.replicate 768 3 };
     s.start.powered = true ∧ AMap.sorted s.mbox = true ∧ AMap.find s.mbox m = some x) ∧
    (let m : MboxId := 1;
     let s : State := busyBox (State.with run [(R.mboxMstateOwner 1, 1)]) 1 { box0 with resp := List.replicate 768 3 };
     let x : MboxSt := { box0 with resp := List.replicate 768 3 };
     s.start.powered = true ∧ AMap.sorted s.mbox = true ∧ AMap.find s.mbox m = some x ∧ x.awaits = none ∧ x.stage = none ∧
     x.resp.length ≤ 768) ∧
    (let path : Path := .callboard; let m : MboxId := 0;
     let s : State := on [(R.mboxMstateState 0, 2), (R.mboxMstateOwner 0, 1)];
     s.reaches path (pgMBOX m) ∧ s.get (R.mboxMstateOwner m) = pathBit path ∧ 2 ≤ s.get (R.mboxMstateState m)) ∧
    (let path : Path := .callboard; let m : MboxId := 0; let s : State := busyBox (on [(R.mboxMstateOwner 0, 1)]) 0 box0;
     s.reaches path (pgMBOX m) ∧ s.get (R.mboxMstateOwner m) = pathBit path ∧ s.get (R.mboxMstateState m) = 1 ∧
     AMap.sorted s.mbox = true) ∧
    (let path : Path := .callboard; let m : MboxId := 0; let s : State := busyBox run 0 box0;
     s.reaches path (pgMBOX m) ∧ s.get (R.mboxMstateOwner m) ≠ pathBit path) := by
  unfold State.reaches State.takes
  and_intros <;> decide +kernel

theorem witness_FirmwareIsStagedSelectedAndBurned :
    (let path : Path := .callboard; let s : State := asking keeper ([2] ++ natLe 8 4096 ++ natLe 4 0x200);
     let ty : Nat := 2; let req := s.mboxRequest 0;
     s.reaches path 0x400 ∧ s.get (R.mboxMstateState 0) = 0 ∧ 1 ≤ ty ∧ ty ≤ 4 ∧ s.fw.slotA.length = 4 ∧
     s.fw.slotB.length = 4 ∧ s.fw.burnedSvn.length = 4 ∧ req.length = 13 ∧ byteOf req 0 = ty ∧ 0x80 ≤ u32Of req 9 ∧
     inTiers12 (u64Of req 1) (u32Of req 9) = true ∧ s.fw.stage = []) ∧
    (let path : Path := .callboard; let s : State := asking keeper [2, 1]; let ty : Nat := 2; let req := s.mboxRequest 0;
     let b : Bool := true; let k : Nat := 0;
     s.reaches path 0x400 ∧ s.get (R.mboxMstateState 0) = 0 ∧ 1 ≤ ty ∧ ty ≤ 4 ∧ s.fw.slotA.length = 4 ∧
     s.fw.slotB.length = 4 ∧ s.fw.burnedSvn.length = 4 ∧ req = [BitVec.ofNat 8 ty, BitVec.ofNat 8 (boolNat b)] ∧ k < 4 ∧
     k ≠ ty - 1) ∧
    (let path : Path := .callboard; let s : State := asking keeper [2]; let ty : Nat := 2; let req := s.mboxRequest 0;
     let u := 3;
     s.reaches path 0x400 ∧ s.get (R.mboxMstateState 0) = 0 ∧ 1 ≤ ty ∧ ty ≤ 4 ∧ s.fw.slotA.length = 4 ∧
     s.fw.slotB.length = 4 ∧ s.fw.burnedSvn.length = 4 ∧ req = [BitVec.ofNat 8 ty] ∧ 1 ≤ u ∧ u ≠ ty) ∧
    (let path : Path := .callboard; let s : State := asking keeper [0]; let ty : Nat := 2; let req := s.mboxRequest 0;
     let k : Nat := 0;
     s.reaches path 0x400 ∧ s.get (R.mboxMstateState 0) = 0 ∧ 1 ≤ ty ∧ ty ≤ 4 ∧ s.fw.slotA.length = 4 ∧
     s.fw.slotB.length = 4 ∧ s.fw.burnedSvn.length = 4 ∧ k < 4 ∧ req = [BitVec.ofNat 8 k] ∧
     (∃ img, s.fw.running[0]? = some img ∧ byteOf img 5 = k)) ∧
    (let path : Path := .callboard; let s : State := asking keeper [1]; let ty : Nat := 1; let req := s.mboxRequest 0;
     let u := 2; let k : Nat := 1;
     s.reaches path 0x400 ∧ s.get (R.mboxMstateState 0) = 0 ∧ 1 ≤ ty ∧ ty ≤ 4 ∧ s.fw.slotA.length = 4 ∧
     s.fw.slotB.length = 4 ∧ s.fw.burnedSvn.length = 4 ∧ req = [BitVec.ofNat 8 ty] ∧ 1 ≤ u ∧ u ≠ ty ∧ k < 4 ∧
     req = [BitVec.ofNat 8 k] ∧ (∀ img, s.fw.running[0]? = some img → byteOf img 5 ≠ k)) ∧
    (let path : Path := .callboard;
     let s : State := asking { keeper with fw := { firmware with stage := [1] } } ([2] ++ natLe 8 4096 ++ natLe 4 0x200);
     let ty : Nat := 2; let req := s.mboxRequest 0;
     s.reaches path 0x400 ∧ s.get (R.mboxMstateState 0) = 0 ∧ 1 ≤ ty ∧ ty ≤ 4 ∧ s.fw.slotA.length = 4 ∧
     s.fw.slotB.length = 4 ∧ s.fw.burnedSvn.length = 4 ∧ req.length = 13 ∧ byteOf req 0 = ty ∧ 0x80 ≤ u32Of req 9 ∧
     inTiers12 (u64Of req 1) (u32Of req 9) = true ∧ s.fw.stage ≠ []) ∧
    (let s : State := busyBox keeper 0 staging0; let x : MboxSt := staging0; let ty : Nat := 2; let off : Nat := 4096;
     let len : Nat := 0x200;
     s.start.powered = true ∧ AMap.sorted s.mbox = true ∧ AMap.find s.mbox 0 = some x ∧ x.stage = some (ty, off, len) ∧
     1 ≤ ty ∧ ty ≤ 4 ∧ s.fw.slotA.length = 4 ∧ s.fw.slotB.length = 4 ∧ MemoryAtRest s ∧ MemoryClean s ∧ x.resp.length ≤ 768) ∧
    (let s : State := { busyBox keeper 0 staging0 with mem := { MemSt.reset with settle := [1] } };
     let x : MboxSt := staging0; let ty : Nat := 2; let off : Nat := 4096; let len : Nat := 0x200;
     s.start.powered = true ∧ AMap.sorted s.mbox = true ∧ AMap.find s.mbox 0 = some x ∧ x.stage = some (ty, off, len) ∧
     1 ≤ ty ∧ ty ≤ 4 ∧ s.fw.slotA.length = 4 ∧ s.fw.slotB.length = 4 ∧ s.mustWait false off len = true) ∧
    (let f : CbFrame := toMe 0x50 [1, 2, 3];
     let s : State := State.with placed [(R.mgmtStartState, 3), (R.mgmtFwRecovery, 1)];
     s.takes f 0x50 ∧ NothingUnrecorded s ∧ s.get R.mgmtStartState = 3 ∧ f.payload.length < 5) ∧
    (let f : CbFrame := toMe 0x50 (natLe 4 0 ++ [1, 2, 3]);
     let s : State := State.with placed [(R.mgmtStartState, 3), (R.mgmtFwRecovery, 1)];
     let b := fitBytes (u32Of f.payload 0) s.fw.stage ++ f.payload.drop 4;
     s.takes f 0x50 ∧ NothingUnrecorded s ∧ s.get R.mgmtStartState = 3 ∧ 5 ≤ f.payload.length ∧ imageWhole b = false) := by
  unfold State.reaches State.takes MemoryAtRest NothingWaits MemoryClean NothingUnrecorded
  and_intros <;> decide +kernel

theorem witness_StartUpRunsItsSteps :
    (let s : State := { State.reset with start := { State.reset.start with powered := false } };
     s.start.powered = false) ∧
    (let s : State := { State.reset with start := { State.reset.start with powered := false, switch := false, pres := false } };
     s.start.powered = false ∧ s.start.switch = false) ∧
    (let s : State := inStep 0;
     s.start.powered = true ∧ s.start.trip = false ∧ s.get R.mgmtStartState = 0 ∧ s.get R.mgmtStartStep = 0) ∧
    (let s : State := inStep 1;
     s.start.powered = true ∧ s.start.trip = false ∧ s.get R.mgmtStartState = 0 ∧ s.get R.mgmtStartStep = 1) ∧
    (let s : State := { inStep 2 with fw := firmware };
     s.start.powered = true ∧ s.start.trip = false ∧ s.get R.mgmtStartState = 0 ∧ s.get R.mgmtStartStep = 2) ∧
    (let r : StepReport := report0; let s : State := inStep 4; let a : Nat := 5;
     s.start.powered = true ∧ s.start.trip = false ∧ s.get R.mgmtStartState = 0 ∧ s.get R.mgmtStartStep = 4 ∧
     r.nearOk = true ∧ a < TIER3) ∧
    (let r : StepReport := { report0 with nearOk := false }; let s : State := inStep 4;
     s.start.powered = true ∧ s.start.trip = false ∧ s.get R.mgmtStartState = 0 ∧ s.get R.mgmtStartStep = 4 ∧
     r.nearOk = false) ∧
    (let r : StepReport := report0; let s : State := inStep 5; let p : Nat := 0; let l : Nat := 0;
     s.start.powered = true ∧ s.start.trip = false ∧ s.get R.mgmtStartState = 0 ∧ s.get R.mgmtStartStep = 5 ∧ p < 32 ∧
     r.cages.getD p 0 % 4 = 1 ∧ l < 9) ∧
    (let s : State := State.with (inStep 8) [(R.mgmtChipValid, 1)];
     s.start.powered = true ∧ s.start.trip = false ∧ s.get R.mgmtStartState = 0 ∧ s.get R.mgmtStartStep = 8 ∧
     s.flagReg R.mgmtChipValid = true) ∧
    (let s : State := inStep 2;
     s.start.powered = true ∧ s.start.trip = false ∧ s.get R.mgmtStartState = 0 ∧ s.get R.mgmtStartStep = 2) ∧
    (let s : State := inStep 7;
     s.start.powered = true ∧ s.start.trip = false ∧ s.get R.mgmtStartState = 0 ∧ s.get R.mgmtStartStep = 7) ∧
    (let s : State := inStep 0;
     s.start.powered = true ∧ s.get R.mgmtStartState = 0 ∧ s.get R.mgmtStartStep = 0) ∧
    (let s : State := keeper;
     s.start.powered = true ∧ s.start.switch = true) ∧
    (let j : JtagInstr := .idcode; let s : State := run;
     s.start.powered = true ∧ j = .idcode) ∧
    (let j : JtagInstr := .other; let s : State := run;
     s.start.powered = true ∧ j = .other) ∧
    (let j : JtagInstr := .extest; let s : State := run;
     s.start.powered = true ∧ s.dieInReset = false ∧ j = .extest) := by
  and_intros <;> decide +kernel

theorem witness_ResetsEndWorkAndRestart :
    (let s : State := placed; let f : CbFrame := toMe 0x30 [2]; let l : Nat := 2; let path : Path := .callboard;
     s.takes f 0x30 ∧ f.payload = [BitVec.ofNat 8 l] ∧ 1 ≤ l ∧ l ≤ 4 ∧ s.reaches path 1 ∧ s.start.powered = true ∧
     1 ≤ s.get R.mgmtResetCfgPerst ∧ s.get R.mgmtResetCfgPerst ≤ 4) ∧
    (let s : State := run; let path : Path := .callboard; let l : Nat := 1;
     s.reaches path 1 ∧ 1 ≤ l ∧ l ≤ 4 ∧ s.start.powered = true ∧ 1 ≤ s.get R.mgmtResetCfgPerst ∧
     s.get R.mgmtResetCfgPerst ≤ 4) ∧
    (let s : State := { placed with mem := { MemSt.reset with bytes := [(5, 9)] } }; let f : CbFrame := toMe 0x30 [4];
     let l : Nat := 4; let path : Path := .callboard;
     s.takes f 0x30 ∧ f.payload = [BitVec.ofNat 8 l] ∧ 1 ≤ l ∧ l ≤ 4 ∧ s.reaches path 1 ∧ s.start.powered = true ∧
     1 ≤ s.get R.mgmtResetCfgPerst ∧ s.get R.mgmtResetCfgPerst ≤ 4) ∧
    (let s : State := inStep 0;
     s.start.powered = true ∧ 1 ≤ s.get R.mgmtResetCfgPerst ∧ s.get R.mgmtResetCfgPerst ≤ 4) ∧
    (let s : State := State.with run [(R.mgmtStartState, 2), (R.mgmtStartStep, 4)]; let path : Path := .callboard;
     let l : Nat := 3;
     s.reaches path 1 ∧ 1 ≤ l ∧ l ≤ 4 ∧ s.start.powered = true ∧ 1 ≤ s.get R.mgmtResetCfgPerst ∧
     s.get R.mgmtResetCfgPerst ≤ 4) ∧
    (let s : State := { State.with placed [(R.mgmtStartState, 0), (R.mgmtStartStep, 5)] with start := { State.reset.start with resetLevel := 4 } };
     let f : CbFrame := toMe 0x30 [2]; let l : Nat := 2; let path : Path := .callboard;
     s.takes f 0x30 ∧ f.payload = [BitVec.ofNat 8 l] ∧ 1 ≤ l ∧ l ≤ 4 ∧ s.reaches path 1 ∧ s.start.powered = true ∧
     1 ≤ s.get R.mgmtResetCfgPerst ∧ s.get R.mgmtResetCfgPerst ≤ 4) ∧
    (let path : Path := .callboard; let l : Nat := 5; let s : State := run;
     s.reaches path 1 ∧ (l % 8 = 0 ∨ 4 < l % 8)) := by
  unfold State.reaches State.takes
  and_intros <;> decide +kernel

theorem witness_NoStepUndoesABurn :
    FusedAtLeast 1 1 3 { burnt with pending := [.cueBoundary] } ∧
      step { burnt with pending := [.cueBoundary] } = .next (after (step { burnt with pending := [.cueBoundary] })) := by
  refine ⟨⟨?_, ?_⟩, next_after (by decide +kernel)⟩
  · have h : (Config.keyRevoked ||| 2).testBit 1 = true := by
      rw [Nat.testBit_or, show Nat.testBit 2 1 = true from rfl, Bool.or_true]
    rw [Nat.testBit_eq_decide_div_mod_eq, decide_eq_true_eq] at h
    show ((Config.keyRevoked ||| 2) % 16 / 2 ^ 1 % 2 == 1) = true
    rw [beq_iff_eq]; omega
  · exact Nat.le_max_right _ _

/-- An estimate above the cap, and one that falls by more than the slew allows (R382, R384). -/
theorem witness_PowerIsEstimatedAndCapped_results :
    (let s := { powered0 with pwr := { PwrSt.reset with line := 1500 } }; let t := after (exec (.powerEstimateTick 1501 0) s);
     isNext (exec (.powerEstimateTick 1501 0) s) = true ∧ s.effectiveCap < t.get R.pwrEstW) ∧
    (let s := powered0.set R.pwrEstW 3000; let t := after (exec (.powerEstimateTick 0 0) s);
     isNext (exec (.powerEstimateTick 0 0) s) = true ∧ t.get R.pwrEstW + s.get R.pwrSlewWPerUs < s.get R.pwrEstW) := by
  decide +kernel

/-! ## Results worked out in the spec or by hand -/

/-- R330, R63: the check values of the named CRCs over the digits 1 to 9 (RFC 3720 for CRC-32C). -/
theorem test_crc_check_values :
    let d : List Byte := [0x31, 0x32, 0x33, 0x34, 0x35, 0x36, 0x37, 0x38, 0x39]
    crc32c d = 0xE3069283 ∧ crc16 d = 0x29B1 := by decide +kernel

/-- R88, the example after R90: 0x3F80_8000 to H16 by stochastic rounding. -/
theorem test_stochastic_h16 :
    (Fmt.H16.round (.stoch 0xA3C1) (f32 0x3F808000)).1 = 0x3F81 ∧ (Fmt.H16.round (.stoch 0x7FFF) (f32 0x3F808000)).1 = 0x3F80 ∧
      (Fmt.H16.round (.stoch 0x8000) (f32 0x3F808000)).1 = 0x3F81 := by decide +kernel

/-- The example of a dot product: the Q8E4 codes and scale bytes of both operands. -/
theorem test_q8e4_block :
    let a : List Machine.Num := [0x41562000, 0x403C0000, 0xBF520000, 0x3E600000].map f32
    let b : List Machine.Num := [0x3EA00000, 0x3FC00000].map f32
    let x := encodeValues 0x23 .zero (fun _ => .nearest) a
    let y := encodeValues 0x23 .zero (fun _ => .nearest) b
    x.codes = [0x75, 0x64, 0xD5, 0x46] ∧ x.e8 = [0x7B] ∧ x.ovf = 0 ∧ y.codes = [0x62, 0x74] ∧ y.e8 = [0x78] := by decide +kernel

/-- The example of a dot product: H16 gives 33.5625, Q8E4 gives 32.875. -/
theorem test_dot_products :
    let pairs (a b : List Machine.Num) : List (Machine.Num × Machine.Num) := a.zip b
    let r (x : Machine.Num) : List Machine.Num := List.replicate 8 x
    let b := r (f32 0x3EA00000) ++ r (f32 0x3EA00000) ++ r (f32 0x3FC00000) ++ r (f32 0x3FC00000)
    let h (q : Nat) := Fmt.H16.value q
    (dotGroups 2 0 .zero (pairs (r (h 0x4156) ++ r (h 0x403C) ++ r (h 0xBF52) ++ r (h 0x3E60)) b)).1 = 0x42064000 ∧
      (dotGroups 2 0 .zero (pairs (r (f32 0x41500000) ++ r (f32 0x40400000) ++ r (f32 0xBF500000) ++ r (f32 0x3E600000)) b)).1 =
        0x42038000 := by decide +kernel

/-- The example of RED.SUM: 16777216, 1, 1, 1, 1 give 16777220. -/
theorem test_sum_tree :
    let l := [16777216, 1, 1, 1, 1].map fun n => (Machine.Num.ofNat n, Counts.zero)
    (toF32 (redTree .redSum 5 l).1).1 = 0x4B800002 := by decide +kernel

/-- The example of why the order binds: the H16 fold from coordinate 3 gives +0. -/
theorem test_fold_order :
    let f (a b : Nat) := (portAdd .H16 a b).1
    f (f (f 0x4380 0x3F80) 0x3F80) 0xC380 = 0 ∧ f (f (f 0x3F80 0x3F80) 0xC380) 0x4380 = 0x4000 := by decide +kernel

/-- The examples of lossless pages: 15, 21 and 35 lines. -/
theorem test_lossless_lines :
    let r (w : Nat) : MRegion :=
      { index := 0, tier2 := false, narrow := false, elem := w, pages := 1, base := 0, size := 0, map := [], drawn := [],
        fullRaised := false, loose := false, undef := false }
    (r 0).lines (List.replicate 3686 0 ++ List.replicate 409 1 ++ [2]) = 15 ∧
      (r 1).lines (List.replicate 3072 0 ++ List.replicate 1022 1 ++ [2, 2]) = 21 ∧
      (r 2).lines (List.replicate 2048 0 ++ List.replicate 2044 1 ++ [2, 2, 2, 2]) = 35 ∧
      (r 2).lines (List.replicate 4096 7) = 0 := by decide +kernel

def slot37 : Slot :=
  { recipe := 0, valid := true, fill := 16, head := 0, scaleExp := 18, ceilExp := 0, ceilLeft := 0, lastAmax := 0,
    lastSeen := false, lastOvf := false, lastInf := false, lastNan := false, lowerings := 0,
    ring := List.replicate 16 0x3D400000 }

def recipe37 : Recipe := ⟨1, 0x34, 16, 15, 15⟩

/-- The example of a gradient slot through an overflow: 18, lowered to 16, 15 after the commit. -/
theorem test_gradient_slot :
    let low := slot37.lower 2
    let next := low.commit recipe37 2 ⟨f32 0x3E800000, true, false, false, false⟩
    estimate recipe37 2 slot37.ring = 18 ∧ low.scaleExp = 16 ∧ low.ceilExp = 16 ∧ low.ceilLeft = 16 ∧ next.scaleExp = 15 ∧
      next.ceilLeft = 15 := by decide +kernel

def headGroup : UGroup :=
  { (default : UGroup) with
    valid := true, net := true, rule := 3, gradMul := 0x3B800000, eps := 0x39800000, birth := 1280, curveLr := (0, 2),
    curveWd := (2, 1), curveB1 := (3, 1), curveB2 := (4, 1) }

def headScalars : Scalars :=
  scalarsOf
    { (default : UpdSt) with
      curves := [(1024, 0x3A800000), (2048, 0x3A000000), (0, 0x3C800000), (0, 0x3F600000), (0, 0x3F7FC000)] } 1280 headGroup

/-- The example of a new layer group: the scalars of its first step. -/
theorem test_step_scalars :
    headScalars.lr = 0x3A600000 ∧ headScalars.wd = 0x3C800000 ∧ headScalars.c1 = 0x3E000000 ∧ headScalars.c2 = 0x3A800000 ∧
      headScalars.a1 = 0x41000000 ∧ headScalars.a2 = 0x44800000 ∧ headScalars.first = true := by decide +kernel

/-- The example of a new layer group: weight 0x3EFF_AB20, moments 3 x 2^-15 and 9 x 2^-34. -/
theorem test_adaptive_update :
    let r := blockRule headGroup headScalars 0x3E400000 0x3F000000 0 0
    r.1 = 0x3EFFAB20 ∧ r.2.1 = 0x38C00000 ∧ r.2.2.1 = 0x30100000 := by decide +kernel

/-- R294 by hand: f = 6, p = 2: s = 6, r = sqrt(12 / 3) = 2, x = 1/2, mm = 3/2; one round: t = 3/4, x = 3/8, mm = 27/32, whose
distance 5/32 from 1 is below 1/4. With a tolerance of 1/8 that one round is not enough, damped by 2 (f = 8) neither. -/
theorem test_inverse_root :
    let g := { (default : UGroup) with rootP := 2, iterLimit := 1 }
    let x := { (default : Scalars) with tol := 0x3E800000, damp := 0x40000000 }
    rootOf g x [[0x40C00000]] = some ([[0x3EC00000]], 1) ∧ rootOf g { x with tol := 0x3E000000 } [[0x40C00000]] = none := by
  decide +kernel

/-- R293 and R295 by hand: a layer of one element in its first step, b1 = 1/2 and a1 = 2, momentum form; a zero gradient gives no
root, and the weight of 1 stays. With a gradient of 2 and b2 = 1/2 both factors are 2. -/
theorem test_precond_layer :
    let g := { (default : UGroup) with rule := 8, rootP := 2, iterLimit := 3, fallback := 2 }
    let x := { (default : Scalars) with lr := 0x3F800000, b1 := 0x3F000000, b2 := 0x3F000000, c1 := 0x3F000000, c2 := 0x3F000000,
                                        a1 := 0x40000000, a2 := 0x40000000, first := true,
                                        tol := 0x3E800000, gradMul := 0x3F800000 }
    let l := precondLayer g x [[0]] [[0x3F800000]] [[0]] [[0]] ⟨1, [[0]], [[0]], [[1]], [[2]]⟩
    let k := precondLayer g x [[0x40000000]] [[0x3F800000]] [[0]] [[0]] ⟨1, [[0]], [[0]], [[1]], [[2]]⟩
    l.w = [[0x3F800000]] ∧ l.state = ⟨0, [[0]], [[0]], [[1]], [[2]]⟩ ∧
      k.state.fl = [[0x40000000]] ∧ k.state.fr = [[0x40000000]] ∧ k.m = [[0x3F800000]] ∧ k.state.rootOk = 1 := by decide +kernel

/-- R115 and the tile schedule: an 8-bit MMA of K = 512 occupies 512 cycles. -/
theorem test_mma_occupancy :
    mmaOcc { (default : MmaFields) with k := 512, aFmt := 0x23, bFmt := 0x23 } = 512 ∧
      mmaOcc { (default : MmaFields) with k := 16, aFmt := 0x26, bFmt := 0x26 } = 8 := by decide +kernel

/-- R107 and the tile schedule: port A waits 18 and 2 cycles. -/
theorem test_port_a_slots :
    portAWait (20 * 64) 5 573 = 18 ∧ portAWait (4 * 64) 5 1085 = 2 := by decide

/-- R40, R46: a boundary counts a cue. -/
theorem test_boundary : (after (exec .cueBoundary run)).get R.cueCurCueLo = 1 := by decide +kernel

/-- R142: FLAG.INC adds modulo 2^16, FLAG.WRITE stores. -/
theorem test_flags :
    let s := after (exec (.flagWrite iss 3 65535) acting)
    (s.flag flag0).value = 65535 ∧ ((after (exec (.flagInc iss flag0 255) (s.setCore 0 0 (ready (s.core 0 0))))).flag flag0).value = 254 := by decide +kernel

/-- R134: 1.5 + 2.25 is 3.75; with NEG on the second operand -0.75. Cell 8 is no wing cell. -/
theorem test_vector_add :
    let f (neg : Bool) : VecFields :=
      { (default : VecFields) with n := 1, fmt := 0, a := ⟨.imm 0x3FC00000, false, false⟩, b := ⟨.imm 0x40100000, neg, false⟩,
                                   dst := .acc 0 0, slot := 0xFFF }
    let i : Issue := { iss with cell := 8 }
    let s := acting.setCore 8 0 (ready CoreSt.empty)
    (after (exec (.add i (f false)) s)).accGet 8 0 0 = 0x40700000 ∧
      (after (exec (.add i (f true)) s)).accGet 8 0 0 = 0xBF400000 := by decide +kernel

/-- R427 and the numbering of a shelf: 0x8000_00BB names chip 187. -/
theorem test_shelf_chip : (after (exec (.mgmtChipWrite .callboard 0x800000BB) run)).chip = some 187 := by decide +kernel

/-- R420 and the numbering of a shelf: module 16 is the tail and answers ENUM_DONE. -/
theorem test_shelf_tail :
    let s := after (exec (.enumerate (enumFrame 16)) (on [(R.mgmtCbTail, 1)]))
    s.get R.mgmtCbPosition = 16 ∧ cbMake 0 false true 16 0x02 9 [16, 0] ∈ s.cb.own := by decide +kernel

/-- R447: level 5 is no level; the write is counted as a bad access. -/
theorem test_reset_level : (after (exec (.resetLevelWrite .callboard 5) run)).get R.hostBadAccess = 1 := by decide +kernel

/-- R442: step 0 ends in step 1. -/
theorem test_first_step : (after (exec (.startupStepComplete report0) (inStep 0))).get R.mgmtStartStep = 1 := by decide +kernel

/-- R438: the test port answers IDCODE. -/
theorem test_idcode : (after (exec (.testPortInstruction .idcode) run)).out = [.testPort .idcode Config.idcode] := rfl

/-- R408: an access that is not aligned is counted, with its offset. -/
theorem test_bad_access :
    let s := after (exec (.registerWrite .callboard 0x49 4 1) run)
    s.get R.hostBadAccess = 1 ∧ s.get R.hostBadAccessLastOffset = 0x49 := by decide +kernel

/-- R316, R318 and the poisoned chunk: AND 0x14C0_0000 and OR 0x14C0_0005 decide a discard. -/
theorem test_poisoned_chunk_discards :
    let s := exchanging fun c => { c with andF := 0x14C00000, orF := 0x14C00005, seenDirs := [0] }
    (after (exec .curtainDecide s)).commit.decided = some false := by decide +kernel

/-- R413: a message that was owed goes out when the holdoff ends. -/
theorem test_holdoff :
    (after (exec (.irqHoldoffExpire 5)
      { hosted with host := { HostSt.reset with holdoff := [5], owed := [5] } })).out = [.msix 5] := by decide +kernel

/-- R330: the check symbols of one data symbol 1 complete a multiple of the generator, zero at α⁰ to α²³; α has order 1,023. -/
theorem test_rs_roots :
    gfPow 1023 = 1 ∧ ((List.range 24).all fun i => gfEval (rsEncode [1]) (gfPow i) == 0) = true := by decide +kernel

/-- R328, R330, R333: 5,400 bits of FEC stream on eight lanes, 6,210 on seven, PAM4 levels in Gray order. -/
theorem test_lane_shapes :
    let cws := List.replicate 9 (List.replicate 480 0)
    ((List.range 8).all fun l => (laneSymbols false cws l).length == 540) = true ∧
      ((List.range 7).all fun l => (laneSymbols true cws l).length == 621) = true ∧
      pam4 [false, false, false, true, true, true, true, false] = [0, 1, 2, 3] := by decide +kernel

end Sys2Proof.Tests
end

section
/-! SUPPORT. What a state tells of its call sheet (R60 to R67), as one view. Only the sheet's own operations change it: a lemma
`<operation>_sheetView` for each of the others says so, and cites those of the operations it is made of. -/

namespace Sys2Proof.Machine

open Sys2Proof

/-- The words of page CUE that hold a sheet's target, its machine bit, its status and the cause of its rejection. -/
def sheetWords : List Nat :=
  [R.cueCsTargetLo.addr, R.cueCsTargetHi.addr, R.cueCsCtrlMachine.addr, R.cueCsStatusState.addr, R.cueCsRejectPage.addr,
   R.cueCsRejectReg.addr, R.cueCsRejectCause.addr]

/-- Those words and the EVENT word of the page. -/
def guardedWords : List Nat := (R.pageEvent pgCUE).addr :: sheetWords

/-- What registers tell of the sheet: its words, and whether CALL SHEET REJECT stands. -/
def sheetRegs (m : AMap Word) : List Word × Bool :=
  let word := fun (a : Nat) => (AMap.find m a).getD (regReset a)
  (sheetWords.map word, bitAt (bitsOf (word (R.pageEvent pgCUE).addr).toNat 0 32) (0x0103 % 32))

/-- Everything a state tells of its call sheet. -/
def State.sheetView (s : State) : SheetSt × AMap Word × List Word × Bool := (s.sheet, s.shadow, sheetRegs s.regs)

theorem sheetRegs_fst (s : State) : (sheetRegs s.regs).1 = sheetWords.map s.word := rfl

theorem sheetRegs_snd (s : State) : (sheetRegs s.regs).2 = bitAt (s.get (R.pageEvent pgCUE)) (0x0103 % 32) := rfl

theorem sheetView_iff {s t : State} : t.sheetView = s.sheetView ↔ t.sheet = s.sheet ∧ t.shadow = s.shadow ∧
    (∀ a ∈ sheetWords, t.word a = s.word a) ∧ (t.eventSet 0x0103 pgCUE ↔ s.eventSet 0x0103 pgCUE) := by
  rw [State.eventSet, State.eventSet, ← Bool.eq_iff_iff]
  simp only [State.sheetView, Prod.ext_iff, sheetRegs_fst, List.map_inj_left, sheetRegs_snd]

/-- Where the sheet, the shadow and the guarded words are as before, so is the view. -/
theorem sheetView_of_words {s t : State} (hsheet : t.sheet = s.sheet) (hshadow : t.shadow = s.shadow)
    (hw : ∀ a ∈ guardedWords, t.word a = s.word a) : t.sheetView = s.sheetView := by
  refine sheetView_iff.2 ⟨hsheet, hshadow, fun a ha => hw a (List.mem_cons_of_mem _ ha), ?_⟩
  rw [State.eventSet, State.eventSet, State.get, State.get, hw _ List.mem_cons_self]

theorem guardedWords_page : ∀ a ∈ guardedWords, a / 0x1000 = 2 := by decide

/-- The words of the pages above page CUE are not guarded. -/
theorem notMem_guardedWords {f : Fld} (h : 2 < f.page) : f.addr ∉ guardedWords := by
  intro hf
  have hp := guardedWords_page _ hf
  simp only [Fld.addr] at hp
  omega

variable (s : State)

/-! ## Registers and events -/

/-- A write of a word that is not guarded. -/
theorem State.set_sheetView_of_notMem {f : Fld} (v : Nat) (h : f.addr ∉ guardedWords) : (s.set f v).sheetView = s.sheetView :=
  sheetView_of_words rfl rfl fun _ ha => s.word_set_other f v (ne_of_mem_of_not_mem ha h)

/-- An event of page CUE other than CALL SHEET REJECT: its bit is another one. -/
theorem State.raise_cue_sheetView {code : Nat} (e : EvInfo) (h : code % 32 ≠ 3) :
    (s.raise code pgCUE e).sheetView = s.sheetView := by
  refine sheetView_iff.2 ⟨rfl, rfl, fun a ha => s.word_raise_other code pgCUE e ?_, ?_⟩
  · have ho : ∀ p ∈ sheetWords, p ≠ pgCUE * 0x1000 + 0x10 := by decide
    exact ho a ha
  · have hl : s.get (R.pageEvent pgCUE) ||| 2 ^ (code % 32) < 2 ^ 32 :=
      Nat.or_lt_two_pow (s.get_lt _) (Nat.pow_lt_pow_right (by decide) (Nat.mod_lt _ (by decide)))
    have hg : (s.raise code pgCUE e).get (R.pageEvent pgCUE) = s.get (R.pageEvent pgCUE) ||| 2 ^ (code % 32) :=
      (s.get_set_same (R.pageEvent pgCUE) _ (Nat.le_refl 32)).trans (Nat.mod_eq_of_lt hl)
    simp [State.eventSet, bitAt_eq_testBit, hg, h]

theorem State.set_sheetView {f : Fld} (v : Nat) (h : 2 < f.page) : (s.set f v).sheetView = s.sheetView :=
  s.set_sheetView_of_notMem v (notMem_guardedWords h)

theorem State.inc_sheetView {f : Fld} (n : Nat) (h : 2 < f.page) : (s.inc f n).sheetView = s.sheetView := s.set_sheetView _ h

theorem State.set2_sheetView {lo hi : Fld} (v : Nat) (h : 2 < lo.page) (h' : 2 < hi.page) :
    (s.set2 lo hi v).sheetView = s.sheetView := (State.set_sheetView _ _ h').trans (s.set_sheetView _ h)

/-- An event of a page above page CUE. -/
theorem State.raise_sheetView {code page : Nat} (e : EvInfo) (h : 2 < page) : (s.raise code page e).sheetView = s.sheetView :=
  sheetView_of_words rfl rfl fun a ha => s.word_raise_other code page e (by have := guardedWords_page a ha; omega)

/-- Words cleared in other pages. -/
theorem State.clearWords_sheetView {pg off : Nat → Bool} (h : pg 2 = false) : (s.clearWords pg off).sheetView = s.sheetView :=
  sheetView_of_words rfl rfl fun a ha => by simp [State.word_clearWords, guardedWords_page a ha, h]

/-! ## Updates of other blocks -/

@[simp] theorem State.emit_sheetView (o : Out) : (s.emit o).sheetView = s.sheetView := rfl
@[simp] theorem State.setMem_sheetView (m : MemSt) : (s.setMem m).sheetView = s.sheetView := rfl
@[simp] theorem State.setRegion_sheetView (r : MRegion) : (s.setRegion r).sheetView = s.sheetView := rfl
@[simp] theorem State.setAct_sheetView (a : ActiveAct) : (s.setAct a).sheetView = s.sheetView := rfl
@[simp] theorem State.setPort_sheetView (p : Nat) (x : PortSt) : (s.setPort p x).sheetView = s.sheetView := rfl
@[simp] theorem State.setCell_sheetView (c : Nat) (x : CellSt) : (s.setCell c x).sheetView = s.sheetView := rfl
@[simp] theorem State.setCore_sheetView (c k : Nat) (x : CoreSt) : (s.setCore c k x).sheetView = s.sheetView := rfl
@[simp] theorem State.setGroup_sheetView (g : Nat) (x : GroupSt) : (s.setGroup g x).sheetView = s.sheetView := rfl
@[simp] theorem State.setRun_sheetView (g : Nat) (r : Option CommRun) : (s.setRun g r).sheetView = s.sheetView := rfl
@[simp] theorem State.lsWrite_sheetView (c k a : Nat) (l : List Byte) : (s.lsWrite c k a l).sheetView = s.sheetView := rfl
@[simp] theorem State.csWrite_sheetView (c a : Nat) (l : List Byte) : (s.csWrite c a l).sheetView = s.sheetView := rfl
@[simp] theorem State.accWrite_sheetView (c k e : Nat) (l : List Word) : (s.accWrite c k e l).sheetView = s.sheetView := rfl
@[simp] theorem State.mapWins_sheetView (f : Win → Win) : (s.mapWins f).sheetView = s.sheetView := rfl
@[simp] theorem State.landWins_sheetView (o : Owner) (f : FlagRef) : (s.landWins o f).sheetView = s.sheetView := rfl
@[simp] theorem State.flagBump_sheetView (f : FlagRef) (b : FlagBy) (t : Word) : (s.flagBump f b t).sheetView = s.sheetView := rfl
@[simp] theorem State.drawBytes_sheetView (n : Nat) : (s.drawBytes n).2.sheetView = s.sheetView := rfl
@[simp] theorem State.drawBool_sheetView : s.drawBool.2.sheetView = s.sheetView := rfl
@[simp] theorem State.drawWord_sheetView : s.drawWord.2.sheetView = s.sheetView := rfl

@[simp] theorem State.cause_sheetView (n : Nat) : (s.cause n).sheetView = s.sheetView := by
  unfold State.cause; split <;> rfl

@[simp] theorem State.causeIn_sheetView (a : Option ActiveAct) (n : Nat) : (s.causeIn a n).sheetView = s.sheetView := by
  unfold State.causeIn
  split
  · split
    · rfl
    · exact s.cause_sheetView n
  · exact s.cause_sheetView n

/-- What sends on ports leaves the sheet. -/
theorem PortsOnly.sheetView {s t : State} (h : PortsOnly s t) : t.sheetView = s.sheetView := by rw [h]; rfl

@[simp] theorem State.pump_sheetView (p : Nat) : (s.pump p).sheetView = s.sheetView := (s.pump_portsOnly p).sheetView
@[simp] theorem State.sendTx_sheetView (p : Nat) (e : TxFlit) : (s.sendTx p e).sheetView = s.sheetView :=
  (s.sendTx_portsOnly p e).sheetView
@[simp] theorem State.sendFlit_sheetView (p : Nat) (f : Flit) : (s.sendFlit p f).sheetView = s.sheetView :=
  (s.sendFlit_portsOnly p f).sheetView
@[simp] theorem State.leave_sheetView (o : Option (Nat × Nat)) : (s.leave o).sheetView = s.sheetView :=
  (s.leave_portsOnly o).sheetView

/-! ## Folds -/

/-- A fold of steps that leave the sheet leaves it. -/
theorem foldl_sheetView {α : Type} {f : State → α → State} (h : ∀ s x, (f s x).sheetView = s.sheetView) (l : List α)
    (s : State) : (l.foldl f s).sheetView = s.sheetView := by
  induction l generalizing s with
  | nil => rfl
  | cons x l ih => exact (ih (f s x)).trans (h s x)

/-- The same of a fold that also gathers a value. -/
theorem foldl_snd_sheetView {α β : Type} {f : β × State → α → β × State}
    (h : ∀ x a, (f x a).2.sheetView = x.2.sheetView) (l : List α) (x : β × State) :
    (l.foldl f x).2.sheetView = x.2.sheetView := by
  induction l generalizing x with
  | nil => rfl
  | cons a l ih => exact (ih (f x a)).trans (h x a)

end Sys2Proof.Machine
end

section
/-! SUPPORT. Reads and writes of the tiers (R213 to R224, R304 to R309, R402) leave the call sheet. -/

namespace Sys2Proof.Machine

open Sys2Proof

variable (s : State)

@[simp] theorem State.snoopOut_sheetView (d : Nat) : (s.snoopOut d).sheetView = s.sheetView :=
  State.set_sheetView_of_notMem { s with host := _ } _ (f := R.hostBiSnoops) (by decide)

@[simp] theorem State.backInvalidate_sheetView (off len : Nat) : (s.backInvalidate off len).sheetView = s.sheetView :=
  foldl_sheetView State.snoopOut_sheetView _ s

@[simp] theorem State.lockKey_sheetView (off : Nat) : (s.lockKey off).sheetView = s.sheetView := by
  unfold State.lockKey
  grind [State.set_sheetView, R.memIlStatusLocked1, R.memIlStatusLocked2]

@[simp] theorem State.touch_sheetView (off len : Nat) : (s.touch off len).sheetView = s.sheetView := by simp [State.touch]

/-! ## Reads -/

@[simp] theorem State.uncorrectable_sheetView (who : Reader) (off ph : Nat) :
    (s.uncorrectable who off ph).sheetView = s.sheetView := by
  unfold State.uncorrectable
  grind [State.inc_sheetView, State.set_sheetView, State.set2_sheetView, State.raise_sheetView, R.memUncCount, R.memUncFirstValid,
    R.memUncFirstLo, R.memUncFirstHi, R.stackUncorrectable, pgMEM]

@[simp] theorem State.correctedIn_sheetView (k ch dram : Nat) : (s.correctedIn k ch dram).sheetView = s.sheetView := by
  unfold State.correctedIn
  grind [State.inc_sheetView, State.set_sheetView, State.setMem_sheetView, State.raise_sheetView, R.stackCorrected,
    R.stackSparesMin, pgSTACK]

@[simp] theorem State.corrected_sheetView (ph : Nat) : (s.corrected ph).sheetView = s.sheetView := by
  simp [State.corrected]

@[simp] theorem State.readLine_sheetView (who : Reader) (off ph : Nat) : (s.readLine who off ph).2.2.sheetView = s.sheetView := by
  unfold State.readLine
  grind [State.drawBytes_sheetView, State.uncorrectable_sheetView, State.corrected_sheetView, State.drawBool_sheetView]

@[simp] theorem State.visit_sheetView (off len : Nat) : (s.visit off len).sheetView = s.sheetView := by
  unfold State.visit
  dsimp only
  split
  · exact s.touch_sheetView off len
  · refine (foldl_sheetView (fun s i => ?_) _ _).trans (s.touch_sheetView off len)
    split <;> simp

@[simp] theorem State.readLines_sheetView (who : Reader) (off n i : Nat) (data : List Byte) (po : List Nat) :
    (State.readLines who off n i data po s).2.sheetView = s.sheetView := by
  induction n generalizing i data po s with
  | zero => rfl
  | succ n ih => exact (ih _ _ _ _).trans (s.readLine_sheetView _ _ _)

@[simp] theorem State.meetErrs_sheetView (off : Nat) (ecc : EccErrs) : (s.meetErrs off ecc).sheetView = s.sheetView := by
  refine foldl_sheetView (fun s e => ?_) _ s
  split <;> simp

@[simp] theorem State.tierRead_sheetView (who : Reader) (off len : Nat) (ecc : EccErrs) :
    (s.tierRead who off len ecc).2.sheetView = s.sheetView := by simp [State.tierRead]

@[simp] theorem State.readSpan_sheetView (who : Reader) (off len : Nat) (ecc : EccErrs) :
    (s.readSpan who off len ecc).2.sheetView = s.sheetView := s.tierRead_sheetView _ _ _ _

/-! ## Writes -/

@[simp] theorem State.meetRegion_sheetView (ph : Nat) : (s.meetRegion ph).sheetView = s.sheetView := by
  unfold State.meetRegion
  split
  · simp
  · split <;> simp

@[simp] theorem State.putLine_sheetView (ph : Nat) (data : List Byte) (po : Bool) :
    (s.putLine ph data po).sheetView = s.sheetView := by
  unfold State.putLine
  split <;> simp

@[simp] theorem State.markPage_sheetView (off : Nat) : (s.markPage off).sheetView = s.sheetView := by
  unfold State.markPage
  dsimp only
  split
  · rfl
  · split <;> simp

@[simp] theorem State.writeLine_sheetView (off : Nat) (data : List Byte) (po : Bool) :
    (s.writeLine off data po).sheetView = s.sheetView := by
  simp [State.writeLine]

@[simp] theorem State.writeLines_sheetView (n off : Nat) (data : List Byte) (po : List Nat) :
    (State.writeLines n off data po s).sheetView = s.sheetView := by
  induction n generalizing off data po s with
  | zero => rfl
  | succ n ih => exact (ih _ _ _ _).trans (s.writeLine_sheetView _ _ _)

@[simp] theorem State.mergeLine_sheetView (ph : Nat) : (s.mergeLine ph).sheetView = s.sheetView := by
  unfold State.mergeLine
  grind [State.setMem_sheetView, State.drawBytes_sheetView, State.meetRegion_sheetView, State.corrected_sheetView]

@[simp] theorem State.pokeLine_sheetView (off : Nat) (data : List Byte) : (s.pokeLine off data).sheetView = s.sheetView := by
  unfold State.pokeLine
  dsimp only
  split <;> simp

@[simp] theorem State.writeParts_sheetView (n off : Nat) (data : List Byte) (po : List Nat) :
    (State.writeParts n off data po s).sheetView = s.sheetView := by
  induction n generalizing off data po s with
  | zero => rfl
  | succ n ih =>
    refine (ih _ _ _ _).trans ?_
    split <;> simp

@[simp] theorem State.writeSpan_sheetView (off : Nat) (data : List Byte) (po : List Nat) :
    (s.writeSpan off data po).sheetView = s.sheetView := by
  unfold State.writeSpan
  split <;> simp

@[simp] theorem State.hostPut_sheetView (addr : Nat) (data : List Byte) (po : List Nat) :
    (s.hostPut addr data po).sheetView = s.sheetView := by
  unfold State.hostPut
  split
  · simp
  · exact foldl_sheetView (fun s i => s.emit_sheetView _) _ s

@[simp] theorem State.tierWrite_sheetView (off : Nat) (data : List Byte) (po : List Nat) :
    (s.tierWrite off data po).sheetView = s.sheetView := by
  unfold State.tierWrite
  dsimp only
  split
  · split <;> simp
  · split <;> simp

@[simp] theorem State.stepTouch_sheetView (a : Option ActiveAct) (off len : Nat) :
    (s.stepTouch a off len).sheetView = s.sheetView := by
  unfold State.stepTouch
  split <;> simp

@[simp] theorem State.stepWrite_sheetView (a : Option ActiveAct) (off : Nat) (data : List Byte) (po : List Nat) :
    (s.stepWrite a off data po).sheetView = s.sheetView := by simp [State.stepWrite]

@[simp] theorem State.copyLines_sheetView (n off src dst : Nat) : (State.copyLines off src dst n s).sheetView = s.sheetView := by
  induction n generalizing off src dst s with
  | zero => rfl
  | succ n ih => exact (ih _ _ _ _).trans ((State.putLine_sheetView _ _ _ _).trans (s.readLine_sheetView _ _ _))

@[simp] theorem State.copyPage_sheetView (r : VRange) (page : Nat) : (s.copyPage r page).sheetView = s.sheetView := by
  simp [State.copyPage]

end Sys2Proof.Machine
end

section
/-! SUPPORT. Cell movers, compressed regions, remote and host accesses (R118, R224 to R226, R246, R399) leave the call sheet. -/

namespace Sys2Proof.Machine

open Sys2Proof

variable (s : State)

/-! ## Undefined data -/

@[simp] theorem State.scramble_sheetView (r : Region) : (s.scramble r).sheetView = s.sheetView := by
  unfold State.scramble
  split <;> rfl

@[simp] theorem State.scrambleAll_sheetView (l : List Region) : (s.scrambleAll l).sheetView = s.sheetView :=
  foldl_sheetView State.scramble_sheetView l s

/-! ## Compressed regions -/

@[simp] theorem State.markStale_sheetView (lo n : Nat) : (s.markStale lo n).sheetView = s.sheetView := rfl

@[simp] theorem State.storePage_sheetView (who : EvInfo) (idx p : Nat) (b : List Byte) (undef : Bool) :
    (s.storePage who idx p b undef).sheetView = s.sheetView := by
  have hfull (u : State) : (u.inc R.memAllotFull 1).sheetView = u.sheetView := u.inc_sheetView 1 (by decide)
  have hraise (u : State) (e : EvInfo) : (u.raise 0x0304 pgMEM e).sheetView = u.sheetView := u.raise_sheetView e (by decide)
  unfold State.storePage
  dsimp only
  split
  · rfl
  · split
    · split <;> simp [hfull, hraise]
    · split <;> simp

@[simp] theorem State.correctPage_sheetView (st : Nat) (errs : List Nat) : (s.correctPage st errs).sheetView = s.sheetView := by
  unfold State.correctPage
  refine foldl_sheetView (fun s _ => ?_) _ s
  simp

@[simp] theorem State.pageFails_sheetView (who : EvInfo) (r : MRegion) (n : Nat) :
    (s.pageFails who r n).2.2.sheetView = s.sheetView := by
  unfold State.pageFails
  grind [State.drawWord_sheetView, State.drawBytes_sheetView, State.inc_sheetView, State.set_sheetView, State.set2_sheetView,
    State.raise_sheetView, R.memUncCount, R.memUncFirstValid, R.memUncFirstLo, R.memUncFirstHi, pgMEM]

@[simp] theorem State.sticky_sheetView (cell core queue : Nat) (a : Option ActiveAct) (c : Counts) (d : Nat) :
    (s.sticky cell core queue a c d).sheetView = s.sheetView := by
  unfold State.sticky
  grind [State.setCell_sheetView, State.cause_sheetView]

@[simp] theorem State.loadPage_sheetView (who : EvInfo) (idx p : Nat) (errs : List Nat) :
    (s.loadPage who idx p errs).2.2.sheetView = s.sheetView := by
  unfold State.loadPage
  grind [State.correctPage_sheetView, State.drawBool_sheetView, State.pageFails_sheetView, State.inc_sheetView,
    State.setRegion_sheetView, State.drawBytes_sheetView, State.sticky_sheetView, R.stackUncorrectable]

/-! ## Cell movers -/

@[simp] theorem State.moverInvalidates_sheetView (m : MoverOp) : (s.moverInvalidates m).sheetView = s.sheetView := by
  unfold State.moverInvalidates
  split
  · exact foldl_sheetView (fun s x => s.touch_sheetView _ _) _ s
  · exact foldl_sheetView (fun s x => s.touch_sheetView _ _) _ s
  · simp
  · rfl

@[simp] theorem State.endMover_sheetView (m : MoverOp) : (s.endMover m).sheetView = s.sheetView := rfl

@[simp] theorem State.landPiece_sheetView (m : MoverOp) (ecc : EccErrs) (x : Nat × Nat × Nat) :
    (State.landPiece m ecc s x).sheetView = s.sheetView := by
  unfold State.landPiece
  grind [State.readSpan_sheetView, State.csWrite_sheetView, State.causeIn_sheetView]

@[simp] theorem State.storePiece_sheetView (m : MoverOp) (spoiled : Bool) (x : Nat × Nat × Nat) :
    (State.storePiece m spoiled s x).sheetView = s.sheetView := by
  unfold State.storePiece
  grind [State.drawBytes_sheetView, State.lockKey_sheetView, State.stepTouch_sheetView, State.writeSpan_sheetView]

@[simp] theorem State.freeEntry_sheetView (cell core seq : Nat) : (s.freeEntry cell core seq).sheetView = s.sheetView := rfl

/-- Whatever an operation moves. -/
@[simp] theorem State.moveData_sheetView (m : MoverOp) : (s.moveData m).sheetView = s.sheetView := by
  have hland (l : List (Nat × Nat × Nat)) (ecc : EccErrs) : (l.foldl (State.landPiece m ecc) s).sheetView = s.sheetView :=
    foldl_sheetView (fun s x => s.landPiece_sheetView m ecc x) l s
  unfold State.moveData
  dsimp only
  split
  · split <;> simp [hland]
  · exact foldl_sheetView (fun s x => s.storePiece_sheetView m _ x) _ s
  · split <;> simp
  · refine foldl_sheetView (fun s k => ?_) _ s
    split <;> simp
  · next r p c cs ecc _ =>
    have hload : ((List.range c).foldl (fun s k =>
        let (b, po, s) := s.loadPage (s.moverInfo m) r (p + k) (pageErrs ecc k)
        let s := s.csWrite m.cell (cs + 4096 * k) b
        if po then s.causeIn (s.actOfCell m.cell) vPOISON else s) s).sheetView = s.sheetView := by
      refine foldl_sheetView (fun s k => ?_) _ s
      grind [State.loadPage_sheetView, State.csWrite_sheetView, State.causeIn_sheetView]
    split
    · exact (State.scramble_sheetView _ _).trans hload
    · exact hload
  · split
    · rfl
    · exact (foldl_sheetView (fun s p => s.storePage_sheetView _ _ _ _ _) _ _).trans rfl
  · split <;> simp
  · split <;> simp
  · simp
  · simp
  · simp
  · rfl

@[simp] theorem State.tryMover_sheetView (m : MoverOp) : (s.tryMover m).1.sheetView = s.sheetView := by
  unfold State.tryMover
  dsimp only
  split <;> simp

/-! ## Accesses of other modules and of the host -/

@[simp] theorem State.sendLines_sheetView (kind dest src off req : Nat) (po : List Nat) (data : List Byte) :
    (s.sendLines kind dest src off req po data).sheetView = s.sheetView := (s.sendLines_portsOnly ..).sheetView

@[simp] theorem State.answer_sheetView (chip req off : Nat) (a : RemoteAnswer) :
    (s.answer chip req off a).sheetView = s.sheetView := by
  unfold State.answer
  split <;> simp

@[simp] theorem State.serveT3_sheetView (id : Nat) (write : Bool) (off : Nat) (data : List Byte) (po : List Nat) (n : Nat) :
    (State.serveT3 id write off data po n s).sheetView = s.sheetView := by
  induction n generalizing off data po s with
  | zero => rfl
  | succ n ih =>
    refine (ih _ _ _ _).trans ?_
    split <;> rfl

@[simp] theorem State.serve_sheetView (r : RemoteReq) : (s.serve r).sheetView = s.sheetView := by
  unfold State.serve
  dsimp only
  split
  · exact (State.answer_sheetView _ _ _ _ _).trans (s.inc_sheetView 1 (by decide))
  · split
    · exact (State.answer_sheetView _ _ _ _ _).trans (s.raise_cue_sheetView _ (by decide))
    · split
      · split
        · split <;> simp
        · exact (State.serveT3_sheetView _ _ _ _ _ _ _).trans rfl
      · split
        · simp
        · split <;> simp

@[simp] theorem State.resyncWait_sheetView (held : Bool) (since : Option DWord) :
    (s.resyncWait held since).2.sheetView = s.sheetView := by
  unfold State.resyncWait
  grind [State.inc_sheetView, R.commitResyncWaitNs]

@[simp] theorem State.grant_sheetView (line : Nat) : (s.grant line).1.sheetView = s.sheetView := by
  unfold State.grant
  split
  · rfl
  · split
    · rfl
    · split <;> simp

@[simp] theorem State.hostMem_sheetView (since : Option DWord) (a : CxlMemAccess) :
    (s.hostMem since a).sheetView = s.sheetView := by
  unfold State.hostMem
  grind [State.inc_sheetView, R.memWindowRange, State.drawBytes_sheetView, State.emit_sheetView, State.resyncWait_sheetView,
    State.setMem_sheetView, State.lockKey_sheetView, State.grant_sheetView, State.writeLines_sheetView, State.tierRead_sheetView]

@[simp] theorem State.sendHostLines_sheetView (chip off req : Nat) (po : List Nat) (data : List Byte) :
    (s.sendHostLines chip off req po data).sheetView = s.sheetView := by
  refine foldl_sheetView (fun s r => ?_) _ s
  dsimp only
  split <;> simp

@[simp] theorem State.serveHost_sheetView (f : Flit) (write : Bool) (ecc : EccErrs) :
    (s.serveHost f write ecc).sheetView = s.sheetView := by
  unfold State.serveHost
  grind [State.sendHostLines_sheetView, State.inc_sheetView, R.memWindowRange, State.tierWrite_sheetView, State.touch_sheetView,
    State.setMem_sheetView, State.tierRead_sheetView]

/-- An access that has waited. -/
@[simp] theorem State.retryOne_sheetView (w : Waiting) : (s.retryOne w).sheetView = s.sheetView := by
  unfold State.retryOne
  grind [State.setMem_sheetView, State.resyncWait_sheetView, State.writeSpan_sheetView, State.tryMover_sheetView,
    State.serve_sheetView, State.hostMem_sheetView, State.serveHost_sheetView]

end Sys2Proof.Machine
end

section
/-! SUPPORT. Collectives that send, land and update on the network's path (R253 to R268, R290) leave the call sheet. -/

namespace Sys2Proof.Machine

open Sys2Proof

variable (s : State)

/-! ## Flits -/

theorem State.trySpray_sheetView {s t : State} {g dir : Nat} {e : TxFlit} (h : s.trySpray g dir e = some t) :
    t.sheetView = s.sheetView := by
  unfold State.trySpray at h
  dsimp only at h
  split at h
  · cases h
  · cases h
    simp

@[simp] theorem State.sendColl_sheetView (g dir : Nat) (e : TxFlit) : (s.sendColl g dir e).sheetView = s.sheetView := by
  unfold State.sendColl
  dsimp only
  split
  · simp
  · cases h : s.trySpray g dir e with
    | none => simp
    | some t => exact State.trySpray_sheetView h

@[simp] theorem State.sendBit_sheetView (g rank round : Nat) (l : List (Nat × Nat)) :
    (s.sendBit g rank round l).sheetView = s.sheetView := foldl_sheetView (fun s _ => s.sendColl_sheetView _ _ _) l s

@[simp] theorem State.noteBit_sheetView (g rank round : Nat) : (s.noteBit g rank round).sheetView = s.sheetView := rfl

@[simp] theorem State.tellRound_sheetView (g : Nat) : (s.tellRound g).sheetView = s.sheetView := by
  unfold State.tellRound
  split
  · split
    · dsimp only
      split <;> simp
    · rfl
  · rfl

@[simp] theorem State.sendPiece_sheetView (g axis stage n k h off : Nat) (fmt : Byte) (l : List CElem) (o : Option (Nat × Nat))
    (own : Bool) (share : Nat) : (s.sendPiece g axis stage n k h off fmt l o own share).sheetView = s.sheetView :=
  s.sendColl_sheetView _ _ _

@[simp] theorem State.sendStarts_sheetView (g axis n q h : Nat) (gather : Bool) (fmt : Byte) :
    (s.sendStarts g axis n q h gather fmt).sheetView = s.sheetView := by
  refine foldl_sheetView (fun s x => ?_) _ s
  dsimp only
  split
  · rfl
  · split
    · rfl
    · split <;> simp

@[simp] theorem State.startStage_sheetView (g : Nat) : (s.startStage g).sheetView = s.sheetView := by
  unfold State.startStage
  dsimp only
  split
  · rfl
  · split
    · rfl
    · split <;> simp

@[simp] theorem State.sendTo_sheetView (g rank : Nat) (permute : Bool) (chunk off : Nat) (l : List (Nat × Nat × Bool))
    (b : List Byte) : (s.sendTo g rank permute chunk off l b).sheetView = s.sheetView := by
  unfold State.sendTo
  split
  · rfl
  · exact foldl_sheetView (fun s x => s.sendColl_sheetView _ _ _) _ s

/-! ## Landing -/

@[simp] theorem State.landElems_sheetView (i o : Byte) (l : List CElem) : (s.landElems i o l).2.2.2.sheetView = s.sheetView := rfl

@[simp] theorem State.writeMem_sheetView (a : Option ActiveAct) (m : CommMem) (n : Nat) (b : List Byte) :
    (s.writeMem a m n b).sheetView = s.sheetView := by
  unfold State.writeMem
  split <;> simp

@[simp] theorem State.stickyGroup_sheetView (g : Nat) (a : Option ActiveAct) (c : Counts) :
    (s.stickyGroup g a c).sheetView = s.sheetView := by
  unfold State.stickyGroup
  grind [State.inc_sheetView, State.cause_sheetView, Fld.at_, R.collGCountOvf, R.collGCountInv]

@[simp] theorem State.landPieceAt_sheetView (g : Nat) (r : CommRun) (i : Nat) (l : List CElem) :
    (s.landPieceAt g r i l).sheetView = s.sheetView := by
  unfold State.landPieceAt
  grind [State.causeIn_sheetView, State.landElems_sheetView, State.stickyGroup_sheetView, State.writeMem_sheetView]

/-! ## Updates on the network's path -/

@[simp] theorem State.netRead_sheetView (who : EvInfo) (off len : Nat) : (s.netRead who off len).2.sheetView = s.sheetView := by
  unfold State.netRead
  grind [State.touch_sheetView, State.readSpan_sheetView, State.causeIn_sheetView]

@[simp] theorem State.spoilRanges_sheetView (l : List (Nat × Nat)) : (s.spoilRanges l).sheetView = s.sheetView := by
  refine foldl_sheetView (fun s x => ?_) l s
  simp

@[simp] theorem State.shardWrite_sheetView (upd : Bool) (a : Option ActiveAct) (off : Nat) (data : List Byte) :
    (s.shardWrite upd a off data).sheetView = s.sheetView := by
  unfold State.shardWrite
  grind [State.setMem_sheetView, State.stepWrite_sheetView, State.spoilRanges_sheetView, State.drawBytes_sheetView]

@[simp] theorem State.netUpdate_sheetView (idx : Nat) (g : UGroup) (a : Nat) (grad : List Word) (told : Bool) (cg : Nat)
    (act : Option ActiveAct) (tag : Word) : (s.netUpdate idx g a grad told cg act tag).sheetView = s.sheetView := by
  have hinc (u : State) (n : Nat) : (u.inc R.updNonfinite n).sheetView = u.sheetView := u.inc_sheetView n (by decide)
  have hraise (u : State) (e : EvInfo) : (u.raise 0x0624 pgUPD e).sheetView = u.sheetView := u.raise_sheetView e (by decide)
  unfold State.netUpdate
  simp only [apply_ite State.sheetView, apply_ite Prod.fst, apply_ite Prod.snd, hinc, hraise, State.causeIn_sheetView,
    State.netRead_sheetView, State.shardWrite_sheetView, State.stickyGroup_sheetView, ite_self]

end Sys2Proof.Machine
end

section
/-! SUPPORT. Collectives that read and go on, and every access that has waited (R215, R253 to R268, R306), leave the call sheet. -/

namespace Sys2Proof.Machine

open Sys2Proof

variable (s : State)

@[simp] theorem State.netBlock_sheetView (g : Nat) (el : Nat → Option CElem) (j : Nat) :
    (s.netBlock g el j).sheetView = s.sheetView := by
  unfold State.netBlock
  dsimp only
  split
  · rfl
  · split
    · rfl
    · split
      · rfl
      · split <;> simp

@[simp] theorem State.netBlocks_sheetView (g n : Nat) (el : Nat → Option CElem) : (s.netBlocks g n el).sheetView = s.sheetView :=
  foldl_sheetView (fun s j => s.netBlock_sheetView g el j) _ s

@[simp] theorem State.finishReduce_sheetView (g : Nat) : (s.finishReduce g).sheetView = s.sheetView := by
  unfold State.finishReduce
  grind [State.landPieceAt_sheetView, State.setRun_sheetView, State.netBlocks_sheetView]

@[simp] theorem State.advance_sheetView (g : Nat) : (s.advance g).sheetView = s.sheetView := by
  unfold State.advance
  grind [State.finishReduce_sheetView, State.landPieceAt_sheetView, State.setRun_sheetView]

/-! ## Reading -/

@[simp] theorem State.readable_sheetView (m : CommMem) (len : Nat) : (s.readable m len).2.sheetView = s.sheetView := by
  unfold State.readable
  split
  · rfl
  · dsimp only
    split <;> simp

@[simp] theorem State.linkCell_sheetView (g c a len : Nat) : (s.linkCell g c a len).2.sheetView = s.sheetView := rfl

@[simp] theorem State.linkSpan_sheetView (g off len : Nat) : (s.linkSpan g off len).2.sheetView = s.sheetView := by
  unfold State.linkSpan
  dsimp only
  split
  · simp
  · exact s.readSpan_sheetView _ off len []

@[simp] theorem State.readMem_sheetView (g : Nat) (m : CommMem) (len : Nat) : (s.readMem g m len).2.sheetView = s.sheetView := by
  unfold State.readMem
  split <;> simp

@[simp] theorem State.refuseComm_sheetView (g : Nat) (k : CommKind) (tag : Word) (r : CommRefusal) :
    (s.refuseComm g k tag r).sheetView = s.sheetView := by
  unfold State.refuseComm
  dsimp only
  rw [State.causeIn_sheetView]
  split
  · next h => exact s.raise_cue_sheetView _ (by rw [h]; decide)
  · exact (State.raise_sheetView _ _ (by decide)).trans (s.inc_sheetView 1 (by simp [R.cellStoreRange]; omega))
  · exact (State.raise_sheetView _ _ (by simp [pgCELL]; omega)).trans (s.inc_sheetView 1 (by simp [R.cellStoreRange]; omega))
  · exact (State.raise_sheetView _ _ (by decide)).trans (s.inc_sheetView 1 (by decide))
  · exact (State.raise_sheetView _ _ (by decide)).trans
      ((State.set_sheetView _ _ (by decide)).trans (s.inc_sheetView 1 (by decide)))
  · exact s.raise_sheetView _ (by decide)

@[simp] theorem State.commAccess_sheetView (g off : Nat) (r : CommRun) (e : AccessErr) :
    (s.commAccess g off r e).sheetView = s.sheetView :=
  s.refuseComm_sheetView _ _ _ _

@[simp] theorem State.readSrc_sheetView (g : Nat) (x : CommSrc) (n len : Nat) :
    (s.readSrc g x n len).2.sheetView = s.sheetView := by
  unfold State.readSrc
  grind [State.linkSpan_sheetView, foldl_snd_sheetView, State.linkCell_sheetView]

@[simp] theorem State.readSource_sheetView (g : Nat) (r : CommRun) : (s.readSource g r).sheetView = s.sheetView := by
  unfold State.readSource
  grind [State.setRun_sheetView, State.readable_sheetView, State.readSrc_sheetView]

/-! ## All-to-all -/

@[simp] theorem State.a2aRead_sheetView (g : Nat) (f : A2aFields) (r : CommRun) (n len : Nat) :
    (s.a2aRead g f r n len).2.sheetView = s.sheetView := by
  unfold State.a2aRead
  grind [State.commAccess_sheetView, State.drawBytes_sheetView, State.readSrc_sheetView]

@[simp] theorem State.a2aLand_sheetView (g : Nat) (f : A2aFields) (src : Nat) : (s.a2aLand g f src).sheetView = s.sheetView := by
  unfold State.a2aLand
  grind [foldl_snd_sheetView, State.drawBytes_sheetView, State.causeIn_sheetView, State.writeMem_sheetView, State.setRun_sheetView]

@[simp] theorem State.a2aTake_sheetView (g : Nat) (f : A2aFields) (src off : Nat) (b : List Byte) (po : Bool) :
    (s.a2aTake g f src off b po).sheetView = s.sheetView := by
  unfold State.a2aTake
  split <;> simp

@[simp] theorem State.a2aStart_sheetView (g : Nat) (f : A2aFields) (r : CommRun) : (s.a2aStart g f r).sheetView = s.sheetView := by
  unfold State.a2aStart
  grind [foldl_snd_sheetView, foldl_sheetView, State.readable_sheetView, State.readMem_sheetView, State.causeIn_sheetView,
    State.inc_sheetView, R.collGDrops, Fld.at_, State.setGroup_sheetView, State.writeMem_sheetView, State.setRun_sheetView,
    State.a2aRead_sheetView, State.a2aTake_sheetView, State.sendTo_sheetView]

/-! ## Permutation -/

@[simp] theorem State.permTake_sheetView (g : Nat) (p : PermuteFields) (round off : Nat) (po : Bool) (b : List Byte) :
    (s.permTake g p round off po b).sheetView = s.sheetView := by
  unfold State.permTake
  grind [State.raise_sheetView, pgCOLL, State.causeIn_sheetView, State.setRun_sheetView, State.commAccess_sheetView,
    State.drawBytes_sheetView, State.shardWrite_sheetView]

@[simp] theorem State.sendRound_sheetView (g : Nat) (f : PermuteFields) (r : CommRun) :
    (s.sendRound g f r).sheetView = s.sheetView := by
  unfold State.sendRound
  grind [foldl_snd_sheetView, foldl_sheetView, State.readable_sheetView, State.setRun_sheetView, State.commAccess_sheetView,
    State.drawBytes_sheetView, State.linkSpan_sheetView, State.permTake_sheetView, State.sendTo_sheetView]

@[simp] theorem State.readComm_sheetView (g : Nat) : (s.readComm g).sheetView = s.sheetView := by
  unfold State.readComm
  split
  · split
    · rfl
    · split <;> simp
  · rfl

/-! ## Flits that come early -/

theorem State.tryRouted_sheetView {s t : State} {g : Nat} {f : Flit} {o : Option (Nat × Nat)} (h : s.tryRouted g f o = some t) :
    t.sheetView = s.sheetView := by
  unfold State.tryRouted at h
  grind [State.a2aTake_sheetView, State.leave_sheetView, State.permTake_sheetView]

theorem State.foldPiece_sheetView {s t : State} {g axis n q h k off : Nat} {r : CommRun} {l : List CElem} {o : Option (Nat × Nat)}
    (he : s.foldPiece g r axis n q h k off l o = some t) : t.sheetView = s.sheetView := by
  unfold State.foldPiece at he
  grind [State.stickyGroup_sheetView, State.setRun_sheetView, State.netBlocks_sheetView, State.leave_sheetView,
    State.sendPiece_sheetView]

@[simp] theorem State.keepPiece_sheetView (g : Nat) (r : CommRun) (axis n q h k off : Nat) (l : List CElem) (final : Bool)
    (o : Option (Nat × Nat)) : (s.keepPiece g r axis n q h k off l final o).sheetView = s.sheetView := by
  unfold State.keepPiece
  grind [State.setRun_sheetView, State.landPieceAt_sheetView, State.leave_sheetView, State.sendPiece_sheetView]

theorem State.tryFlit_sheetView {s t : State} {g : Nat} {f : Flit} {o : Option (Nat × Nat)} (h : s.tryFlit g f o = some t) :
    t.sheetView = s.sheetView := by
  unfold State.tryFlit at h
  grind [State.foldPiece_sheetView, State.keepPiece_sheetView]

@[simp] theorem State.takeEarly_sheetView (g : Nat) (x : Nat × Flit) : (State.takeEarly g s x).sheetView = s.sheetView := by
  unfold State.takeEarly
  grind [State.tryRouted_sheetView, State.tryFlit_sheetView, State.setGroup_sheetView]

@[simp] theorem State.pumpOnce_sheetView (g : Nat) : (s.pumpOnce g).sheetView = s.sheetView := by
  unfold State.pumpOnce
  refine (foldl_sheetView (fun s x => s.takeEarly_sheetView g x) _ _).trans ?_
  simp

@[simp] theorem State.unblock_sheetView (g : Nat) : (s.unblock g).sheetView = s.sheetView := by
  unfold State.unblock
  exact (foldl_sheetView (fun s b => s.sendColl_sheetView g _ _) _ _).trans (s.setGroup_sheetView _ _)

@[simp] theorem State.pumpColl_sheetView (g : Nat) : (s.pumpColl g).sheetView = s.sheetView := by
  unfold State.pumpColl
  rw [State.tellRound_sheetView]
  exact (foldl_sheetView (fun s _ => s.pumpOnce_sheetView g) _ _).trans (s.unblock_sheetView g)

/-- Whatever waited is tried again. -/
@[simp] theorem State.retryWaiting_sheetView : s.retryWaiting.sheetView = s.sheetView := by
  unfold State.retryWaiting
  refine (foldl_sheetView (fun s g => ?_) _ _).trans ((foldl_sheetView State.retryOne_sheetView _ _).trans (s.setMem_sheetView _))
  split <;> simp

end Sys2Proof.Machine
end

section
/-! SUPPORT. What a boundary does besides its call sheet (R52): deadlines, holds, the outcome of a step, acts that start. -/

namespace Sys2Proof.Machine

open Sys2Proof

variable (s : State)

/-! ## Before the sheet: steps 1 to 3 -/

@[simp] theorem State.overrun_sheetView (act : Nat) : (s.overrun act).sheetView = s.sheetView := by
  unfold State.overrun
  split
  · rfl
  · split
    · rfl
    · exact (State.raise_cue_sheetView _ _ (by decide)).trans
        ((State.set_sheetView_of_notMem _ _ (f := R.cueOverrunCount) (by decide)).trans (s.setAct_sheetView _))

@[simp] theorem State.deadlineCheck_sheetView (n : Nat) : (s.deadlineCheck n).sheetView = s.sheetView :=
  foldl_sheetView (fun s _ => s.overrun_sheetView _) _ s

@[simp] theorem State.gapEnds_sheetView (n : Nat) : (s.gapEnds n).sheetView = s.sheetView := by
  have hoff (l : List Nat) : (s.setOffsets l).sheetView = s.sheetView :=
    foldl_sheetView (fun s d => s.set_sheetView _ (by simp [Fld.at_, R.pwrAgeOffset])) _ s
  unfold State.gapEnds
  grind [State.sheetView]

@[simp] theorem State.ledgersDue_sheetView : s.ledgersDue.sheetView = s.sheetView := by
  refine foldl_sheetView (fun s p => ?_) _ s
  simp [State.oweLedger]

@[simp] theorem State.settle_sheetView (cell now : Nat) : (s.settle cell now).sheetView = s.sheetView := by
  have hdue (s : State) (d : CountDue) : (State.countDue cell s d).sheetView = s.sheetView := by
    unfold State.countDue
    grind [State.inc_sheetView, Fld.at_, R.cellCountOvf, R.cellCountInv]
  unfold State.settle
  dsimp only
  split
  · rfl
  · exact (foldl_sheetView hdue _ _).trans (s.setCell_sheetView _ _)

@[simp] theorem State.dropTierWins_sheetView (rows : Nat) : (s.dropTierWins rows).sheetView = s.sheetView := rfl

@[simp] theorem State.leaveRows_sheetView (rows : Nat) : (s.leaveRows rows).sheetView = s.sheetView := by
  have hcores (u : State) (k : AMap CoreSt) : ({ u with cores := k } : State).sheetView = u.sheetView := rfl
  have hsettle : (s.settleRows rows).sheetView = s.sheetView := foldl_sheetView (fun s c => s.settle_sheetView c _) _ s
  unfold State.leaveRows
  exact (hcores _ _).trans ((State.dropTierWins_sheetView _ rows).trans hsettle)

@[simp] theorem State.tellDrops_sheetView (a : ActiveAct) : (s.tellDrops a).sheetView = s.sheetView := by
  refine foldl_sheetView (fun s g => ?_) _ s
  dsimp only
  split
  · rfl
  · exact (State.raise_sheetView _ _ (by decide)).trans (s.setGroup_sheetView _ _)

@[simp] theorem State.emptyGroup_sheetView (g : Nat) : (s.emptyGroup g).sheetView = s.sheetView := by
  have hleave (l : List (Nat × TxFlit)) (s : State) : (l.foldl (fun s b => s.leave b.2.origin) s).sheetView = s.sheetView :=
    foldl_sheetView (fun s b => s.leave_sheetView _) l s
  have hearly : (s.dropEarly g).sheetView = s.sheetView := foldl_sheetView (fun s e => s.leave_sheetView _) _ _
  exact (hleave _ _).trans hearly

/-- An aborted act (R58) raises an event of page CUE, and not that of a sheet. -/
@[simp] theorem State.abortAct_sheetView (a : ActiveAct) : (s.abortAct a).sheetView = s.sheetView := by
  have hleft : ((s.leaveRows a.desc.rows).tellDrops a).sheetView = s.sheetView := by simp
  have hcores (u : State) (k : AMap CoreSt) (l : List ActiveAct) :
    ({ u with cores := k, acts := l } : State).sheetView = u.sheetView := rfl
  unfold State.abortAct
  exact (foldl_sheetView (fun s g => s.emptyGroup_sheetView g) _ _).trans
    ((hcores _ _ _).trans ((State.raise_cue_sheetView _ _ (by decide)).trans hleft))

@[simp] theorem State.holdLimitCheck_sheetView (n : Nat) : (s.holdLimitCheck n).sheetView = s.sheetView := by
  unfold State.holdLimitCheck
  split
  · rfl
  · split
    · rfl
    · exact (foldl_sheetView (fun s a => s.abortAct_sheetView a) _ _).trans (s.cause_sheetView _)

/-- The work of a boundary that comes before its sheet leaves the sheet as it was. -/
@[simp] theorem State.toSheets_sheetView : s.toSheets.sheetView = s.sheetView := by
  have hcue (u : State) (n : Nat) : (u.set2 R.cueCurCueLo R.cueCurCueHi n).sheetView = u.sheetView :=
    (State.set_sheetView_of_notMem _ _ (by decide)).trans (u.set_sheetView_of_notMem _ (by decide))
  have hheld (u : State) (n : Nat) : ((u.set R.cueShift n).inc R.cueHoldCues 1).sheetView = u.sheetView :=
    (State.set_sheetView_of_notMem _ _ (by decide)).trans (u.set_sheetView_of_notMem _ (by decide))
  have hstart (u : CueSt) : ({ s with evCount := [], cue := u } : State).sheetView = s.sheetView := rfl
  unfold State.toSheets
  simp only [State.holdLimitCheck_sheetView]
  split <;> simp only [hheld, State.deadlineCheck_sheetView, State.gapEnds_sheetView, State.ledgersDue_sheetView, hcue, hstart]

/-! ## The tables of a sheet -/

@[simp] theorem State.touchTable_sheetView (base each n : Nat) : (s.touchTable base each n).sheetView = s.sheetView := by
  unfold State.touchTable
  split <;> simp

@[simp] theorem State.touchTables_sheetView : s.touchTables.sheetView = s.sheetView := by
  unfold State.touchTables
  simp only [apply_ite State.sheetView, State.touchTable_sheetView, foldl_sheetView, ite_self, implies_true]

/-! ## After the sheet: steps 5 to 7 -/

@[simp] theorem State.forgetStep_sheetView : s.forgetStep.sheetView = s.sheetView := rfl

@[simp] theorem State.nextStep_sheetView (committed : Bool) : (s.nextStep committed).sheetView = s.sheetView := by
  unfold State.nextStep
  dsimp only
  split
  · rfl
  · split
    · rfl
    · split
      · exact (State.set_sheetView_of_notMem s.forgetStep 0 (f := R.mgmtJobState) (by decide)).trans rfl
      · rfl

@[simp] theorem State.finishResync_sheetView : s.finishResync.sheetView = s.sheetView := by
  have hpage (s : State) (p : Nat) : (s.resyncPage p).sheetView = s.sheetView := by
    unfold State.resyncPage
    dsimp only
    split <;> simp
  unfold State.finishResync
  split
  · rfl
  · exact (State.retryWaiting_sheetView _).trans (foldl_sheetView hpage _ s)

@[simp] theorem State.layoutOutcome_sheetView (commit : Bool) : (s.layoutOutcome commit).sheetView = s.sheetView := by
  refine foldl_sheetView (fun s g => ?_) _ s
  grind [State.set_sheetView, State.setGroup_sheetView, Fld.at_, R.collGLayoutPending, R.collGLayoutCommitted]

@[simp] theorem State.clearRecords_sheetView : s.clearRecords.sheetView = s.sheetView := rfl

@[simp] theorem State.scaleOutcome_sheetView (commit : Bool) : (s.scaleOutcome commit).sheetView = s.sheetView := by
  unfold State.scaleOutcome
  grind [State.sheetView, foldl_sheetView, State.set_sheetView, State.inc_sheetView, State.raise_sheetView, R.scaleSkipRun,
    R.scaleLowered, R.scaleLastLowered, pgSCALE]

@[simp] theorem State.writeCommitRecord_sheetView (b : Nat) : (s.writeCommitRecord b).sheetView = s.sheetView := by
  simp [State.writeCommitRecord]

@[simp] theorem State.startResync_sheetView : s.startResync.sheetView = s.sheetView := rfl

@[simp] theorem State.outcomeSteps_sheetView (commit : Bool) (b : Nat) : (s.outcomeSteps commit b).sheetView = s.sheetView := by
  unfold State.outcomeSteps
  grind [State.sheetView, State.finishResync_sheetView, State.setMem_sheetView, State.scaleOutcome_sheetView,
    State.clearRecords_sheetView, State.layoutOutcome_sheetView, State.writeCommitRecord_sheetView, State.startResync_sheetView,
    State.set_sheetView, State.set2_sheetView, State.inc_sheetView, State.raise_sheetView, R.commitStepLo, R.commitStepHi,
    R.commitCommits, R.commitSkipRun, R.commitSkips, R.commitOutcomeLast, R.commitOutcomeCueLo, R.commitOutcomeCueHi, pgCOMMIT]

@[simp] theorem State.outcomeStep_sheetView (n : Nat) (held : Bool) : (s.outcomeStep n held).sheetView = s.sheetView := by
  have hb : (s.outcomeBoundary n held).sheetView = s.sheetView := by
    unfold State.outcomeBoundary
    grind [State.outcomeSteps_sheetView]
  unfold State.outcomeStep
  grind [State.nextStep_sheetView]

@[simp] theorem State.loadStreams_sheetView (d : ActDesc) (l : List (Nat × Nat × Nat × List Word)) :
    (s.loadStreams d l).sheetView = s.sheetView := by
  have hcells (u : State) (c : AMap CellSt) : ({ u with cells := c } : State).sheetView = u.sheetView := rfl
  unfold State.loadStreams
  refine (foldl_sheetView (fun s g => s.setGroup_sheetView g _) _ _).trans ?_
  refine (foldl_sheetView (fun s k => s.setCore_sheetView _ _ _) _ _).trans ?_
  refine (State.clearWords_sheetView _ ?_).trans ((hcells _ _).trans (s.dropTierWins_sheetView _))
  rfl

@[simp] theorem State.writeScaleWords_sheetView (a : ActiveAct) : (s.writeScaleWords a).sheetView = s.sheetView := by
  unfold State.writeScaleWords
  split
  · rfl
  · refine foldl_sheetView (fun s w => ?_) _ s
    split
    · split <;> simp
    · rfl

@[simp] theorem State.writeScalarBlocks_sheetView (d : ActDesc) (p : Program) :
    (s.writeScalarBlocks d p).sheetView = s.sheetView := by
  refine foldl_sheetView (fun s b => ?_) _ s
  split
  · split <;> simp
  · rfl

@[simp] theorem State.startCurtain_sheetView (deadline : Nat) : (s.startCurtain deadline).sheetView = s.sheetView := rfl

@[simp] theorem State.traceAct_sheetView (type : Nat) (d : ActDesc) (d0 d1 : Nat) :
    (s.traceAct type d d0 d1).sheetView = s.sheetView := by
  unfold State.traceAct State.trace
  split <;> rfl

@[simp] theorem State.startAct_sheetView (n : Nat) (d : DueAct) : (s.startAct n d).sheetView = s.sheetView := by
  unfold State.startAct
  grind [State.sheetView, State.deriveScalars, State.visit_sheetView, State.loadStreams_sheetView, State.writeScaleWords_sheetView,
    State.writeScalarBlocks_sheetView, State.startCurtain_sheetView, State.traceAct_sheetView]

@[simp] theorem State.startActs_sheetView (n : Nat) : (s.startActs n).sheetView = s.sheetView := by
  unfold State.startActs
  split
  · rfl
  · exact (foldl_sheetView (fun s d => s.startAct_sheetView n d) _ _).trans rfl

@[simp] theorem State.markersOut_sheetView (f : Flood) : (s.markersOut f).sheetView = s.sheetView :=
  foldl_sheetView (fun s p => (s.sendCtl_portsOnly p 1 _).sheetView) _ s

end Sys2Proof.Machine
end

section
/-! SUPPORT. Writes to staging shadows (R60, R61), the rejection of a call sheet (R65), and what is left of it at the end
of its boundary. -/

namespace Sys2Proof.Machine

open Sys2Proof

/-! ## Staging writes -/

variable {s : State} {path : Path} {off : Nat} {v : Word}

/-- What a write that is dropped while a sheet is armed leaves in the sheet: the first one before the checks is noted (R61). -/
def SheetSt.noteDropped (x : SheetSt) (a : Nat) : SheetSt :=
  if x.checked ∨ x.dropped.isSome then x else { x with dropped := some a }

theorem SheetSt.noteDropped_checked {x : SheetSt} (a : Nat) (h : x.checked = true) : x.noteDropped a = x := if_pos (.inl h)

theorem SheetSt.noteDropped_again {x : SheetSt} (a : Nat) (h : x.dropped ≠ none) : x.noteDropped a = x :=
  if_pos (.inr (Option.isSome_iff_ne_none.2 h))

theorem SheetSt.noteDropped_first {x : SheetSt} (a : Nat) (hc : x.checked = false) (hd : x.dropped = none) :
    x.noteDropped a = { x with dropped := some a } := by simp [SheetSt.noteDropped, hc, hd]

/-- A write of the word of a staging shadow has its effect. -/
theorem execStagingWrite_shadow (hpath : s.pathOpen path = true) (hpage : s.pageOpen (off / 0x1000) = true) (hal : off % 4 = 0)
    (hoff : 0x800 ≤ off % 0x1000) : exec (.stagingWrite path off v) s = .next (s.stageWrite path off v).flush := by
  change execStagingWrite path off v s = _
  simp [execStagingWrite, hpath, hpage, hal, Nat.not_lt.2 hoff, done_eq]

/-- While a sheet is armed the write is counted and noted, and stages nothing. -/
theorem State.stageWrite_armed (hst : pageHasStaged (off / 0x1000) = true) (hrows : stagedRows (off - 0x800) ≠ [])
    (ha : s.sheet.armed = true) :
    s.stageWrite path off v = { s.inc R.cueCsStatusLateWrites 1 with sheet := s.sheet.noteDropped (off - 0x800) } := by
  have hr : (stagedRows (off - 0x800)).isEmpty = false := by simpa using hrows
  rw [State.stageWrite, if_neg (by simp [hst]), if_neg (by simp [hr]), if_pos ha]
  unfold SheetSt.noteDropped
  by_cases hx : s.sheet.checked = true ∨ s.sheet.dropped.isSome = true
  · rw [if_pos hx]
    exact if_pos hx
  · rw [if_neg hx]
    exact if_neg hx

/-- The staged word that a write of a shadow makes: the written bits of the staged fields, the live ones of the others. -/
def State.stagedBy (s : State) (a : Nat) (v : Word) : Word :=
  let m := BitVec.ofNat 32 (maskOf (stagedRows a))
  (s.word a &&& ~~~m) ||| (v &&& m)

theorem State.stageWrite_unarmed (hst : pageHasStaged (off / 0x1000) = true) (hrows : stagedRows (off - 0x800) ≠ [])
    (ha : s.sheet.armed = false) :
    s.stageWrite path off v = { s with shadow := AMap.put s.shadow (off - 0x800) (s.stagedBy (off - 0x800) v) } := by
  have hr : (stagedRows (off - 0x800)).isEmpty = false := by simpa using hrows
  rw [State.stageWrite, if_neg (by simp [hst]), if_neg (by simp [hr]), if_neg (by simp [ha])]
  rfl

/-! ## Rejection -/

/-- Fields of page CUE other than its EVENT word: what a rejection writes of them (R65). -/
theorem State.rejectSheet_get (s : State) (addr cause : Nat) {f : Fld} (hf : f.addr ≠ pgCUE * 0x1000 + 0x10) :
    (s.rejectSheet addr cause).get f =
      ((((s.set R.cueCsRejectPage (addr / 0x1000)).set R.cueCsRejectReg (addr % 0x800 / 4)).set R.cueCsRejectCause cause).set
        R.cueCsStatusState 4).get f := by
  have hraise (u : State) (e : EvInfo) : (u.raise 0x0103 pgCUE e).get f = u.get f := by
    rw [State.get, State.get, State.word_raise_other _ _ _ _ hf]
  have hsheet (u : State) (x : SheetSt) : ({ u with sheet := x } : State).get f = u.get f := State.get_congr rfl f
  unfold State.rejectSheet
  dsimp only
  rw [hraise, hsheet]

theorem State.rejectSheet_state (s : State) (addr cause : Nat) : (s.rejectSheet addr cause).get R.cueCsStatusState = 4 := by
  rw [State.rejectSheet_get _ _ _ (by decide), State.get_set_same _ _ _ (by decide)]
  rfl

theorem State.rejectSheet_cause (s : State) (addr cause : Nat) :
    (s.rejectSheet addr cause).get R.cueCsRejectCause = cause % 2 ^ R.cueCsRejectCause.w := by
  rw [State.rejectSheet_get _ _ _ (by decide), State.get_set_other _ _ _ _ (by decide) (by unfold apart; decide),
    State.get_set_same _ _ _ (by decide)]

theorem State.rejectSheet_reg (s : State) (addr cause : Nat) :
    (s.rejectSheet addr cause).get R.cueCsRejectReg = addr % 0x800 / 4 % 2 ^ R.cueCsRejectReg.w := by
  rw [State.rejectSheet_get _ _ _ (by decide), State.get_set_other _ _ _ _ (by decide) (by unfold apart; decide),
    State.get_set_other _ _ _ _ (by decide) (by unfold apart; decide), State.get_set_same _ _ _ (by decide)]

theorem State.rejectSheet_page (s : State) (addr cause : Nat) :
    (s.rejectSheet addr cause).get R.cueCsRejectPage = addr / 0x1000 % 2 ^ R.cueCsRejectPage.w := by
  rw [State.rejectSheet_get _ _ _ (by decide), State.get_set_other _ _ _ _ (by decide) (by unfold apart; decide),
    State.get_set_other _ _ _ _ (by decide) (by unfold apart; decide),
    State.get_set_other _ _ _ _ (by decide) (by unfold apart; decide), State.get_set_same _ _ _ (by decide)]

theorem State.rejectSheet_eventSet (s : State) (addr cause : Nat) : (s.rejectSheet addr cause).eventSet 0x0103 pgCUE :=
  State.raise_eventSet _ _ _ _

/-! ## The check boundary -/

/-- A field of a sheet's words. -/
theorem State.get_of_sheetView {s t : State} (h : t.sheetView = s.sheetView) {f : Fld} (hf : f.addr ∈ sheetWords) :
    t.get f = s.get f := by
  simp [State.get, (sheetView_iff.1 h).2.2.1 _ hf]

/-- The records of a command's events leave the sheet. -/
@[simp] theorem State.flush_sheetView (s : State) : s.flush.sheetView = s.sheetView := by
  have hf : s.flush = s.recorded s.flush := s.flush_recordsOnly.frame
  have hd : ∀ a ∈ guardedWords, a ∉ recordWords := by decide
  refine sheetView_of_words ?_ ?_ fun a ha => s.flush_word (hd a ha)
  · rw [hf]
    rfl
  · rw [hf]
    rfl

theorem State.flush_sheet (s : State) : s.flush.sheet = s.sheet := (sheetView_iff.1 s.flush_sheetView).1

theorem State.flush_shadow (s : State) : s.flush.shadow = s.shadow := (sheetView_iff.1 s.flush_sheetView).2.1

/-- What a boundary leaves of the call sheet is what its step 4 makes of it. -/
theorem State.boundary_sheetView (s : State) :
    s.boundary.sheetView = (s.toSheets.sheetBoundary s.nextCue s.cue.flood).1.sheetView := by
  unfold State.boundary
  grind [State.sheetView, State.markersOut_sheetView, State.outcomeStep_sheetView, State.startActs_sheetView]

/-- At its check boundary a sheet with a dropped write is rejected for it, whatever it holds (R61). -/
theorem State.sheetBoundary_dropped {s : State} {a n : Nat} (fl : Flood) (ha : s.sheet.armed = true) (hc : s.sheet.checked = false)
    (hd : s.sheet.dropped = some a) (ht : s.csTarget = n + (if s.flagReg R.cueCsCtrlMachine then 2 else 1)) :
    (s.sheetBoundary n fl).1 = ((s.set R.cueCsStatusState 2).touchTables).rejectSheet a 4 := by
  have hv : (s.set R.cueCsStatusState 2).touchTables.sheet = s.sheet :=
    congrArg Prod.fst (s.set R.cueCsStatusState 2).touchTables_sheetView
  simp [State.sheetBoundary, ha, hc, ht, State.checkSheet, hv, hd, failAt, State.rejectFor]

theorem execCueBoundary_on {s : State} (hon : s.dataOn = true) : exec .cueBoundary s = .next s.boundary.flush := by
  change execCueBoundary s = _
  rw [execCueBoundary, if_pos hon, done_eq]

/-- The whole of that boundary leaves the rejection as it was made. -/
theorem State.boundary_dropped {s : State} {a : Nat} (ha : s.sheet.armed = true) (hc : s.sheet.checked = false)
    (hd : s.sheet.dropped = some a) (ht : s.csTarget = s.nextCue + (if s.flagReg R.cueCsCtrlMachine then 2 else 1)) :
    ∃ u : State, u.shadow = s.shadow ∧ s.boundary.sheetView = (u.rejectSheet a 4).sheetView := by
  have hv := s.toSheets_sheetView
  obtain ⟨hsheet, hshadow, -, -⟩ := sheetView_iff.1 hv
  have htarget : s.toSheets.csTarget = s.csTarget := by
    rw [State.csTarget, State.get2, State.get_of_sheetView hv (by decide), State.get_of_sheetView hv (by decide)]
    rfl
  have hmachine : s.toSheets.flagReg R.cueCsCtrlMachine = s.flagReg R.cueCsCtrlMachine := by
    rw [State.flagReg, State.get_of_sheetView hv (by decide)]
    rfl
  refine ⟨(s.toSheets.set R.cueCsStatusState 2).touchTables, ?_, ?_⟩
  · have htouch := (sheetView_iff.1 (s.toSheets.set R.cueCsStatusState 2).touchTables_sheetView).2.1
    exact htouch.trans hshadow
  · rw [State.boundary_sheetView, State.sheetBoundary_dropped s.cue.flood (by rw [hsheet, ha]) (by rw [hsheet, hc])
      (by rw [hsheet, hd]) (by rw [htarget, hmachine, ht])]

end Sys2Proof.Machine
end

section
/-! SUPPORT. What is claimed of staging writes. -/

open Sys2Proof Sys2Proof.Machine

/-- Settles O13. A write that is staged changes the shadow at its own offset, one that is dropped the count and the sheet; the rest
of the state differs by records alone. The check boundary rejects a sheet with a dropped write at once, and no other work of that
boundary touches the sheet, its words or its event. -/
theorem stagingWritesReachOnlyTheShadow : Obligations.StagingWritesReachOnlyTheShadow := by
  unfold Obligations.StagingWritesReachOnlyTheShadow
  refine ⟨fun path off v s hpath hpage hal hoff hst hrows => ?_, fun a s hon ha hc hd ht => ?_⟩
  · refine ⟨_, execStagingWrite_shadow hpath hpage hal hoff, fun ha => ?_, fun ha => ?_⟩
    · rw [State.stageWrite_unarmed hst hrows ha]
      refine ⟨?_, fun b hb => ?_, fun b hb _ => State.flush_word _ hb, ?_⟩
      · rw [State.staged, State.flush_shadow, AMap.find_put_same]
        rfl
      · rw [State.flush_shadow, AMap.find_put_other _ _ hb]
      · rw [State.flush_shadow]
        exact (State.flush_recordsOnly _).frame
    · rw [State.stageWrite_armed hst hrows ha]
      refine ⟨?_, ?_, ?_, fun hc => ?_, fun hc hd => ?_, fun hd => ?_⟩
      · rw [State.flush_shadow]
        rfl
      · rw [State.flush_get _ (by decide)]
        exact s.get_inc_same R.cueCsStatusLateWrites 1 (by decide)
      · rw [State.flush_sheet]
        exact (State.flush_recordsOnly _).frame
      · rw [State.flush_sheet]
        exact SheetSt.noteDropped_checked _ hc
      · rw [State.flush_sheet]
        exact SheetSt.noteDropped_first _ hc hd
      · rw [State.flush_sheet]
        exact SheetSt.noteDropped_again _ hd
  · obtain ⟨u, hshadow, hb⟩ := State.boundary_dropped ha hc hd ht
    have hv : s.boundary.flush.sheetView = (u.rejectSheet a 4).sheetView := (State.flush_sheetView _).trans hb
    obtain ⟨hsheet, hkept, -, hevent⟩ := sheetView_iff.1 hv
    refine ⟨s.boundary.flush, execCueBoundary_on hon, hsheet, hkept.trans hshadow, ?_, ?_, ?_, ?_,
      hevent.2 (State.rejectSheet_eventSet _ _ _)⟩
    · rw [State.get_of_sheetView hv (by decide), State.rejectSheet_state]
    · rw [State.get_of_sheetView hv (by decide), State.rejectSheet_cause]
      rfl
    · rw [State.get_of_sheetView hv (by decide), State.rejectSheet_page]
    · rw [State.get_of_sheetView hv (by decide), State.rejectSheet_reg]

end

section
/-! SUPPORT. What INLET HIGH does to the module (R392): the power unit's mark that it stands, the event, and nothing else. -/

namespace Sys2Proof.Machine

open Sys2Proof

/-- A state that is `s` with a new power unit, but for records. -/
theorem State.pwr_frame_of_recorded {s t : State} {x : PwrSt} (h : t = (s.setPwr x).recorded t) :
    t.pwr = x ∧ t = { s.recorded t with pwr := t.pwr } := by
  have hpwr : t.pwr = x := by rw [h]; rfl
  refine ⟨hpwr, ?_⟩
  rw [hpwr]
  exact h

/-- Where a command ends with a new power unit, that unit and the records are all that is new. -/
theorem State.flush_setPwr_frame (s : State) (x : PwrSt) :
    (s.setPwr x).flush.pwr = x ∧ (s.setPwr x).flush = { s.recorded (s.setPwr x).flush with pwr := (s.setPwr x).flush.pwr } :=
  State.pwr_frame_of_recorded (State.flush_recordsOnly _).frame

/-- The same with an event: raising one changes registers and what is to be recorded. -/
theorem State.flush_raise_setPwr_frame (s : State) (x : PwrSt) (code page : Nat) (e : EvInfo) :
    let t := ((s.setPwr x).raise code page e).flush
    t.pwr = x ∧ t = { s.recorded t with pwr := t.pwr } :=
  State.pwr_frame_of_recorded (State.flush_recordsOnly ((s.setPwr x).raise code page e)).frame

variable {s : State} {inlet : Nat}

/-- Above the limit, with INLET HIGH not raised yet: it is raised and marked. -/
theorem execInletHigh_first (hon : s.start.powered = true) (hmark : s.pwr.inletHigh = false) (habove : inletLimit < inlet) :
    exec (.inletHigh inlet) s =
      .next ((s.setPwr { s.pwr with inletHigh := true }).raise 0x0709 pgPWR { detail := inlet }).flush := by
  change execInletHigh inlet s = _
  rw [execInletHigh, if_pos (by simp [hon, hmark, habove]), done_eq]

/-- While the mark stands the report has no effect. -/
theorem execInletHigh_again (hmark : s.pwr.inletHigh = true) : exec (.inletHigh inlet) s = .next s.flush := by
  change execInletHigh inlet s = _
  rw [execInletHigh, if_neg (by simp [hmark]), done_eq]

/-- With the inlet 1 °C below the limit the mark is taken back. -/
theorem execInletHighRearm_below (hon : s.start.powered = true) (hbelow : s.get R.pwrInlet + 10 ≤ inletLimit) :
    exec .inletHighRearm s = .next (s.setPwr { s.pwr with inletHigh := false }).flush := by
  change execInletHighRearm s = _
  rw [execInletHighRearm, if_pos (by simp [hon, hbelow]), done_eq]

end Sys2Proof.Machine
end

section
/-! SUPPORT. What is claimed of the coolant inlet. -/

open Sys2Proof Sys2Proof.Machine

/-- Settles O48. Raised where its mark is clear, INLET HIGH sets the mark; while that stands a report does nothing, and a rearm takes
it back. Writing records keeps the event's bit and, where nothing new is raised, every register word but those of the records. -/
theorem inletHighIsRaisedOnce : Obligations.InletHighIsRaisedOnce := by
  unfold Obligations.InletHighIsRaisedOnce
  refine ⟨fun inlet s hon hmark habove => ?_, fun inlet s hmark => ?_, fun s hon hbelow => ?_⟩
  · obtain ⟨hpwr, hframe⟩ := s.flush_raise_setPwr_frame { s.pwr with inletHigh := true } 0x0709 pgPWR { detail := inlet }
    exact ⟨_, execInletHigh_first hon hmark habove, hpwr, State.eventSet_flush _ _ _ (State.raise_eventSet _ _ _ _), hframe⟩
  · exact ⟨_, execInletHigh_again hmark, fun a ha _ => s.flush_word ha, s.flush_recordsOnly.frame⟩
  · obtain ⟨hpwr, hframe⟩ := s.flush_setPwr_frame { s.pwr with inletHigh := false }
    exact ⟨_, execInletHighRearm_below hon hbelow, hpwr, hframe⟩

end
